-- ==== Sys2Proof/Word.lean ====
section
/-! DEFINITION. The register word, and the sparse sorted tables in which every register file and every object table of the machine is held. -/
namespace Sys2Proof

/-- A 64-bit register, address or CSR (R247). -/
abbrev Word := BitVec 64

/-- One byte of memory. -/
abbrev Byte := BitVec 8

/-- One instruction word (every instruction is one 32-bit word). -/
abbrev IWord := BitVec 32

/-- A sparse table: entries sorted by strictly rising key. -/
abbrev Tbl (α : Type) := List (Nat × α)

end Sys2Proof
end

