-- ==== Sys2Proof/Config.lean ====
section
/-! DEFINITION. What the spec leaves open: free values. Each is an opaque constant with no body, so nothing in Lean can evaluate it or prove a value of it; what it is applied to says what the value may depend on. Named in notes/assumptions. -/
namespace Sys2Proof.Config

/-- An unconstrained 64-bit value, by the number of the draw (the counter `State.draws`, which every step advances) and by
which of the values drawn in that step it is (DESIGN CHOICE, log entry 5). -/
opaque freeWord : Nat → Nat → Word
/-- A fresh unconstrained bit, by the number of the draw (DESIGN CHOICE, log entry 5). -/
opaque freeBit : Nat → Bool
/-- Core clocks that pass in the n-th step: timing is left open, so the amount is free (DESIGN CHOICE, log entry 7). -/
opaque clocks : Nat → Nat
/-- The ASID numbers of the device, by position: R62 gives no values (DESIGN CHOICE, log entry 4). -/
opaque asid : Nat → BitVec 64
/-- How many ASIDs the device has beside the first: R62 gives no number (DESIGN CHOICE, log entry 4). -/
opaque asidCount : BitVec 32
/-- Whether the signature over an image verifies under a key (R69, R66): SLH-DSA-SHAKE-256s is not defined by the spec (DESIGN CHOICE, log entry 8). -/
opaque verifies : BitVec 512 → List Byte → Bool
/-- SHAKE256 of an image, 64 bytes as a number (R69, R396): the hash is not defined by the spec (DESIGN CHOICE, log entry 8). -/
opaque shake : List Byte → BitVec 512
/-- The bytes of the signature the device identity key puts on a report (R396), by position (DESIGN CHOICE, log entry 8). -/
opaque reportSignature : List Byte → Nat → Byte
/-- The device identity public key (R396) (DESIGN CHOICE, log entry 8). -/
opaque identityKey : BitVec 512
/-- The Oxhel key fused in the device, 64 bytes (R66, R69) (DESIGN CHOICE, log entry 8). -/
opaque fusedKey : BitVec 512
/-- The measurement of the Prefect's firmware (R396) (DESIGN CHOICE, log entry 8). -/
opaque firmwareMeasure : BitVec 512
/-- Whether the Prefect's firmware has an emulation routine for an extension key (R66, R262) (DESIGN CHOICE, log entry 9). -/
opaque emulates : BitVec 2 → BitVec 8 → Bool
/-- The extension keys a microcode object holds an entry for, by its measure (R66) (DESIGN CHOICE, log entry 9). -/
opaque microcodeEntries : BitVec 512 → List (BitVec 2 × BitVec 8)
/-- The addresses of the bytes an extension opcode loads through the context's translation, in order, from its microcode object or
the firmware, its key, the number of the draw and s(a), s(b), s(d): its definition lies outside the spec (R262) (DESIGN CHOICE, log entry 9). -/
opaque extensionLoads : BitVec 512 → BitVec 2 → BitVec 8 → Nat → Word × Word × Word → List Word
/-- The result of an extension opcode (R262), from the same and the bytes it loaded (DESIGN CHOICE, log entry 9). -/
opaque extension : BitVec 512 → BitVec 2 → BitVec 8 → Nat → List Byte → Word × Word × Word → Word
/-- The FCSR flags an extension opcode raises (R262) (DESIGN CHOICE, log entry 9). -/
opaque extensionFlags : BitVec 512 → BitVec 2 → BitVec 8 → Nat → List Byte → Word × Word × Word → BitVec 5
/-- The bytes an extension opcode stores through the context's translation, as addresses and values (R262) (DESIGN CHOICE, log entry 9). -/
opaque extensionStores : BitVec 512 → BitVec 2 → BitVec 8 → Nat → List Byte → Word × Word × Word → List (Word × Byte)
/-- The trap an extension's own definition raises, if any: one of the ten program causes of R372, from 0 for cause 1, and a value
(R262) (DESIGN CHOICE, log entry 9). -/
opaque extensionTrap : BitVec 512 → BitVec 2 → BitVec 8 → Nat → List Byte → Word × Word × Word → Option (Fin 10 × Word)
/-- Whether the fabric configuration assigns a device number (R370) (DESIGN CHOICE, log entry 10). -/
opaque deviceAssigned : Nat → Bool
/-- This device's number in the fabric (R232), 0 to 8,191 (DESIGN CHOICE, log entry 10). -/
opaque deviceNumber : BitVec 13
/-- Which word of the physical function's BAR0 that no rule lays out is the identity register with the device number (R24, R232)
(DESIGN CHOICE, log entry 102). -/
opaque identityIndex : Nat
/-- The bytes of the fixed hall-pass and window bookkeeping of a frame's ENG section (R380 gives the contents, not the layout) (DESIGN CHOICE, log entry 11). -/
opaque engByte : Nat → Byte
/-- Length in bytes of the ENG section of a frame (R380 does not state it) (DESIGN CHOICE, log entry 11). -/
opaque engLen : BitVec 12

end Sys2Proof.Config
end

