-- ==== Sys2Proof/Syntax.lean ====
section
/-! DEFINITION. The instructions of the machine: one constructor per row of the opcode table. The 230 encoded words carry their fields at the width of the encoding; the 110 operations and events carry plain data (the function, context, team or unit they act on and what the outside world supplies). -/
namespace Sys2Proof

/-- A message (R232). `payload` holds `8 * len` bytes. -/
structure Msg where
  dst : Nat
  src : Nat
  job : Nat
  hidx : Nat
  len : Nat
  seq : Nat
  payload : List Byte
deriving DecidableEq, Repr

/-- Sharing modes of a cluster (R19). -/
inductive Sharing where
  | unshared | half | quarter
deriving DecidableEq, Repr

/-- What self-test found (R16, R395): mapped-out column groups by core, clusters that failed logic test, cores with
an array that cannot be repaired, and whether DRAM and device cache are usable. -/
structure SelfTest where
  colmap : Tbl (BitVec 32)
  badClusters : List Nat
  badCores : List Nat
  memoryOk : Bool
deriving DecidableEq, Repr

/-- A cap triple (R17). -/
structure Caps where
  m : Nat
  n : Nat
  k : Nat
deriving DecidableEq, Repr

/-- A partition configuration (R17, R23): its clusters, its DRAM as a range of 1 GiB units, its caps for each class,
whether it owns a fabric port (R65), and the functions bound to it. -/
structure PartCfg where
  clusters : List Nat
  dramBase : Nat
  dramUnits : Nat
  capM : Caps
  capE : Caps
  fabric : Bool
  fns : List Nat
deriving DecidableEq, Repr

/-- A storage unit an error is found in (R385). -/
inductive ErrUnit where
  /-- registers, predicates or CSRs of one agent of a team (16 is the sequencer) -/
  | regs (team agent : Nat)
  /-- scratchpad, accumulators, bells, tag table or operand records of a team -/
  | teamState (team : Nat)
  /-- a 64-byte line of device cache or DRAM, by line number -/
  | line (n : Nat)
  /-- a die-to-die link (R11): 0 to 3 join the compute dies, 4 to 7 each of them and the hub -/
  | dieLink (n : Nat)
  /-- group tables of a cluster -/
  | groupTable (cluster : Nat)
  /-- invocation tables or team-location table -/
  | rootTable
  /-- a link, by port -/
  | link (port : Nat)
deriving DecidableEq, Repr

/-- A scheduler unit (R390). -/
inductive SchedUnit where
  | root
  | cluster (c : Nat)
deriving DecidableEq, Repr

/-- Origin and destination device of a message (R232). -/
structure MsgEnds where
  src : Nat
  dst : Nat
deriving DecidableEq, Repr

/-- The end of a port's link that a flit reaches (R231): this device, or the far side. -/
inductive LinkEnd where
  | here (port : Nat)
  | far (port : Nat)
deriving DecidableEq, Repr

/-- Causes of the stall table (R406), in code order. -/
inductive StallCause where
  | operand | bell | token | stream | issueUnit | throttle | haltDebug
deriving DecidableEq, Repr

/-- The instructions: one constructor per row of the opcode table. -/
inductive Instr where
  /-- `NOP` (R291): The all-zero word does nothing. -/
  | nop
  /-- `TRAP` (R292): Code 0 retires the group once any block has completed; a non-zero code raises a software program trap. -/
  | trap (c : BitVec 18)
  /-- `ERET` (R381): A trap handler applies the writable trap frame to the handled agent, which resumes at EPC; the handler group then retires. -/
  | eret
  /-- `YIELD` (R294): Moves the group from RUNNING to READY and restarts its age for the oldest-ready rule. -/
  | yield
  /-- `CLOCK` (R295): Waits until every earlier instruction of its stream has completed, then writes CLK to d. -/
  | clock (d : BitVec 6)
  /-- `BRA` (R285): Unconditional branch by a signed 23-bit word offset; also legal in the matrix stream. -/
  | bra (o : BitVec 23)
  /-- `BP` (R285): Branches when VP 0's bit of the predicate is set, or in the matrix stream when the k register is non-zero. -/
  | bp (c : BitVec 7) (o : BitVec 16)
  /-- `BNP` (R285): Branches when VP 0's bit of the predicate is clear, or in the matrix stream when the k register is zero. -/
  | bnp (c : BitVec 7) (o : BitVec 16)
  /-- `LOOP` (R286): Decrements a non-zero counter register and branches while the result is non-zero. -/
  | loop (c : BitVec 6) (o : BitVec 16)
  /-- `JMP` (R285): Unconditional jump by a signed 23-bit word offset. -/
  | jmp (o : BitVec 23)
  /-- `CALL` (R285): Jumps by a word offset and writes PC + 4 to s63. -/
  | call (o : BitVec 23)
  /-- `JR` (R287): Jumps to the address in s(a). -/
  | jr (a : BitVec 6)
  /-- `CALLR` (R287): Reads the target from s(a), writes the link PC + 4 to s(d), and jumps. -/
  | callr (d : BitVec 6) (a : BitVec 6)
  /-- `RET` (R287): Jumps to the address in s63. -/
  | ret
  /-- `ADD` (R275): s(d) := s(a) + s(b) modulo 2^64. -/
  | add (d : BitVec 6) (a : BitVec 6) (b : BitVec 6)
  /-- `SUB` (R275): s(d) := s(a) - s(b) modulo 2^64. -/
  | sub (d : BitVec 6) (a : BitVec 6) (b : BitVec 6)
  /-- `AND` (R275): Bitwise AND of s(a) and s(b). -/
  | and (d : BitVec 6) (a : BitVec 6) (b : BitVec 6)
  /-- `OR` (R275): Bitwise OR of s(a) and s(b). -/
  | or (d : BitVec 6) (a : BitVec 6) (b : BitVec 6)
  /-- `XOR` (R275): Bitwise XOR of s(a) and s(b). -/
  | xor (d : BitVec 6) (a : BitVec 6) (b : BitVec 6)
  /-- `ANDN` (R275): s(a) AND NOT s(b). -/
  | andn (d : BitVec 6) (a : BitVec 6) (b : BitVec 6)
  /-- `SLL` (R275): Shifts s(a) left by s(b)[5:0]. -/
  | sll (d : BitVec 6) (a : BitVec 6) (b : BitVec 6)
  /-- `SRL` (R275): Shifts s(a) right logically by s(b)[5:0]. -/
  | srl (d : BitVec 6) (a : BitVec 6) (b : BitVec 6)
  /-- `SRA` (R275): Shifts s(a) right arithmetically by s(b)[5:0]. -/
  | sra (d : BitVec 6) (a : BitVec 6) (b : BitVec 6)
  /-- `SLT` (R275): Writes 1 when s(a) < s(b) as signed integers, else 0. -/
  | slt (d : BitVec 6) (a : BitVec 6) (b : BitVec 6)
  /-- `SLTU` (R275): Writes 1 when s(a) < s(b) as unsigned integers, else 0. -/
  | sltu (d : BitVec 6) (a : BitVec 6) (b : BitVec 6)
  /-- `MIN` (R275): Signed minimum of s(a) and s(b). -/
  | min (d : BitVec 6) (a : BitVec 6) (b : BitVec 6)
  /-- `MAX` (R275): Signed maximum of s(a) and s(b). -/
  | max (d : BitVec 6) (a : BitVec 6) (b : BitVec 6)
  /-- `MINU` (R275): Unsigned minimum of s(a) and s(b). -/
  | minu (d : BitVec 6) (a : BitVec 6) (b : BitVec 6)
  /-- `MAXU` (R275): Unsigned maximum of s(a) and s(b). -/
  | maxu (d : BitVec 6) (a : BitVec 6) (b : BitVec 6)
  /-- `POPC` (R275): Counts the set bits of s(a). -/
  | popc (d : BitVec 6) (a : BitVec 6)
  /-- `CLZ` (R275): Counts the zero bits above the highest set bit of s(a). -/
  | clz (d : BitVec 6) (a : BitVec 6)
  /-- `CTZ` (R275): Counts the zero bits below the lowest set bit of s(a). -/
  | ctz (d : BitVec 6) (a : BitVec 6)
  /-- `BREV` (R275): Reverses the bit order of s(a). -/
  | brev (d : BitVec 6) (a : BitVec 6)
  /-- `ADDI` (R276): Adds a signed 14-bit immediate to s(a). -/
  | addi (d : BitVec 6) (a : BitVec 6) (i : BitVec 14)
  /-- `ANDI` (R276): ANDs s(a) with a zero-extended 12-bit immediate. -/
  | andi (d : BitVec 6) (a : BitVec 6) (i : BitVec 12)
  /-- `ORI` (R276): ORs s(a) with a zero-extended 12-bit immediate. -/
  | ori (d : BitVec 6) (a : BitVec 6) (i : BitVec 12)
  /-- `XORI` (R276): XORs s(a) with a zero-extended 12-bit immediate. -/
  | xori (d : BitVec 6) (a : BitVec 6) (i : BitVec 12)
  /-- `SLTI` (R276): Signed compare of s(a) with a sign-extended 12-bit immediate. -/
  | slti (d : BitVec 6) (a : BitVec 6) (i : BitVec 12)
  /-- `SLLI` (R276): Shifts s(a) left by an immediate amount. -/
  | slli (d : BitVec 6) (a : BitVec 6) (n : BitVec 6)
  /-- `SRLI` (R276): Shifts s(a) right logically by an immediate amount. -/
  | srli (d : BitVec 6) (a : BitVec 6) (n : BitVec 6)
  /-- `SRAI` (R276): Shifts s(a) right arithmetically by an immediate amount. -/
  | srai (d : BitVec 6) (a : BitVec 6) (n : BitVec 6)
  /-- `LDHI` (R276): Writes the sign-extended imm19 shifted left by 12. -/
  | ldhi (d : BitVec 6) (i : BitVec 19)
  /-- `ADDPC` (R276): Writes PC plus the sign-extended imm19 shifted left by 12. -/
  | addpc (d : BitVec 6) (i : BitVec 19)
  /-- `MUL` (R277): Low 64 bits of s(a) × s(b). -/
  | mul (d : BitVec 6) (a : BitVec 6) (b : BitVec 6) (l : BitVec 4)
  /-- `MULH` (R277): High 64 bits of the signed 128-bit product. -/
  | mulh (d : BitVec 6) (a : BitVec 6) (b : BitVec 6) (l : BitVec 4)
  /-- `MULHU` (R277): High 64 bits of the unsigned 128-bit product. -/
  | mulhu (d : BitVec 6) (a : BitVec 6) (b : BitVec 6) (l : BitVec 4)
  /-- `DIV` (R277): Signed quotient rounded toward zero, with the exceptional values of R33. -/
  | div (d : BitVec 6) (a : BitVec 6) (b : BitVec 6) (l : BitVec 4)
  /-- `DIVU` (R277): Unsigned quotient. -/
  | divu (d : BitVec 6) (a : BitVec 6) (b : BitVec 6) (l : BitVec 4)
  /-- `REM` (R277): Signed remainder, with the sign of the dividend. -/
  | rem (d : BitVec 6) (a : BitVec 6) (b : BitVec 6) (l : BitVec 4)
  /-- `REMU` (R277): Unsigned remainder. -/
  | remu (d : BitVec 6) (a : BitVec 6) (b : BitVec 6) (l : BitVec 4)
  /-- `LDB` (R279): Loads a sign-extended byte. -/
  | ldb (d : BitVec 6) (a : BitVec 6) (i : BitVec 7) (l : BitVec 4)
  /-- `LDBU` (R279): Loads a zero-extended byte. -/
  | ldbu (d : BitVec 6) (a : BitVec 6) (i : BitVec 7) (l : BitVec 4)
  /-- `LDH` (R279): Loads a sign-extended halfword. -/
  | ldh (d : BitVec 6) (a : BitVec 6) (i : BitVec 7) (l : BitVec 4)
  /-- `LDHU` (R279): Loads a zero-extended halfword. -/
  | ldhu (d : BitVec 6) (a : BitVec 6) (i : BitVec 7) (l : BitVec 4)
  /-- `LDW` (R279): Loads a sign-extended word. -/
  | ldw (d : BitVec 6) (a : BitVec 6) (i : BitVec 7) (l : BitVec 4)
  /-- `LDWU` (R279): Loads a zero-extended word. -/
  | ldwu (d : BitVec 6) (a : BitVec 6) (i : BitVec 7) (l : BitVec 4)
  /-- `LDD` (R279): Loads a doubleword. -/
  | ldd (d : BitVec 6) (a : BitVec 6) (i : BitVec 7) (l : BitVec 4)
  /-- `STB` (R280): Stores the low byte of s(d). -/
  | stb (d : BitVec 6) (a : BitVec 6) (i : BitVec 11)
  /-- `STH` (R280): Stores the low halfword of s(d). -/
  | sth (d : BitVec 6) (a : BitVec 6) (i : BitVec 11)
  /-- `STW` (R280): Stores the low word of s(d). -/
  | stw (d : BitVec 6) (a : BitVec 6) (i : BitVec 11)
  /-- `STD` (R280): Stores the doubleword s(d). -/
  | std (d : BitVec 6) (a : BitVec 6) (i : BitVec 11)
  /-- `ATOM` (R281): One atomic read-modify-write (ADD to SWAP) at s(a) with an ordering code, returning the old value. -/
  | atom (d : BitVec 6) (a : BitVec 6) (z : BitVec 1) (o : BitVec 4) (p : BitVec 4) (l : BitVec 4)
  /-- `CAS` (R281): Compares memory with s(d) and writes s(d+1) on a match, returning the old value in s(d). -/
  | cas (d : BitVec 6) (a : BitVec 6) (z : BitVec 1) (o : BitVec 4) (l : BitVec 4)
  /-- `PCMP` (R282): Compares s(a) with s(b) and writes the result bit to pd in every VP. -/
  | pcmp (p : BitVec 7) (a : BitVec 6) (b : BitVec 6) (c : BitVec 3)
  /-- `PCMPI` (R282): Compares s(a) with a signed imm6 and writes the result bit to pd in every VP. -/
  | pcmpi (p : BitVec 7) (a : BitVec 6) (i : BitVec 6) (c : BitVec 3)
  /-- `PAND` (R283): Predicate AND. -/
  | pand (d : BitVec 7) (a : BitVec 7) (b : BitVec 7)
  /-- `POR` (R283): Predicate OR. -/
  | por (d : BitVec 7) (a : BitVec 7) (b : BitVec 7)
  /-- `PXOR` (R283): Predicate XOR. -/
  | pxor (d : BitVec 7) (a : BitVec 7) (b : BitVec 7)
  /-- `PNOT` (R283): Predicate NOT. -/
  | pnot (d : BitVec 7) (a : BitVec 7)
  /-- `PMOV` (R283): Predicate copy. -/
  | pmov (d : BitVec 7) (a : BitVec 7)
  /-- `PANY` (R283): Sets every bit of pd when some active bit of pa is set. -/
  | pany (d : BitVec 7) (a : BitVec 7)
  /-- `PALL` (R283): Sets every bit of pd when every active bit of pa is set. -/
  | pall (d : BitVec 7) (a : BitVec 7)
  /-- `FADD` (R288): Scalar floating-point add, rounded once under FCSR.RM. -/
  | fadd (d : BitVec 6) (a : BitVec 6) (b : BitVec 6) (f : BitVec 4)
  /-- `FMUL` (R288): Scalar floating-point multiply. -/
  | fmul (d : BitVec 6) (a : BitVec 6) (b : BitVec 6) (f : BitVec 4)
  /-- `FFMA` (R288): Scalar fused multiply-add with d as the addend and one rounding. -/
  | ffma (d : BitVec 6) (a : BitVec 6) (b : BitVec 6) (f : BitVec 4)
  /-- `FCVT` (R289): Scalar conversion between formats, with a signed integer side. -/
  | fcvt (d : BitVec 6) (a : BitVec 6) (s : BitVec 4) (r : BitVec 2) (t : BitVec 4)
  /-- `FCVT_UNS` (R289): Scalar conversion with an unsigned integer side. -/
  | fcvtUns (d : BitVec 6) (a : BitVec 6) (s : BitVec 4) (r : BitVec 2) (t : BitVec 4)
  /-- `CSRR` (R290): Reads a CSR into d. -/
  | csrr (d : BitVec 6) (c : BitVec 12)
  /-- `CSRW` (R252): Returns the old CSR value and writes s(a) under the field rules. -/
  | csrw (d : BitVec 6) (a : BitVec 6) (c : BitVec 12)
  /-- `CSRS` (R252): Returns the old CSR value and sets the bits of s(a). -/
  | csrs (d : BitVec 6) (a : BitVec 6) (c : BitVec 12)
  /-- `CSRC` (R252): Returns the old CSR value and clears the bits of s(a). -/
  | csrc (d : BitVec 6) (a : BitVec 6) (c : BitVec 12)
  /-- `VCFG` (R306): Sets NV and G, zeroes every vector register, sets VLEN to 0 and clears the divergence state. -/
  | vcfg (n : BitVec 2) (g : BitVec 2)
  /-- `VSETVL` (R307): Sets VLEN from s(a), advancing stream strips when slots are bound. -/
  | vsetvl (d : BitVec 6) (a : BitVec 6)
  /-- `VSETVLI` (R307): Sets VLEN from a 12-bit immediate request. -/
  | vsetvli (d : BitVec 6) (i : BitVec 12)
  /-- `VADD` (R308): Vector integer add of b[i] or s(b). -/
  | vadd (d : BitVec 6) (a : BitVec 6) (b : BitVec 6) (s : BitVec 1)
  /-- `VADDI` (R308): Vector integer add of a signed imm6. -/
  | vaddi (d : BitVec 6) (a : BitVec 6) (i : BitVec 6)
  /-- `VSUB` (R308): Vector integer subtract. -/
  | vsub (d : BitVec 6) (a : BitVec 6) (b : BitVec 6) (s : BitVec 1)
  /-- `VMUL` (R308): Low w bits of the element product. -/
  | vmul (d : BitVec 6) (a : BitVec 6) (b : BitVec 6) (s : BitVec 1)
  /-- `VMULH` (R308): High w bits of the signed element product. -/
  | vmulh (d : BitVec 6) (a : BitVec 6) (b : BitVec 6) (s : BitVec 1)
  /-- `VAND` (R308): Vector bitwise AND. -/
  | vand (d : BitVec 6) (a : BitVec 6) (b : BitVec 6) (s : BitVec 1)
  /-- `VOR` (R308): Vector bitwise OR. -/
  | vor (d : BitVec 6) (a : BitVec 6) (b : BitVec 6) (s : BitVec 1)
  /-- `VXOR` (R308): Vector bitwise XOR. -/
  | vxor (d : BitVec 6) (a : BitVec 6) (b : BitVec 6) (s : BitVec 1)
  /-- `VSLL` (R308): Vector shift left. -/
  | vsll (d : BitVec 6) (a : BitVec 6) (b : BitVec 6) (s : BitVec 1)
  /-- `VSRL` (R308): Vector logical shift right. -/
  | vsrl (d : BitVec 6) (a : BitVec 6) (b : BitVec 6) (s : BitVec 1)
  /-- `VSRA` (R308): Vector arithmetic shift right. -/
  | vsra (d : BitVec 6) (a : BitVec 6) (b : BitVec 6) (s : BitVec 1)
  /-- `VMIN` (R308): Vector signed minimum. -/
  | vmin (d : BitVec 6) (a : BitVec 6) (b : BitVec 6) (s : BitVec 1)
  /-- `VMAX` (R308): Vector signed maximum. -/
  | vmax (d : BitVec 6) (a : BitVec 6) (b : BitVec 6) (s : BitVec 1)
  /-- `VMINU` (R308): Vector unsigned minimum. -/
  | vminu (d : BitVec 6) (a : BitVec 6) (b : BitVec 6) (s : BitVec 1)
  /-- `VMAXU` (R308): Vector unsigned maximum. -/
  | vmaxu (d : BitVec 6) (a : BitVec 6) (b : BitVec 6) (s : BitVec 1)
  /-- `VSEL` (R309): Selects a[i] or b[i] by the VMASK predicate for every i below VLEN. -/
  | vsel (d : BitVec 6) (a : BitVec 6) (b : BitVec 6)
  /-- `VBCS` (R309): Broadcasts the low w bits of s(a) to the active elements. -/
  | vbcs (d : BitVec 6) (a : BitVec 6)
  /-- `VID` (R309): Writes each active element's index. -/
  | vid (d : BitVec 6)
  /-- `VPOPC` (R309): Writes the set-bit count of each active element. -/
  | vpopc (d : BitVec 6) (a : BitVec 6)
  /-- `VFADD` (R310): Vector floating-point add. -/
  | vfadd (d : BitVec 6) (a : BitVec 6) (b : BitVec 6) (s : BitVec 1)
  /-- `VFSUB` (R310): Vector floating-point subtract. -/
  | vfsub (d : BitVec 6) (a : BitVec 6) (b : BitVec 6) (s : BitVec 1)
  /-- `VFMUL` (R310): Vector floating-point multiply. -/
  | vfmul (d : BitVec 6) (a : BitVec 6) (b : BitVec 6) (s : BitVec 1)
  /-- `VFFMA` (R310): Vector fused multiply-add with d as the addend. -/
  | vffma (d : BitVec 6) (a : BitVec 6) (b : BitVec 6) (s : BitVec 1)
  /-- `VFMIN` (R310): Vector floating-point minimum under R39. -/
  | vfmin (d : BitVec 6) (a : BitVec 6) (b : BitVec 6) (s : BitVec 1)
  /-- `VFMAX` (R310): Vector floating-point maximum under R39. -/
  | vfmax (d : BitVec 6) (a : BitVec 6) (b : BitVec 6) (s : BitVec 1)
  /-- `VFSGN` (R310): Magnitude of a[i] with the sign of y. -/
  | vfsgn (d : BitVec 6) (a : BitVec 6) (b : BitVec 6) (s : BitVec 1)
  /-- `VFSGN_N` (R310): Magnitude of a[i] with the inverted sign of y. -/
  | vfsgnN (d : BitVec 6) (a : BitVec 6) (b : BitVec 6) (s : BitVec 1)
  /-- `VFSGN_X` (R310): Magnitude of a[i] with the XOR of the two signs. -/
  | vfsgnX (d : BitVec 6) (a : BitVec 6) (b : BitVec 6) (s : BitVec 1)
  /-- `VFDIV` (R311): Vector floating-point division. -/
  | vfdiv (d : BitVec 6) (a : BitVec 6) (b : BitVec 6) (l : BitVec 4)
  /-- `VFSQRT` (R311): Vector square root. -/
  | vfsqrt (d : BitVec 6) (a : BitVec 6) (l : BitVec 4)
  /-- `VFUN_RCP` (R311): Correctly rounded reciprocal. -/
  | vfunRcp (d : BitVec 6) (a : BitVec 6) (l : BitVec 4)
  /-- `VFUN_RSQ` (R311): Correctly rounded reciprocal square root. -/
  | vfunRsq (d : BitVec 6) (a : BitVec 6) (l : BitVec 4)
  /-- `VFUN_EXP2` (R311): Correctly rounded 2^x. -/
  | vfunExp2 (d : BitVec 6) (a : BitVec 6) (l : BitVec 4)
  /-- `VFUN_LOG2` (R311): Correctly rounded log2 x. -/
  | vfunLog2 (d : BitVec 6) (a : BitVec 6) (l : BitVec 4)
  /-- `VFUN_SIN` (R311): Correctly rounded sin(πx). -/
  | vfunSin (d : BitVec 6) (a : BitVec 6) (l : BitVec 4)
  /-- `VFUN_COS` (R311): Correctly rounded cos(πx). -/
  | vfunCos (d : BitVec 6) (a : BitVec 6) (l : BitVec 4)
  /-- `VCVT` (R313): Converts elements to a format of the same width. -/
  | vcvt (d : BitVec 6) (a : BitVec 6) (t : BitVec 4) (m : BitVec 3) (s : BitVec 1) (u : BitVec 1)
  /-- `VNARW` (R314): Narrows elements, including the error-feedback chain under mode EF. -/
  | vnarw (d : BitVec 6) (a : BitVec 6) (t : BitVec 4) (m : BitVec 3) (s : BitVec 1) (u : BitVec 1)
  /-- `VWIDE` (R315): Widens elements exactly into a wide register group. -/
  | vwide (d : BitVec 6) (a : BitVec 6) (t : BitVec 4) (u : BitVec 1)
  /-- `VBSCL` (R316): Decodes block-scaled elements to FP32 using headers from v(b). -/
  | vbscl (d : BitVec 6) (a : BitVec 6) (b : BitVec 6) (m : BitVec 3) (s : BitVec 1)
  /-- `VQUANT` (R317): Quantises FP32 blocks to codes and headers. -/
  | vquant (d : BitVec 6) (a : BitVec 6) (b : BitVec 6) (m : BitVec 3) (s : BitVec 1)
  /-- `VCMP` (R318): Integer compare into the bits of pd. -/
  | vcmp (p : BitVec 7) (a : BitVec 6) (b : BitVec 6) (s : BitVec 1) (c : BitVec 3)
  /-- `VFCMP` (R318): IEEE floating-point compare into the bits of pd. -/
  | vfcmp (p : BitVec 7) (a : BitVec 6) (b : BitVec 6) (s : BitVec 1) (c : BitVec 3)
  /-- `VCLASS` (R319): Classifies elements against a 6-bit mask. -/
  | vclass (p : BitVec 7) (a : BitVec 6) (m : BitVec 6)
  /-- `VSLUP` (R320): Slides elements up by s(b). -/
  | vslup (d : BitVec 6) (a : BitVec 6) (b : BitVec 6)
  /-- `VSLDN` (R320): Slides elements down by s(b). -/
  | vsldn (d : BitVec 6) (a : BitVec 6) (b : BitVec 6)
  /-- `VRGATH` (R320): Gathers a[b[i]] within the register. -/
  | vrgath (d : BitVec 6) (a : BitVec 6) (b : BitVec 6)
  /-- `VCOMPR` (R320): Compresses the active elements and writes their count to s(b). -/
  | vcompr (d : BitVec 6) (a : BitVec 6) (b : BitVec 6)
  /-- `VEXPND` (R320): Expands consecutive elements into the active positions. -/
  | vexpnd (d : BitVec 6) (a : BitVec 6)
  /-- `VBCAST` (R320): Broadcasts element s(b) of a. -/
  | vbcast (d : BitVec 6) (a : BitVec 6) (b : BitVec 6)
  /-- `VEXTR` (R320): Extracts element s(b) into an s register. -/
  | vextr (d : BitVec 6) (a : BitVec 6) (b : BitVec 6)
  /-- `VINS` (R320): Inserts s(a) into element s(b). -/
  | vins (d : BitVec 6) (a : BitVec 6) (b : BitVec 6)
  /-- `VREDSUM` (R321): Integer sum reduction with an initial value. -/
  | vredsum (d : BitVec 6) (a : BitVec 6) (b : BitVec 6)
  /-- `VREDMIN` (R321): Signed minimum reduction. -/
  | vredmin (d : BitVec 6) (a : BitVec 6) (b : BitVec 6)
  /-- `VREDMAX` (R321): Signed maximum reduction. -/
  | vredmax (d : BitVec 6) (a : BitVec 6) (b : BitVec 6)
  /-- `VREDMIN_U` (R321): Unsigned minimum reduction. -/
  | vredminU (d : BitVec 6) (a : BitVec 6) (b : BitVec 6)
  /-- `VREDMAX_U` (R321): Unsigned maximum reduction. -/
  | vredmaxU (d : BitVec 6) (a : BitVec 6) (b : BitVec 6)
  /-- `VREDLOG_AND` (R321): AND reduction. -/
  | vredlogAnd (d : BitVec 6) (a : BitVec 6) (b : BitVec 6)
  /-- `VREDLOG_OR` (R321): OR reduction. -/
  | vredlogOr (d : BitVec 6) (a : BitVec 6) (b : BitVec 6)
  /-- `VREDLOG_XOR` (R321): XOR reduction. -/
  | vredlogXor (d : BitVec 6) (a : BitVec 6) (b : BitVec 6)
  /-- `VFREDSUM` (R321): Floating-point sum over the fixed tree of R48, plus the initial value. -/
  | vfredsum (d : BitVec 6) (a : BitVec 6) (b : BitVec 6)
  /-- `VFREDMAX` (R321): Floating-point maximum reduction under R39. -/
  | vfredmax (d : BitVec 6) (a : BitVec 6) (b : BitVec 6)
  /-- `VLD` (R322): Unit-stride fault-only-first vector load, with an optional bit offset. -/
  | vld (d : BitVec 6) (a : BitVec 6) (b : BitVec 2) (i : BitVec 7) (l : BitVec 4)
  /-- `VLDS` (R322): Strided vector load with stride VSTRIDE. -/
  | vlds (d : BitVec 6) (a : BitVec 6) (i : BitVec 7) (l : BitVec 4)
  /-- `VST` (R322): Unit-stride precise vector store. -/
  | vst (d : BitVec 6) (a : BitVec 6) (b : BitVec 2) (i : BitVec 7)
  /-- `VSTS` (R322): Strided vector store. -/
  | vsts (d : BitVec 6) (a : BitVec 6) (i : BitVec 7)
  /-- `VLDX` (R323): Indexed vector load with unsigned indices. -/
  | vldx (d : BitVec 6) (a : BitVec 6) (b : BitVec 6) (l : BitVec 4)
  /-- `VLDX_SX` (R323): Indexed vector load with signed indices. -/
  | vldxSx (d : BitVec 6) (a : BitVec 6) (b : BitVec 6) (l : BitVec 4)
  /-- `VSTX` (R323): Indexed vector store with unsigned indices. -/
  | vstx (d : BitVec 6) (a : BitVec 6) (b : BitVec 6)
  /-- `VSTX_SX` (R323): Indexed vector store with signed indices. -/
  | vstxSx (d : BitVec 6) (a : BitVec 6) (b : BitVec 6)
  /-- `VAMO` (R336): Per-element atomic read-modify-write that returns the old values. -/
  | vamo (d : BitVec 6) (b : BitVec 6) (o : BitVec 4) (p : BitVec 4) (l : BitVec 4)
  /-- `VREDM` (R336): Per-element atomic update with no returned values. -/
  | vredm (d : BitVec 6) (b : BitVec 6) (o : BitVec 4) (p : BitVec 4)
  /-- `VCAS` (R336): Per-element compare-and-swap with the pair d, d + 1. -/
  | vcas (d : BitVec 6) (b : BitVec 6) (o : BitVec 4) (l : BitVec 4)
  /-- `WAITM` (R184): Parks until one watched location meets the comparison, or the timeout expires. -/
  | waitm (p : BitVec 7) (a : BitVec 6) (b : BitVec 6) (z : BitVec 1) (c : BitVec 3) (t : BitVec 2)
  /-- `VWAITM` (R184): Parks until every active watched element meets its comparison, or the timeout expires. -/
  | vwaitm (p : BitVec 7) (a : BitVec 6) (b : BitVec 6) (c : BitVec 3) (t : BitVec 2)
  /-- `VF` (R329): Starts a vector-fetch block of the active VPs at a target, snapshotting the s registers. -/
  | vf (o : BitVec 23)
  /-- `VBR` (R330): Sends each VP to its target or its fall-through by its own predicate bit. -/
  | vbr (p : BitVec 7) (o : BitVec 16)
  /-- `VJR` (R331): Sends each VP to the address in its own element. -/
  | vjr (v : BitVec 6)
  /-- `VJOIN` (R332): Puts the VP into JOIN at this address. -/
  | vjoin
  /-- `VSTOP` (R332): Puts the VP into STOP. -/
  | vstop
  /-- `VSYNC` (R333): Waits until the block in progress completes. -/
  | vsync
  /-- `GMMA` (R351): Group matrix multiply of 16 × 16 × 16 tiles from vector registers into an FP32 wide group. -/
  | gmma (d : BitVec 6) (a : BitVec 6) (b : BitVec 6) (f : BitVec 3) (l : BitVec 4)
  /-- `GMMAS` (R351): Block-scaled group matrix multiply with headers from v(f+1) and v(f+2). -/
  | gmmas (d : BitVec 6) (a : BitVec 6) (b : BitVec 6) (f : BitVec 3) (l : BitVec 4)
  /-- `TSET` (R353): Computes the tile grant from request, edge and format word, and empties the scale cache. -/
  | tset (k : BitVec 5)
  /-- `TSET_M` (R354): Writes MSTAT.OVT and clears the chosen sticky bits. -/
  | tsetM (k : BitVec 5)
  /-- `TGET` (R355): Reads a sequencer-readable CSR into a k register. -/
  | tget (k : BitVec 5) (c : BitVec 12)
  /-- `TREC` (R352): Copies four k registers into an operand record. -/
  | trec (k : BitVec 5) (m : BitVec 3)
  /-- `TMM` (R356): Accumulates GM × GN dot products over GK into an OPEN accumulator. -/
  | tmm (c : BitVec 2) (a : BitVec 3) (b : BitVec 3) (w : BitVec 8) (l : BitVec 4)
  /-- `TMMS` (R356): Block-scaled tile multiply taking scales from the scale cache. -/
  | tmms (c : BitVec 2) (a : BitVec 3) (b : BitVec 3) (w : BitVec 8) (l : BitVec 4)
  /-- `TLD` (R358): Copies a grant-shaped box from global memory into scratchpad under a token. -/
  | tld (m : BitVec 3) (t : BitVec 3) (k : BitVec 5) (s : BitVec 2) (l : BitVec 4)
  /-- `TST` (R358): Converts and writes an accumulator box to global memory under a token. -/
  | tst (m : BitVec 3) (t : BitVec 3) (k : BitVec 5) (c : BitVec 2) (l : BitVec 4)
  /-- `TST_C` (R358): As TST, then closes the accumulator. -/
  | tstC (m : BitVec 3) (t : BitVec 3) (k : BitVec 5) (c : BitVec 2) (l : BitVec 4)
  /-- `TZERO` (R359): Opens or zeroes an accumulator and records the format word. -/
  | tzero (c : BitVec 2) (w : BitVec 8) (l : BitVec 4)
  /-- `TSAVE` (R359): Writes the accumulator image to scratchpad and makes the accumulator SAVED. -/
  | tsave (c : BitVec 2) (m : BitVec 3) (w : BitVec 8) (l : BitVec 4)
  /-- `TRESTORE` (R160): Checks and loads an accumulator image, opening the accumulator. -/
  | trestore (c : BitVec 2) (m : BitVec 3) (w : BitVec 8) (l : BitVec 4)
  /-- `TCVT` (R359): Converts accumulator elements into scratchpad. -/
  | tcvt (c : BitVec 2) (m : BitVec 3) (w : BitVec 8) (l : BitVec 4)
  /-- `TCVT_C` (R359): As TCVT, then closes the accumulator. -/
  | tcvtC (c : BitVec 2) (m : BitVec 3) (w : BitVec 8) (l : BitVec 4)
  /-- `SCFG` (R166): Binds a vector register to a stream slot and starts the access engine. -/
  | scfg (v : BitVec 6) (a : BitVec 6) (q : BitVec 2) (i : BitVec 6)
  /-- `SMC` (R170): Binds a read stream and multicasts its elements to gang members. -/
  | smc (v : BitVec 6) (a : BitVec 6) (q : BitVec 2) (i : BitVec 6)
  /-- `SREL` (R166): Releases a stream slot, closing a write strip or discarding run-ahead. -/
  | srel (q : BitVec 2)
  /-- `SDRAIN` (R361): Closes a write strip and waits until every pushed element is performed. -/
  | sdrain (q : BitVec 2)
  /-- `CPY` (R362): Copies s(b) bytes from s(a) to s(d) under a token. -/
  | cpy (d : BitVec 6) (a : BitVec 6) (b : BitVec 6) (t : BitVec 3)
  /-- `TWAIT` (R363): Waits until every token of the mask completes, then acquires them. -/
  | twait (w : BitVec 8)
  /-- `TPOLL` (R363): Reads TOKS, clears ERR for the mask and acquires the completed tokens. -/
  | tpoll (d : BitVec 6) (w : BitVec 8)
  /-- `BINIT` (R178): Initialises a bell's expected arrivals. -/
  | binit (b : BitVec 4) (r : BitVec 6)
  /-- `BARV` (R179): One arrival at a bell, returning its phase. -/
  | barv (b : BitVec 4) (r : BitVec 6)
  /-- `BWAIT` (R180): Waits while the bell's phase equals the given value. -/
  | bwait (b : BitVec 4) (r : BitVec 6)
  /-- `BSYNC` (R341): Arrival followed by a wait on the returned phase. -/
  | bsync (b : BitVec 4)
  /-- `BSIG` (R342): Hands a remote arrival for a named team's bell to the Timetable. -/
  | bsig (b : BitVec 4) (r : BitVec 6)
  /-- `QPUSH` (R346): Pushes a record into a LAUNCH or SOFT queue. -/
  | qpush (d : BitVec 6) (a : BitVec 6) (q : BitVec 6) (l : BitVec 4)
  /-- `QPOP` (R346): Pops the oldest SOFT record, or the newest record of the caller's TASK sub-queue. -/
  | qpop (d : BitVec 6) (a : BitVec 6) (q : BitVec 6) (l : BitVec 4)
  /-- `SPAWN` (R83): Pushes a task record to the caller's cluster sub-queue. -/
  | spawn (d : BitVec 6) (a : BitVec 6) (q : BitVec 6) (l : BitVec 4)
  /-- `QSTEAL` (R83): Takes the oldest record of the first non-empty other-cluster sub-queue. -/
  | qsteal (d : BitVec 6) (a : BitVec 6) (q : BitVec 6) (l : BitVec 4)
  /-- `LAUNCH` (R347): Creates an invocation from a launch record held in eight s registers. -/
  | launch (d : BitVec 6) (a : BitVec 6) (l : BitVec 4)
  /-- `LAUNCH_T` (R347): As LAUNCH with the TILE flag read as 1. -/
  | launchT (d : BitVec 6) (a : BitVec 6) (l : BitVec 4)
  /-- `QINFO` (R82): Returns a snapshot of a queue's state, kind, priority, size and count. -/
  | qinfo (d : BitVec 6) (q : BitVec 6) (l : BitVec 4)
  /-- `HLD` (R366): Loads a reference from an object into an h register through the barrier. -/
  | hld (h : BitVec 4) (a : BitVec 4) (i : BitVec 8) (l : BitVec 4)
  /-- `HST` (R366): Stores an h register into an object and sets the word's reference bit. -/
  | hst (h : BitVec 4) (a : BitVec 4) (i : BitVec 8)
  /-- `HLDD` (R366): Loads a payload doubleword into an s register, passing managed slots through the barrier. -/
  | hldd (d : BitVec 6) (a : BitVec 4) (i : BitVec 8) (l : BitVec 4)
  /-- `HSTD` (R366): Stores a doubleword into an object and clears its reference bit. -/
  | hstd (s : BitVec 6) (a : BitVec 4) (i : BitVec 8)
  /-- `HALLOC` (R214): Allocates a zeroed object and returns its reference, or null. -/
  | halloc (s : BitVec 6) (h : BitVec 4) (l : BitVec 4)
  /-- `HPIN` (R224): Passes the barrier, takes the lowest free hall-pass slot and pins the present copy. -/
  | hpin (d : BitVec 6) (h : BitVec 4) (l : BitVec 4)
  /-- `HUNPIN` (R224): Unpins the object of a hall-pass slot and frees the slot. -/
  | hunpin (s : BitVec 6)
  /-- `HCMP` (R227): Compares two references by the object they name, without waiting or healing. -/
  | hcmp (d : BitVec 6) (a : BitVec 4) (b : BitVec 4) (l : BitVec 4)
  /-- `VHLD` (R368): Per-element HLD into a vector register. -/
  | vhld (v : BitVec 6) (b : BitVec 6) (i : BitVec 8) (l : BitVec 4)
  /-- `VHLDD` (R368): Per-element HLDD into a vector register. -/
  | vhldd (v : BitVec 6) (b : BitVec 6) (i : BitVec 8) (l : BitVec 4)
  /-- `VHSTD` (R368): Per-element HSTD from a vector register. -/
  | vhstd (v : BitVec 6) (b : BitVec 6) (i : BitVec 8)
  /-- `MSEND` (R370): Builds and injects a message from a vector register's image, completing once INJ is counted. -/
  | msend (v : BitVec 6) (a : BitVec 6)
  /-- `WQUIET` (R371): Parks the group until a Quiet wave for the job, starting a wave when none is in flight. -/
  | wquiet (a : BitVec 6)
  /-- `MCOUNT` (R371): Returns this device's INJ and CON for a job. -/
  | mcount (d : BitVec 6) (a : BitVec 6)
  /-- `SPLK` (R364): Looks up the team's tag-table slot for a line. -/
  | splk (d : BitVec 6) (a : BitVec 6)
  /-- `SPINS` (R364): Inserts or replaces a tag-table entry. -/
  | spins (d : BitVec 6) (a : BitVec 6) (b : BitVec 6)
  /-- `SPINV` (R364): Removes the tag-table entry for a line. -/
  | spinv (a : BitVec 6)
  /-- `SPINV_ALL` (R364): Removes every tag-table entry of the team. -/
  | spinvAll
  /-- `TXB` (R344): Begins a transaction, recording the abort address and snapshotting registers. -/
  | txb (o : BitVec 24)
  /-- `TXE` (R344): Commits the transaction at one point in coherence order. -/
  | txe
  /-- `TXA` (R344): Aborts the transaction with an 8-bit code. -/
  | txa (c : BitVec 8)
  /-- `FENCE` (R296): Orders accesses by kind at a scope. -/
  | fence (o : BitVec 4)
  /-- `ICSYNC` (R297): Resynchronises instruction fetch at a scope. -/
  | icsync (s : BitVec 3)
  /-- `PREFI` (R298): Asks that an instruction line be fetched into the instruction cache. -/
  | prefi (a : BitVec 6)
  /-- `SIGCHK` (R300): Checks the folded SIGA against a value, clearing it or raising signature mismatch. -/
  | sigchk (v : BitVec 24)
  /-- `BRK` (R299): With breakpoints enabled, halts the group for the debugger. -/
  | brk (c : BitVec 24)
  /-- `EXTENSION_OPCODE` (R262): Runs an extension word from the microcode store or parks it for Prefect emulation. -/
  | extensionOpcode (m : BitVec 2) (d : BitVec 6) (a : BitVec 6) (b : BitVec 6) (f : BitVec 8)
  /-- `HINT_PREFD` (R263): Fetches a line into the device cache when its translation is cached. -/
  | hintPrefd (p : BitVec 6) (a : BitVec 16)
  /-- `HINT_BRLIKELY` (R263): Asserts that the next conditional branch is likely taken. -/
  | hintBrlikely (a : BitVec 16)
  /-- `HINT` (R264): A hint of kind 2 to 15, with no effect. -/
  | hint (p : BitVec 6) (k : BitVec 4) (a : BitVec 16)
  /-- `ILLEGAL_INSTRUCTION` (R261): A fetched word that no encoding defines (an unallocated, reserved or 0x3F major, or an unlisted fn, op, kind or class) raises illegal-instruction precisely. -/
  | illegalInstruction (w : BitVec 32)
  /-- `PRI_RESPONSE` (R203): The host's PRI response repeats the walk on success or writes the entry on failure. -/
  | priResponse (ctx n : Nat) (ok : Bool)
  /-- `TRAP_FRAME_WRITE` (R378): A trapped agent's image is written to the lowest free frame slot and a handler invocation is created. -/
  | trapFrameWrite (team agent : Nat)
  /-- `FAULT_ENTRY_DEFERRED_WRITE` (R204): A fault waiting for room or a writable slot is written once space or a mapping returns. -/
  | faultEntryDeferredWrite (ctx : Nat)
  /-- `CREATE` (R62): Creates a context with an ASID, PASID binding, fault queue and error queue. -/
  | create (fn ctx : Nat)
  /-- `NEGOTIATE` (R65): Computes and fixes the granted feature vector. -/
  | negotiate (fn ctx : Nat)
  /-- `LOAD` (R69): Checks, verifies and installs a code object, returning a handle. -/
  | load (fn ctx : Nat)
  /-- `UNLOAD` (R62): Removes a loaded object with no live invocation. -/
  | unload (fn ctx : Nat)
  /-- `START` (R62): Binds the trap handler and message table and moves the context to RUNNING. -/
  | start (fn ctx : Nat)
  /-- `SUSPEND` (R62): Stops placement and pre-empts every team of the context. -/
  | suspend (fn ctx : Nat)
  /-- `SUSPEND_COMPLETE` (R62): Once every team is saved, SUSPEND completes and the context is SUSPENDED. -/
  | suspendComplete (ctx : Nat)
  /-- `RESUME` (R62): Allows placement again for a suspended context. -/
  | resume (fn ctx : Nat)
  /-- `KILL` (R72): Begins the kill sequence: stop placement, disable queues, discard teams, cancel invocations, close jobs and write the kill record. -/
  | kill (fn ctx : Nat)
  /-- `KILL_SEQUENCE_COMPLETE` (R72): Once writes are drained, the ASID is invalidated, bindings freed, and the context becomes DEAD. -/
  | killSequenceComplete (ctx : Nat)
  /-- `RELEASE` (R62): Frees the number of a DEAD context. -/
  | release (fn ctx : Nat)
  /-- `QUERY` (R62): Reports a context's state and the fuse counter. -/
  | query (fn ctx : Nat)
  /-- `SETEXT` (R66): Selects Prefect emulation or the microcode store for extension opcodes. -/
  | setext (fn ctx : Nat)
  /-- `ADVSEC` (R70): Raises the monotonic security-version counter. -/
  | advsec (fn ctx : Nat)
  /-- `LOADMC` (R66): Fills the microcode store from a signed object. -/
  | loadmc (fn ctx : Nat) (ok : Bool)
  /-- `ADDKEY` (R61): Adds an SLH-DSA public key accepted for LOAD in a partition. -/
  | addkey (fn ctx : Nat) (ok : Bool)
  /-- `MAILBOX_UNKNOWN_COMMAND` (R61): An unknown or unpermitted OP completes with BAD-COMMAND. -/
  | mailboxUnknownCommand (fn : Nat) (val : BitVec 64)
  /-- `REGISTER_WRITE` (R77): A write to a register with no behaviour of its own stores the RW fields, subject to the register's conditions. -/
  | registerWrite (fn off : Nat) (val : BitVec 64)
  /-- `QCTL_ENABLE` (R78): Checks the geometry and storage, zeroes the indices and opens the queue. -/
  | qctlEnable (fn : Nat)
  /-- `QCTL_DRAIN` (R79): Refuses further pushes; the queue is DRAINING, or CLOSED if empty. -/
  | qctlDrain (fn : Nat)
  /-- `QCTL_REOPEN` (R79): Reopens a CLOSED queue with its indices kept. -/
  | qctlReopen (fn : Nat)
  /-- `QCTL_DISABLE` (R79): Discards every held record and releases the storage pages. -/
  | qctlDisable (fn : Nat)
  /-- `QCTL_INVALID` (R77): A QCTL code of 0 or 5 to 7 does nothing and sets LAST to BAD-STATE. -/
  | qctlInvalid (fn : Nat) (cmd : BitVec 3)
  /-- `FQHEAD_WRITE` (R204): Advances the fault queue's HEAD and retries deferred entry writes. -/
  | fqheadWrite (fn : Nat) (val : BitVec 64)
  /-- `FQRES_RETRY` (R205): Resolves a fault entry with RETRY; the agent becomes READY or the engine continues. -/
  | fqresRetry (fn ctx : Nat) (index : BitVec 32)
  /-- `FQRES_FAIL` (R205): Resolves a fault entry with FAIL: page-fault trap, token ERR, or invocation FAULTED. -/
  | fqresFail (fn ctx : Nat) (index : BitVec 32)
  /-- `INVALIDATE` (R207): Starts dropping every cached leaf and header in the range. -/
  | invalidate (fn ctx : Nat) (global : Bool)
  /-- `INVALIDATION_COMPLETE` (R207): Once drops and in-flight accesses are done, the invalidation reports OK. -/
  | invalidationComplete (fn : Nat)
  /-- `MIGRATE` (R208): Marks a page range non-resident for the scoreboard and waits for holds to end. -/
  | migrate (fn ctx : Nat) (global : Bool)
  /-- `MIGRATE_MARK` (R208): With no holds remaining, sets MIG in every leaf of the range and invalidates. -/
  | migrateMark (fn : Nat)
  /-- `INVCTL_INVALID` (R206): An INVCTL OP other than 1 or 2 completes with BAD-CONFIG. -/
  | invctlInvalid (fn ctx : Nat) (op : BitVec 3)
  /-- `HEAP_ENABLE` (R212): Checks the heap configuration and makes every region FREE with GEN 0. -/
  | heapEnable (fn ctx : Nat)
  /-- `HEAP_DISABLE` (R212): Makes every region FREE when no team is resident or saved. -/
  | heapDisable (fn ctx : Nat)
  /-- `EVACUATE` (R219): Plans the relocation of a region's objects and presents the generation bump. -/
  | evacuate (fn ctx : Nat) (dest region : BitVec 16) (any : Bool)
  /-- `EVACUATE_DRAIN_COMPLETE` (R219): Every fast-path store to the region from before the bump has been performed. -/
  | evacuateDrainComplete (ctx region : Nat)
  /-- `OBJECT_COPY_START` (R219): The Caretaker selects an unpinned object with no admitted access and begins its copy. -/
  | objectCopyStart (ctx region off : Nat)
  /-- `OBJECT_COPY_COMPLETE` (R219): An object's copy completes, its forwarding becomes valid and waiting accessors proceed. -/
  | objectCopyComplete (ctx region off : Nat)
  /-- `SWEEP_COMPLETE` (R220): After every managed slot and group is healed, the region becomes FREE. -/
  | sweepComplete (ctx region : Nat)
  /-- `HEAP_RESERVATION_RETRY` (R92): A HEAP result reservation that waited for space retries when the Caretaker frees a region. -/
  | heapReservationRetry (inv : Nat)
  /-- `HCTL_INVALID` (R211): An HCTL OP outside 1 to 3 completes with BAD-CONFIG. -/
  | hctlInvalid (fn ctx : Nat) (op : BitVec 3)
  /-- `LAUNCH_RECORD_CONSUME` (R84): In its turn the Timetable consumes one launch record from a queue and creates an invocation in RECORDED. -/
  | launchRecordConsume (ctx q : Nat)
  /-- `BIND_RECORD_CONSUME` (R89): A bind record sets or clears a stream handle, or is refused with a BAD-BIND record. -/
  | bindRecordConsume (ctx q : Nat)
  /-- `PRIORITY_AGING` (R84): Each elapsed millisecond raises a waiting invocation's effective priority, up to 7. -/
  | priorityAging (inv : Nat)
  /-- `INVOCATION_SELECT` (R84): The Timetable selects the highest-priority dispatchable invocation for placement. -/
  | invocationSelect (part : Nat)
  /-- `TEAM_PLACE` (R95): Places a team or gang on targets with room, starting or restoring its state. -/
  | teamPlace (inv : Nat)
  /-- `PREEMPTION_TIMEOUT` (R85): After 100 µs unplaced, lower-priority resident teams are pre-empted. -/
  | preemptionTimeout (inv : Nat)
  /-- `TEAM_SAVE` (R123): Once every stream has stopped at its pre-emption point, the team image is saved. -/
  | teamSave (team : Nat)
  /-- `BLOCK_PREEMPT_TIMEOUT` (R123): With no block release within 4,096 clocks, every path stops at its next instruction boundary. -/
  | blockPreemptTimeout (team group : Nat)
  /-- `TRANSACTION_PREEMPT_TIMEOUT` (R123): After 2,048 clocks a transaction in progress aborts with cause pre-emption. -/
  | transactionPreemptTimeout (team group : Nat)
  /-- `TEAM_RETIRE` (R119): When all groups retired and engine and message work completed, the team retires. -/
  | teamRetire (team : Nat)
  /-- `INVOCATION_COMPLETE` (R93): Once a draining invocation's writes are performed, it frees its replay record and ends DONE or FAULTED. -/
  | invocationComplete (inv : Nat)
  /-- `BSIG_APPLY` (R181): The signal is applied to a resident bell or saved image, or discarded with a stray-signal record. -/
  | bsigApply (n : Nat)
  /-- `WATCH_EVALUATION` (R185): A write or eviction on a watched line reads every watched location and completes the wait when satisfied. -/
  | watchEvaluation (team group : Nat)
  /-- `WATCH_PERIODIC_EVALUATION` (R185): Every 4,096 clocks in WAIT-MEM the watch is evaluated again. -/
  | watchPeriodicEvaluation (team group : Nat)
  /-- `WATCH_TIMEOUT` (R186): The watch's timeout count expires and the predicate receives the last results. -/
  | watchTimeout (team group : Nat)
  /-- `STREAM_ELEMENT_DELIVER` (R169): The access engine delivers stream elements within run-ahead, releasing a waiting VSETVL. -/
  | streamElementDeliver (team group slot : Nat)
  /-- `ENGINE_ELEMENT_TRANSFER` (R172): The copy engine performs elements of an operation, parking on a recoverable fault or ending with ERR. -/
  | engineElementTransfer (team agent tok : Nat)
  /-- `TOKEN_COMPLETE` (R140): When every write of an engine operation is performed, its token completes and waiting streams proceed. -/
  | tokenComplete (team agent tok : Nat)
  /-- `EMULATION_COMPLETE` (R262): The Prefect finishes an emulated extension word; the group's results are written and it is READY. -/
  | emulationComplete (team group : Nat)
  /-- `MESSAGE_ARRIVAL` (R235): The destination interface accepts a message and creates a handler invocation, drops it, or refuses it. -/
  | messageArrival (m : Msg)
  /-- `REFUSAL_REPORT` (R244): The origin repairs INJ, sets DIRTY and writes a loss event. -/
  | refusalReport (dst job seq : Nat)
  /-- `END_TO_END_ACK` (R243): The destination acknowledges a message, and the origin frees its kept copy. -/
  | endToEndAck (dst job seq : Nat)
  /-- `RESEND_TIMEOUT` (R244): A resent message unacknowledged for 1 ms causes a SEQ query to the destination. -/
  | resendTimeout (dst job seq : Nat)
  /-- `SEQ_QUERY_RESPONSE` (R244): The destination reports SEQ accepted, or marks it refused and the origin repairs. -/
  | seqQueryResponse (ends : MsgEnds) (job seq : Nat) (accepted : Bool)
  /-- `WAVE_RETRY_TIMER` (R242): 20 µs after a wave ends with waiters, the interface starts another. -/
  | waveRetryTimer (job : Nat)
  /-- `WAVE_VISIT` (R240): A wave pass visits an interface, adding its counters and clearing or reading DIRTY. -/
  | waveVisit (job init node : Nat) (second : Bool) (inj con : BitVec 64) (dirty : Bool)
  /-- `WAVE_END` (R240): The wave returns its sums; Quiet is judged and waiting WQUIETs complete on a Quiet wave. -/
  | waveEnd (job : Nat) (reached : Bool)
  /-- `LINK_TRAINED` (R229): Training finishes on 8, 4 or 2 lanes; the link becomes ACTIVE or DEGRADED and replays its buffer. -/
  | linkTrained (port lanes : Nat)
  /-- `TRAINING_TIMEOUT` (R229): Fewer than 2 lanes train within 100 ms; the link FAILS. -/
  | trainingTimeout (port : Nat)
  /-- `LANE_FAULT` (R229): A lane fault moves an active link to RETRAIN. -/
  | laneFault (port : Nat)
  /-- `CRC_REPLAY_LIMIT` (R229): 16 CRC replays within 1 ms move the link to RETRAIN. -/
  | crcReplayLimit (port : Nat)
  /-- `RETRAIN_TIMEOUT` (R229): Retraining fails or exceeds 1 ms; the route is removed and repair begins. -/
  | retrainTimeout (port : Nat) (routes : List Nat)
  /-- `FLIT_RECEIVE` (R231): A flit arrives; a CRC error causes replay from the failed flit, otherwise it is acknowledged. -/
  | flitReceive (at' : LinkEnd) (ok : Bool) (seq : Nat)
  /-- `LINK_RETRY` (R230): LCTL RETRY starts training of a FAILED or DOWN link. -/
  | linkRetry (port : Nat)
  /-- `LINK_DISABLE` (R230): LCTL DISABLE removes the route and takes the link DOWN. -/
  | linkDisable (port : Nat) (routes : List Nat)
  /-- `DEVICE_LOST` (R394): A device whose links stay failed for 1 s is lost, and jobs it held become BROKEN. -/
  | deviceLost (dev : Nat) (jobs : List Nat)
  /-- `POWER_ON` (R395): Power-on resets the device and runs self-test. -/
  | powerOn (t : SelfTest)
  /-- `WARM_RESET` (R395): Kills every context, then runs self-test. -/
  | warmReset (t : SelfTest)
  /-- `CLUSTER_GATE` (R26): A cluster that has held no team for 10 µs is gated. -/
  | clusterGate (cluster : Nat)
  /-- `CLUSTER_UNGATE_COMPLETE` (R26): Ungating a cluster completes within 2 µs so that a team may be placed. -/
  | clusterUngateComplete (cluster : Nat)
  /-- `POWER_LIMIT` (R27): Board power above the limit makes the Prefect throttle the arrays. -/
  | powerLimit (above : Bool)
  /-- `PARTITION_CONFIGURE` (R17): The Prefect accepts or refuses a new partition configuration. -/
  | partitionConfigure (part : Nat) (cfg : PartCfg)
  /-- `CAP_CHANGE_EFFECT` (R18): An accepted cap change takes effect in a cluster once it holds no team of the partition. -/
  | capChangeEffect (part cluster : Nat)
  /-- `SHARING_MODE_REQUEST` (R19): A request to change a cluster's sharing mode stops new placement there. -/
  | sharingModeRequest (cluster : Nat) (mode : Sharing)
  /-- `SHARING_MODE_EFFECT` (R19): The mode change takes effect once every core of the cluster holds no team. -/
  | sharingModeEffect (cluster : Nat)
  /-- `CORRECTABLE_ERROR` (R385): A correctable error is corrected in place and counted. -/
  | correctableError (u : ErrUnit)
  /-- `UNCORRECTABLE_ERROR` (R385): An uncorrectable error traps the agent, faults the team or poisons the line. -/
  | uncorrectableError (u : ErrUnit)
  /-- `RESIDUE_CHECK_FAIL` (R387): A failing residue check on a matrix operation replays the team. -/
  | residueCheckFail (team : Nat)
  /-- `CORE_FAULT_LIMIT` (R387): 3 faults of one core within 1 s withdraw the core. -/
  | coreFaultLimit (core : Nat)
  /-- `SCHEDULER_STATE_ERROR` (R390): A one-hot violation drains the unit and begins a rebuild. -/
  | schedulerStateError (unit : SchedUnit)
  /-- `SCHEDULER_REBUILD_COMPLETE` (R390): The rebuild completes and held events are applied in arbiter order. -/
  | schedulerRebuildComplete (unit : SchedUnit)
  /-- `REBUILD_LIMIT` (R390): Four rebuilds of one cluster within 1 ms withdraw every core of the cluster. -/
  | rebuildLimit (cluster : Nat)
  /-- `WINDOW_ACCESS` (R24): A host access through a BAR window is performed, or refused with all ones and an error record. -/
  | windowAccess (fn off : Nat) (write : Option (List (BitVec 8))) (len : Nat)
  /-- `SPDM_REQUEST` (R396): The Prefect answers an SPDM request with the signed Report Card. -/
  | spdmRequest (nonce : BitVec 256)
  /-- `HALT` (R399): Requests that every stream of a team stop at a convoy boundary. -/
  | halt (fn inv : Nat)
  /-- `HALTROLE` (R401): Requests that the groups of one role stop while the rest run on. -/
  | haltrole (fn inv : Nat) (consumer : Bool)
  /-- `HALT_COMPLETE` (R399): Once the streams have stopped and entered HALTED-DEBUG, the halt command completes. -/
  | haltComplete (fn : Nat)
  /-- `DEBUG_RESUME` (R399): Optionally applies frames, then resumes each halted stream into its recorded state. -/
  | debugResume (fn inv : Nat)
  /-- `DUMP` (R399): Writes one frame per halted stream. -/
  | dump (fn inv : Nat)
  /-- `BRKON` (R399): Makes BRK halt groups of the context. -/
  | brkon (fn : Nat)
  /-- `BRKOFF` (R399): Makes BRK have no effect. -/
  | brkoff (fn : Nat)
  /-- `STALLDUMP` (R406): Writes the stall table and zeroes it. -/
  | stalldump (fn : Nat)
  /-- `TRACE` (R402): Applies TRCFG, turning tracing off, or resetting the ring and starting with a SYNC. -/
  | trace (fn : Nat)
  /-- `DEBUG_INVALID` (R399): A DBGCTL command of 0 or 9 to 15 completes with BAD-CONFIG. -/
  | debugInvalid (fn : Nat) (cmd : BitVec 4)
  /-- `TRACE_SYNC_INTERVAL` (R404): After 255 packets since the last SYNC, a SYNC for the source precedes the next packet. -/
  | traceSyncInterval (team agent : Nat)
  /-- `STALL_CLOCK_CHARGE` (R406): Each clock in which a READY or waiting group, or the sequencer, issues nothing is charged to one stall-table entry, or to the overflow entry. -/
  | stallClockCharge (team agent : Nat) (cause : StallCause) (prod lag : Nat)
deriving DecidableEq, Repr

end Sys2Proof
end

