-- ==== Sys2Proof/Decode.lean ====
section
/-! DEFINITION. The decoder of the instruction words (R253 to R265), total on every word and refusing what no row of the opcode map defines, and after it the encoder, written from the same layouts. -/
namespace Sys2Proof

/-- Bits `lo + n - 1` down to `lo` of an instruction word (R3). -/
def fld (w : IWord) (lo n : Nat) : BitVec n := w.extractLsb' lo n

/-- Words of major 0x00 (R256 to R265). -/
def decode00 (w : IWord) : Option Instr :=
  if fld w 0 8 = 0#8 ∧ fld w 8 12 = 0#12 ∧ fld w 20 6 = 0#6 then some .nop else
  if fld w 0 8 = 1#8 then some (.trap (fld w 8 18)) else
  if fld w 0 8 = 2#8 ∧ fld w 8 12 = 0#12 ∧ fld w 20 6 = 0#6 then some .eret else
  if fld w 0 8 = 3#8 ∧ fld w 8 12 = 0#12 ∧ fld w 20 6 = 0#6 then some .yield else
  if fld w 0 8 = 4#8 ∧ fld w 8 12 = 0#12 then some (.clock (fld w 20 6)) else
  none

/-- Words of major 0x01 (R256 to R265). -/
def decode01 (w : IWord) : Option Instr :=
  if fld w 23 3 = 0#3 then some (.bra (fld w 0 23)) else
  if fld w 23 3 = 1#3 then some (.bp (fld w 16 7) (fld w 0 16)) else
  if fld w 23 3 = 2#3 then some (.bnp (fld w 16 7) (fld w 0 16)) else
  if fld w 22 1 = 0#1 ∧ fld w 23 3 = 3#3 then some (.loop (fld w 16 6) (fld w 0 16)) else
  none

/-- Words of major 0x02 (R256 to R265). -/
def decode02 (w : IWord) : Option Instr :=
  if fld w 23 3 = 0#3 then some (.jmp (fld w 0 23)) else
  if fld w 23 3 = 1#3 then some (.call (fld w 0 23)) else
  none

/-- Words of major 0x03 (R256 to R265). -/
def decode03 (w : IWord) : Option Instr :=
  if fld w 0 14 = 0#14 ∧ fld w 20 6 = 0#6 then some (.jr (fld w 14 6)) else
  if fld w 0 14 = 1#14 then some (.callr (fld w 20 6) (fld w 14 6)) else
  if fld w 0 14 = 2#14 ∧ fld w 14 6 = 0#6 ∧ fld w 20 6 = 0#6 then some .ret else
  none

/-- Words of major 0x04 (R256 to R265). -/
def decode04 (w : IWord) : Option Instr :=
  if fld w 0 8 = 0#8 then some (.add (fld w 20 6) (fld w 14 6) (fld w 8 6)) else
  if fld w 0 8 = 1#8 then some (.sub (fld w 20 6) (fld w 14 6) (fld w 8 6)) else
  if fld w 0 8 = 2#8 then some (.and (fld w 20 6) (fld w 14 6) (fld w 8 6)) else
  if fld w 0 8 = 3#8 then some (.or (fld w 20 6) (fld w 14 6) (fld w 8 6)) else
  if fld w 0 8 = 4#8 then some (.xor (fld w 20 6) (fld w 14 6) (fld w 8 6)) else
  if fld w 0 8 = 5#8 then some (.andn (fld w 20 6) (fld w 14 6) (fld w 8 6)) else
  if fld w 0 8 = 6#8 then some (.sll (fld w 20 6) (fld w 14 6) (fld w 8 6)) else
  if fld w 0 8 = 7#8 then some (.srl (fld w 20 6) (fld w 14 6) (fld w 8 6)) else
  if fld w 0 8 = 8#8 then some (.sra (fld w 20 6) (fld w 14 6) (fld w 8 6)) else
  if fld w 0 8 = 9#8 then some (.slt (fld w 20 6) (fld w 14 6) (fld w 8 6)) else
  if fld w 0 8 = 10#8 then some (.sltu (fld w 20 6) (fld w 14 6) (fld w 8 6)) else
  if fld w 0 8 = 11#8 then some (.min (fld w 20 6) (fld w 14 6) (fld w 8 6)) else
  if fld w 0 8 = 12#8 then some (.max (fld w 20 6) (fld w 14 6) (fld w 8 6)) else
  if fld w 0 8 = 13#8 then some (.minu (fld w 20 6) (fld w 14 6) (fld w 8 6)) else
  if fld w 0 8 = 14#8 then some (.maxu (fld w 20 6) (fld w 14 6) (fld w 8 6)) else
  if fld w 0 8 = 16#8 ∧ fld w 8 6 = 0#6 then some (.popc (fld w 20 6) (fld w 14 6)) else
  if fld w 0 8 = 17#8 ∧ fld w 8 6 = 0#6 then some (.clz (fld w 20 6) (fld w 14 6)) else
  if fld w 0 8 = 18#8 ∧ fld w 8 6 = 0#6 then some (.ctz (fld w 20 6) (fld w 14 6)) else
  if fld w 0 8 = 19#8 ∧ fld w 8 6 = 0#6 then some (.brev (fld w 20 6) (fld w 14 6)) else
  none

/-- Words of major 0x05 (R256 to R265). -/
def decode05 (w : IWord) : Option Instr :=
  some (.addi (fld w 20 6) (fld w 14 6) (fld w 0 14))

/-- Words of major 0x06 (R256 to R265). -/
def decode06 (w : IWord) : Option Instr :=
  if fld w 12 2 = 0#2 then some (.andi (fld w 20 6) (fld w 14 6) (fld w 0 12)) else
  if fld w 12 2 = 1#2 then some (.ori (fld w 20 6) (fld w 14 6) (fld w 0 12)) else
  if fld w 12 2 = 2#2 then some (.xori (fld w 20 6) (fld w 14 6) (fld w 0 12)) else
  if fld w 12 2 = 3#2 then some (.slti (fld w 20 6) (fld w 14 6) (fld w 0 12)) else
  none

/-- Words of major 0x07 (R256 to R265). -/
def decode07 (w : IWord) : Option Instr :=
  if fld w 0 8 = 0#8 then some (.slli (fld w 20 6) (fld w 14 6) (fld w 8 6)) else
  if fld w 0 8 = 1#8 then some (.srli (fld w 20 6) (fld w 14 6) (fld w 8 6)) else
  if fld w 0 8 = 2#8 then some (.srai (fld w 20 6) (fld w 14 6) (fld w 8 6)) else
  none

/-- Words of major 0x08 (R256 to R265). -/
def decode08 (w : IWord) : Option Instr :=
  if fld w 19 1 = 0#1 then some (.ldhi (fld w 20 6) (fld w 0 19)) else
  if fld w 19 1 = 1#1 then some (.addpc (fld w 20 6) (fld w 0 19)) else
  none

/-- Words of major 0x09 (R256 to R265). -/
def decode09 (w : IWord) : Option Instr :=
  if fld w 4 4 = 0#4 then some (.mul (fld w 20 6) (fld w 14 6) (fld w 8 6) (fld w 0 4)) else
  if fld w 4 4 = 1#4 then some (.mulh (fld w 20 6) (fld w 14 6) (fld w 8 6) (fld w 0 4)) else
  if fld w 4 4 = 2#4 then some (.mulhu (fld w 20 6) (fld w 14 6) (fld w 8 6) (fld w 0 4)) else
  if fld w 4 4 = 3#4 then some (.div (fld w 20 6) (fld w 14 6) (fld w 8 6) (fld w 0 4)) else
  if fld w 4 4 = 4#4 then some (.divu (fld w 20 6) (fld w 14 6) (fld w 8 6) (fld w 0 4)) else
  if fld w 4 4 = 5#4 then some (.rem (fld w 20 6) (fld w 14 6) (fld w 8 6) (fld w 0 4)) else
  if fld w 4 4 = 6#4 then some (.remu (fld w 20 6) (fld w 14 6) (fld w 8 6) (fld w 0 4)) else
  none

/-- Words of major 0x0A (R256 to R265). -/
def decode0A (w : IWord) : Option Instr :=
  if fld w 11 3 = 0#3 then some (.ldb (fld w 20 6) (fld w 14 6) (fld w 4 7) (fld w 0 4)) else
  if fld w 11 3 = 1#3 then some (.ldbu (fld w 20 6) (fld w 14 6) (fld w 4 7) (fld w 0 4)) else
  if fld w 11 3 = 2#3 then some (.ldh (fld w 20 6) (fld w 14 6) (fld w 4 7) (fld w 0 4)) else
  if fld w 11 3 = 3#3 then some (.ldhu (fld w 20 6) (fld w 14 6) (fld w 4 7) (fld w 0 4)) else
  if fld w 11 3 = 4#3 then some (.ldw (fld w 20 6) (fld w 14 6) (fld w 4 7) (fld w 0 4)) else
  if fld w 11 3 = 5#3 then some (.ldwu (fld w 20 6) (fld w 14 6) (fld w 4 7) (fld w 0 4)) else
  if fld w 11 3 = 6#3 then some (.ldd (fld w 20 6) (fld w 14 6) (fld w 4 7) (fld w 0 4)) else
  none

/-- Words of major 0x0B (R256 to R265). -/
def decode0B (w : IWord) : Option Instr :=
  if fld w 11 2 = 0#2 ∧ fld w 13 1 = 0#1 then some (.stb (fld w 20 6) (fld w 14 6) (fld w 0 11)) else
  if fld w 11 2 = 1#2 ∧ fld w 13 1 = 0#1 then some (.sth (fld w 20 6) (fld w 14 6) (fld w 0 11)) else
  if fld w 11 2 = 2#2 ∧ fld w 13 1 = 0#1 then some (.stw (fld w 20 6) (fld w 14 6) (fld w 0 11)) else
  if fld w 11 2 = 3#2 ∧ fld w 13 1 = 0#1 then some (.std (fld w 20 6) (fld w 14 6) (fld w 0 11)) else
  if fld w 4 4 = 9#4 ∧ fld w 13 1 = 1#1 then some (.cas (fld w 20 6) (fld w 14 6) (fld w 12 1) (fld w 8 4) (fld w 0 4)) else
  if fld w 13 1 = 1#1 then some (.atom (fld w 20 6) (fld w 14 6) (fld w 12 1) (fld w 8 4) (fld w 4 4) (fld w 0 4)) else
  none

/-- Words of major 0x0C (R256 to R265). -/
def decode0C (w : IWord) : Option Instr :=
  if fld w 3 4 = 0#4 then some (.pcmp (fld w 19 7) (fld w 13 6) (fld w 7 6) (fld w 0 3)) else
  if fld w 3 4 = 1#4 then some (.pcmpi (fld w 19 7) (fld w 13 6) (fld w 7 6) (fld w 0 3)) else
  none

/-- Words of major 0x0D (R256 to R265). -/
def decode0D (w : IWord) : Option Instr :=
  if fld w 0 5 = 0#5 then some (.pand (fld w 19 7) (fld w 12 7) (fld w 5 7)) else
  if fld w 0 5 = 1#5 then some (.por (fld w 19 7) (fld w 12 7) (fld w 5 7)) else
  if fld w 0 5 = 2#5 then some (.pxor (fld w 19 7) (fld w 12 7) (fld w 5 7)) else
  if fld w 0 5 = 3#5 ∧ fld w 5 7 = 0#7 then some (.pnot (fld w 19 7) (fld w 12 7)) else
  if fld w 0 5 = 4#5 ∧ fld w 5 7 = 0#7 then some (.pmov (fld w 19 7) (fld w 12 7)) else
  if fld w 0 5 = 5#5 ∧ fld w 5 7 = 0#7 then some (.pany (fld w 19 7) (fld w 12 7)) else
  if fld w 0 5 = 6#5 ∧ fld w 5 7 = 0#7 then some (.pall (fld w 19 7) (fld w 12 7)) else
  none

/-- Words of major 0x0E (R256 to R265). -/
def decode0E (w : IWord) : Option Instr :=
  if fld w 4 4 = 0#4 then some (.fadd (fld w 20 6) (fld w 14 6) (fld w 8 6) (fld w 0 4)) else
  if fld w 4 4 = 1#4 then some (.fmul (fld w 20 6) (fld w 14 6) (fld w 8 6) (fld w 0 4)) else
  if fld w 4 4 = 2#4 then some (.ffma (fld w 20 6) (fld w 14 6) (fld w 8 6) (fld w 0 4)) else
  if fld w 4 4 = 3#4 then some (.fcvt (fld w 20 6) (fld w 14 6) (fld w 10 4) (fld w 8 2) (fld w 0 4)) else
  if fld w 4 4 = 4#4 then some (.fcvtUns (fld w 20 6) (fld w 14 6) (fld w 10 4) (fld w 8 2) (fld w 0 4)) else
  none

/-- Words of major 0x0F (R256 to R265). -/
def decode0F (w : IWord) : Option Instr :=
  if fld w 12 2 = 0#2 ∧ fld w 14 6 = 0#6 then some (.csrr (fld w 20 6) (fld w 0 12)) else
  if fld w 12 2 = 1#2 then some (.csrw (fld w 20 6) (fld w 14 6) (fld w 0 12)) else
  if fld w 12 2 = 2#2 then some (.csrs (fld w 20 6) (fld w 14 6) (fld w 0 12)) else
  if fld w 12 2 = 3#2 then some (.csrc (fld w 20 6) (fld w 14 6) (fld w 0 12)) else
  none

/-- Words of major 0x10 (R256 to R265). -/
def decode10 (w : IWord) : Option Instr :=
  if fld w 0 8 = 0#8 ∧ fld w 8 2 = 0#2 ∧ fld w 14 12 = 0#12 then some (.vcfg (fld w 12 2) (fld w 10 2)) else
  if fld w 0 8 = 1#8 ∧ fld w 8 2 = 0#2 ∧ fld w 10 4 = 0#4 then some (.vsetvl (fld w 20 6) (fld w 14 6)) else
  if fld w 0 8 = 2#8 then some (.vsetvli (fld w 20 6) (fld w 8 12)) else
  none

/-- Words of major 0x11 (R256 to R265). -/
def decode11 (w : IWord) : Option Instr :=
  if fld w 0 7 = 0#7 then some (.vadd (fld w 20 6) (fld w 14 6) (fld w 8 6) (fld w 7 1)) else
  if fld w 0 7 = 64#7 ∧ fld w 7 1 = 0#1 then some (.vaddi (fld w 20 6) (fld w 14 6) (fld w 8 6)) else
  if fld w 0 7 = 1#7 then some (.vsub (fld w 20 6) (fld w 14 6) (fld w 8 6) (fld w 7 1)) else
  if fld w 0 7 = 2#7 then some (.vmul (fld w 20 6) (fld w 14 6) (fld w 8 6) (fld w 7 1)) else
  if fld w 0 7 = 3#7 then some (.vmulh (fld w 20 6) (fld w 14 6) (fld w 8 6) (fld w 7 1)) else
  if fld w 0 7 = 4#7 then some (.vand (fld w 20 6) (fld w 14 6) (fld w 8 6) (fld w 7 1)) else
  if fld w 0 7 = 5#7 then some (.vor (fld w 20 6) (fld w 14 6) (fld w 8 6) (fld w 7 1)) else
  if fld w 0 7 = 6#7 then some (.vxor (fld w 20 6) (fld w 14 6) (fld w 8 6) (fld w 7 1)) else
  if fld w 0 7 = 7#7 then some (.vsll (fld w 20 6) (fld w 14 6) (fld w 8 6) (fld w 7 1)) else
  if fld w 0 7 = 8#7 then some (.vsrl (fld w 20 6) (fld w 14 6) (fld w 8 6) (fld w 7 1)) else
  if fld w 0 7 = 9#7 then some (.vsra (fld w 20 6) (fld w 14 6) (fld w 8 6) (fld w 7 1)) else
  if fld w 0 7 = 10#7 then some (.vmin (fld w 20 6) (fld w 14 6) (fld w 8 6) (fld w 7 1)) else
  if fld w 0 7 = 11#7 then some (.vmax (fld w 20 6) (fld w 14 6) (fld w 8 6) (fld w 7 1)) else
  if fld w 0 7 = 12#7 then some (.vminu (fld w 20 6) (fld w 14 6) (fld w 8 6) (fld w 7 1)) else
  if fld w 0 7 = 13#7 then some (.vmaxu (fld w 20 6) (fld w 14 6) (fld w 8 6) (fld w 7 1)) else
  none

/-- Words of major 0x12 (R256 to R265). -/
def decode12 (w : IWord) : Option Instr :=
  if fld w 0 8 = 0#8 then some (.vsel (fld w 20 6) (fld w 14 6) (fld w 8 6)) else
  if fld w 0 8 = 1#8 ∧ fld w 8 6 = 0#6 then some (.vbcs (fld w 20 6) (fld w 14 6)) else
  if fld w 0 8 = 2#8 ∧ fld w 8 6 = 0#6 ∧ fld w 14 6 = 0#6 then some (.vid (fld w 20 6)) else
  if fld w 0 8 = 3#8 ∧ fld w 8 6 = 0#6 then some (.vpopc (fld w 20 6) (fld w 14 6)) else
  none

/-- Words of major 0x13 (R256 to R265). -/
def decode13 (w : IWord) : Option Instr :=
  if fld w 0 7 = 0#7 then some (.vfadd (fld w 20 6) (fld w 14 6) (fld w 8 6) (fld w 7 1)) else
  if fld w 0 7 = 1#7 then some (.vfsub (fld w 20 6) (fld w 14 6) (fld w 8 6) (fld w 7 1)) else
  if fld w 0 7 = 2#7 then some (.vfmul (fld w 20 6) (fld w 14 6) (fld w 8 6) (fld w 7 1)) else
  if fld w 0 7 = 3#7 then some (.vffma (fld w 20 6) (fld w 14 6) (fld w 8 6) (fld w 7 1)) else
  if fld w 0 7 = 4#7 then some (.vfmin (fld w 20 6) (fld w 14 6) (fld w 8 6) (fld w 7 1)) else
  if fld w 0 7 = 5#7 then some (.vfmax (fld w 20 6) (fld w 14 6) (fld w 8 6) (fld w 7 1)) else
  if fld w 0 7 = 8#7 then some (.vfsgn (fld w 20 6) (fld w 14 6) (fld w 8 6) (fld w 7 1)) else
  if fld w 0 7 = 9#7 then some (.vfsgnN (fld w 20 6) (fld w 14 6) (fld w 8 6) (fld w 7 1)) else
  if fld w 0 7 = 10#7 then some (.vfsgnX (fld w 20 6) (fld w 14 6) (fld w 8 6) (fld w 7 1)) else
  none

/-- Words of major 0x14 (R256 to R265). -/
def decode14 (w : IWord) : Option Instr :=
  if fld w 4 4 = 0#4 then some (.vfdiv (fld w 20 6) (fld w 14 6) (fld w 8 6) (fld w 0 4)) else
  if fld w 4 4 = 1#4 ∧ fld w 8 6 = 0#6 then some (.vfsqrt (fld w 20 6) (fld w 14 6) (fld w 0 4)) else
  if fld w 4 4 = 2#4 ∧ fld w 8 6 = 0#6 then some (.vfunRcp (fld w 20 6) (fld w 14 6) (fld w 0 4)) else
  if fld w 4 4 = 3#4 ∧ fld w 8 6 = 0#6 then some (.vfunRsq (fld w 20 6) (fld w 14 6) (fld w 0 4)) else
  if fld w 4 4 = 4#4 ∧ fld w 8 6 = 0#6 then some (.vfunExp2 (fld w 20 6) (fld w 14 6) (fld w 0 4)) else
  if fld w 4 4 = 5#4 ∧ fld w 8 6 = 0#6 then some (.vfunLog2 (fld w 20 6) (fld w 14 6) (fld w 0 4)) else
  if fld w 4 4 = 6#4 ∧ fld w 8 6 = 0#6 then some (.vfunSin (fld w 20 6) (fld w 14 6) (fld w 0 4)) else
  if fld w 4 4 = 7#4 ∧ fld w 8 6 = 0#6 then some (.vfunCos (fld w 20 6) (fld w 14 6) (fld w 0 4)) else
  none

/-- Words of major 0x15 (R256 to R265). -/
def decode15 (w : IWord) : Option Instr :=
  if fld w 5 3 = 0#3 ∧ fld w 8 2 = 0#2 then some (.vcvt (fld w 20 6) (fld w 14 6) (fld w 10 4) (fld w 2 3) (fld w 1 1) (fld w 0 1)) else
  if fld w 5 3 = 1#3 ∧ fld w 8 2 = 0#2 then some (.vnarw (fld w 20 6) (fld w 14 6) (fld w 10 4) (fld w 2 3) (fld w 1 1) (fld w 0 1)) else
  if fld w 1 4 = 0#4 ∧ fld w 5 3 = 2#3 ∧ fld w 8 2 = 0#2 then some (.vwide (fld w 20 6) (fld w 14 6) (fld w 10 4) (fld w 0 1)) else
  if fld w 0 1 = 0#1 ∧ fld w 5 3 = 3#3 then some (.vbscl (fld w 20 6) (fld w 14 6) (fld w 8 6) (fld w 2 3) (fld w 1 1)) else
  if fld w 0 1 = 0#1 ∧ fld w 5 3 = 4#3 then some (.vquant (fld w 20 6) (fld w 14 6) (fld w 8 6) (fld w 2 3) (fld w 1 1)) else
  none

/-- Words of major 0x16 (R256 to R265). -/
def decode16 (w : IWord) : Option Instr :=
  if fld w 3 3 = 0#3 then some (.vcmp (fld w 19 7) (fld w 13 6) (fld w 7 6) (fld w 6 1) (fld w 0 3)) else
  if fld w 3 3 = 2#3 then some (.vfcmp (fld w 19 7) (fld w 13 6) (fld w 7 6) (fld w 6 1) (fld w 0 3)) else
  if fld w 0 3 = 0#3 ∧ fld w 3 3 = 4#3 ∧ fld w 6 1 = 0#1 then some (.vclass (fld w 19 7) (fld w 13 6) (fld w 7 6)) else
  none

/-- Words of major 0x17 (R256 to R265). -/
def decode17 (w : IWord) : Option Instr :=
  if fld w 0 8 = 0#8 then some (.vslup (fld w 20 6) (fld w 14 6) (fld w 8 6)) else
  if fld w 0 8 = 1#8 then some (.vsldn (fld w 20 6) (fld w 14 6) (fld w 8 6)) else
  if fld w 0 8 = 2#8 then some (.vrgath (fld w 20 6) (fld w 14 6) (fld w 8 6)) else
  if fld w 0 8 = 3#8 then some (.vcompr (fld w 20 6) (fld w 14 6) (fld w 8 6)) else
  if fld w 0 8 = 4#8 ∧ fld w 8 6 = 0#6 then some (.vexpnd (fld w 20 6) (fld w 14 6)) else
  if fld w 0 8 = 5#8 then some (.vbcast (fld w 20 6) (fld w 14 6) (fld w 8 6)) else
  if fld w 0 8 = 6#8 then some (.vextr (fld w 20 6) (fld w 14 6) (fld w 8 6)) else
  if fld w 0 8 = 7#8 then some (.vins (fld w 20 6) (fld w 14 6) (fld w 8 6)) else
  none

/-- Words of major 0x18 (R256 to R265). -/
def decode18 (w : IWord) : Option Instr :=
  if fld w 0 8 = 0#8 then some (.vredsum (fld w 20 6) (fld w 14 6) (fld w 8 6)) else
  if fld w 0 8 = 1#8 then some (.vredmin (fld w 20 6) (fld w 14 6) (fld w 8 6)) else
  if fld w 0 8 = 2#8 then some (.vredmax (fld w 20 6) (fld w 14 6) (fld w 8 6)) else
  if fld w 0 8 = 3#8 then some (.vredminU (fld w 20 6) (fld w 14 6) (fld w 8 6)) else
  if fld w 0 8 = 4#8 then some (.vredmaxU (fld w 20 6) (fld w 14 6) (fld w 8 6)) else
  if fld w 0 8 = 5#8 then some (.vredlogAnd (fld w 20 6) (fld w 14 6) (fld w 8 6)) else
  if fld w 0 8 = 6#8 then some (.vredlogOr (fld w 20 6) (fld w 14 6) (fld w 8 6)) else
  if fld w 0 8 = 7#8 then some (.vredlogXor (fld w 20 6) (fld w 14 6) (fld w 8 6)) else
  if fld w 0 8 = 8#8 then some (.vfredsum (fld w 20 6) (fld w 14 6) (fld w 8 6)) else
  if fld w 0 8 = 9#8 then some (.vfredmax (fld w 20 6) (fld w 14 6) (fld w 8 6)) else
  none

/-- Words of major 0x19 (R256 to R265). -/
def decode19 (w : IWord) : Option Instr :=
  if fld w 13 1 = 0#1 then some (.vld (fld w 20 6) (fld w 14 6) (fld w 11 2) (fld w 4 7) (fld w 0 4)) else
  if fld w 11 2 = 0#2 ∧ fld w 13 1 = 1#1 then some (.vlds (fld w 20 6) (fld w 14 6) (fld w 4 7) (fld w 0 4)) else
  none

/-- Words of major 0x1A (R256 to R265). -/
def decode1A (w : IWord) : Option Instr :=
  if fld w 0 4 = 0#4 ∧ fld w 13 1 = 0#1 then some (.vst (fld w 20 6) (fld w 14 6) (fld w 11 2) (fld w 4 7)) else
  if fld w 0 4 = 0#4 ∧ fld w 11 2 = 0#2 ∧ fld w 13 1 = 1#1 then some (.vsts (fld w 20 6) (fld w 14 6) (fld w 4 7)) else
  none

/-- Words of major 0x1B (R256 to R265). -/
def decode1B (w : IWord) : Option Instr :=
  if fld w 4 4 = 0#4 then some (.vldx (fld w 20 6) (fld w 14 6) (fld w 8 6) (fld w 0 4)) else
  if fld w 4 4 = 1#4 then some (.vldxSx (fld w 20 6) (fld w 14 6) (fld w 8 6) (fld w 0 4)) else
  none

/-- Words of major 0x1C (R256 to R265). -/
def decode1C (w : IWord) : Option Instr :=
  if fld w 0 8 = 0#8 then some (.vstx (fld w 20 6) (fld w 14 6) (fld w 8 6)) else
  if fld w 0 8 = 16#8 then some (.vstxSx (fld w 20 6) (fld w 14 6) (fld w 8 6)) else
  none

/-- Words of major 0x1D (R256 to R265). -/
def decode1D (w : IWord) : Option Instr :=
  if fld w 8 2 = 0#2 then some (.vamo (fld w 20 6) (fld w 14 6) (fld w 10 4) (fld w 4 4) (fld w 0 4)) else
  if fld w 0 4 = 0#4 ∧ fld w 8 2 = 1#2 then some (.vredm (fld w 20 6) (fld w 14 6) (fld w 10 4) (fld w 4 4)) else
  if fld w 4 4 = 10#4 ∧ fld w 8 2 = 2#2 then some (.vcas (fld w 20 6) (fld w 14 6) (fld w 10 4) (fld w 0 4)) else
  none

/-- Words of major 0x1E (R256 to R265). -/
def decode1E (w : IWord) : Option Instr :=
  if fld w 6 1 = 0#1 then some (.waitm (fld w 19 7) (fld w 13 6) (fld w 7 6) (fld w 5 1) (fld w 2 3) (fld w 0 2)) else
  if fld w 5 1 = 0#1 ∧ fld w 6 1 = 1#1 then some (.vwaitm (fld w 19 7) (fld w 13 6) (fld w 7 6) (fld w 2 3) (fld w 0 2)) else
  none

/-- Words of major 0x1F (R256 to R265). -/
def decode1F (w : IWord) : Option Instr :=
  if fld w 23 3 = 0#3 then some (.vf (fld w 0 23)) else
  if fld w 23 3 = 1#3 then some (.vbr (fld w 16 7) (fld w 0 16)) else
  if fld w 0 16 = 0#16 ∧ fld w 22 1 = 0#1 ∧ fld w 23 3 = 2#3 then some (.vjr (fld w 16 6)) else
  if fld w 0 16 = 0#16 ∧ fld w 16 6 = 0#6 ∧ fld w 22 1 = 0#1 ∧ fld w 23 3 = 3#3 then some .vjoin else
  if fld w 0 16 = 0#16 ∧ fld w 16 6 = 0#6 ∧ fld w 22 1 = 0#1 ∧ fld w 23 3 = 4#3 then some .vstop else
  if fld w 0 16 = 0#16 ∧ fld w 16 6 = 0#6 ∧ fld w 22 1 = 0#1 ∧ fld w 23 3 = 5#3 then some .vsync else
  none

/-- Words of major 0x20 (R256 to R265). -/
def decode20 (w : IWord) : Option Instr :=
  if fld w 4 1 = 0#1 then some (.gmma (fld w 20 6) (fld w 14 6) (fld w 8 6) (fld w 5 3) (fld w 0 4)) else
  if fld w 4 1 = 1#1 then some (.gmmas (fld w 20 6) (fld w 14 6) (fld w 8 6) (fld w 5 3) (fld w 0 4)) else
  none

/-- Words of major 0x21 (R256 to R265). -/
def decode21 (w : IWord) : Option Instr :=
  if fld w 0 12 = 0#12 ∧ fld w 12 3 = 0#3 ∧ fld w 15 3 = 0#3 ∧ fld w 23 3 = 0#3 then some (.tset (fld w 18 5)) else
  if fld w 0 12 = 0#12 ∧ fld w 12 3 = 0#3 ∧ fld w 15 3 = 0#3 ∧ fld w 23 3 = 1#3 then some (.tsetM (fld w 18 5)) else
  if fld w 12 3 = 0#3 ∧ fld w 15 3 = 0#3 ∧ fld w 23 3 = 2#3 then some (.tget (fld w 18 5) (fld w 0 12)) else
  if fld w 0 12 = 0#12 ∧ fld w 12 3 = 0#3 ∧ fld w 23 3 = 3#3 then some (.trec (fld w 18 5) (fld w 15 3)) else
  none

/-- Words of major 0x22 (R256 to R265). -/
def decode22 (w : IWord) : Option Instr :=
  if fld w 12 6 = 0#6 then some (.tmm (fld w 24 2) (fld w 21 3) (fld w 18 3) (fld w 4 8) (fld w 0 4)) else
  if fld w 12 6 = 32#6 then some (.tmms (fld w 24 2) (fld w 21 3) (fld w 18 3) (fld w 4 8) (fld w 0 4)) else
  none

/-- Words of major 0x23 (R256 to R265). -/
def decode23 (w : IWord) : Option Instr :=
  if fld w 4 7 = 0#7 ∧ fld w 24 2 = 0#2 then some (.tld (fld w 21 3) (fld w 18 3) (fld w 13 5) (fld w 11 2) (fld w 0 4)) else
  if fld w 4 7 = 0#7 ∧ fld w 24 2 = 1#2 then some (.tst (fld w 21 3) (fld w 18 3) (fld w 13 5) (fld w 11 2) (fld w 0 4)) else
  if fld w 4 7 = 0#7 ∧ fld w 24 2 = 2#2 then some (.tstC (fld w 21 3) (fld w 18 3) (fld w 13 5) (fld w 11 2) (fld w 0 4)) else
  none

/-- Words of major 0x24 (R256 to R265). -/
def decode24 (w : IWord) : Option Instr :=
  if fld w 12 6 = 0#6 ∧ fld w 18 3 = 0#3 ∧ fld w 23 3 = 0#3 then some (.tzero (fld w 21 2) (fld w 4 8) (fld w 0 4)) else
  if fld w 12 6 = 0#6 ∧ fld w 23 3 = 1#3 then some (.tsave (fld w 21 2) (fld w 18 3) (fld w 4 8) (fld w 0 4)) else
  if fld w 12 6 = 0#6 ∧ fld w 23 3 = 2#3 then some (.trestore (fld w 21 2) (fld w 18 3) (fld w 4 8) (fld w 0 4)) else
  if fld w 12 6 = 0#6 ∧ fld w 23 3 = 3#3 then some (.tcvt (fld w 21 2) (fld w 18 3) (fld w 4 8) (fld w 0 4)) else
  if fld w 12 6 = 0#6 ∧ fld w 23 3 = 4#3 then some (.tcvtC (fld w 21 2) (fld w 18 3) (fld w 4 8) (fld w 0 4)) else
  none

/-- Words of major 0x25 (R256 to R265). -/
def decode25 (w : IWord) : Option Instr :=
  if fld w 0 6 = 0#6 then some (.scfg (fld w 20 6) (fld w 14 6) (fld w 12 2) (fld w 6 6)) else
  if fld w 0 6 = 16#6 then some (.smc (fld w 20 6) (fld w 14 6) (fld w 12 2) (fld w 6 6)) else
  if fld w 0 6 = 32#6 ∧ fld w 6 6 = 0#6 ∧ fld w 14 12 = 0#12 then some (.srel (fld w 12 2)) else
  if fld w 0 6 = 48#6 ∧ fld w 6 6 = 0#6 ∧ fld w 14 12 = 0#12 then some (.sdrain (fld w 12 2)) else
  none

/-- Words of major 0x26 (R256 to R265). -/
def decode26 (w : IWord) : Option Instr :=
  if fld w 0 5 = 0#5 then some (.cpy (fld w 20 6) (fld w 14 6) (fld w 8 6) (fld w 5 3)) else
  if fld w 0 5 = 8#5 ∧ fld w 5 3 = 0#3 ∧ fld w 16 4 = 0#4 ∧ fld w 20 6 = 0#6 then some (.twait (fld w 8 8)) else
  if fld w 0 5 = 16#5 ∧ fld w 5 3 = 0#3 ∧ fld w 16 4 = 0#4 then some (.tpoll (fld w 20 6) (fld w 8 8)) else
  none

/-- Words of major 0x27 (R256 to R265). -/
def decode27 (w : IWord) : Option Instr :=
  if fld w 0 13 = 0#13 ∧ fld w 23 3 = 0#3 then some (.binit (fld w 19 4) (fld w 13 6)) else
  if fld w 0 13 = 0#13 ∧ fld w 23 3 = 1#3 then some (.barv (fld w 19 4) (fld w 13 6)) else
  if fld w 0 13 = 0#13 ∧ fld w 23 3 = 2#3 then some (.bwait (fld w 19 4) (fld w 13 6)) else
  if fld w 0 13 = 0#13 ∧ fld w 13 6 = 0#6 ∧ fld w 23 3 = 3#3 then some (.bsync (fld w 19 4)) else
  if fld w 0 13 = 0#13 ∧ fld w 23 3 = 4#3 then some (.bsig (fld w 19 4) (fld w 13 6)) else
  none

/-- Words of major 0x28 (R256 to R265). -/
def decode28 (w : IWord) : Option Instr :=
  if fld w 4 4 = 0#4 then some (.qpush (fld w 20 6) (fld w 14 6) (fld w 8 6) (fld w 0 4)) else
  if fld w 4 4 = 2#4 then some (.qpop (fld w 20 6) (fld w 14 6) (fld w 8 6) (fld w 0 4)) else
  if fld w 4 4 = 4#4 then some (.spawn (fld w 20 6) (fld w 14 6) (fld w 8 6) (fld w 0 4)) else
  if fld w 4 4 = 6#4 then some (.qsteal (fld w 20 6) (fld w 14 6) (fld w 8 6) (fld w 0 4)) else
  if fld w 4 4 = 8#4 ∧ fld w 8 6 = 0#6 then some (.launch (fld w 20 6) (fld w 14 6) (fld w 0 4)) else
  if fld w 4 4 = 10#4 ∧ fld w 8 6 = 0#6 then some (.launchT (fld w 20 6) (fld w 14 6) (fld w 0 4)) else
  if fld w 4 4 = 12#4 ∧ fld w 14 6 = 0#6 then some (.qinfo (fld w 20 6) (fld w 8 6) (fld w 0 4)) else
  none

/-- Words of major 0x29 (R256 to R265). -/
def decode29 (w : IWord) : Option Instr :=
  if fld w 20 2 = 0#2 ∧ fld w 22 4 = 0#4 then some (.hld (fld w 16 4) (fld w 12 4) (fld w 4 8) (fld w 0 4)) else
  if fld w 0 4 = 0#4 ∧ fld w 20 2 = 0#2 ∧ fld w 22 4 = 1#4 then some (.hst (fld w 16 4) (fld w 12 4) (fld w 4 8)) else
  if fld w 22 4 = 2#4 then some (.hldd (fld w 16 6) (fld w 12 4) (fld w 4 8) (fld w 0 4)) else
  if fld w 0 4 = 0#4 ∧ fld w 22 4 = 3#4 then some (.hstd (fld w 16 6) (fld w 12 4) (fld w 4 8)) else
  if fld w 4 4 = 0#4 ∧ fld w 8 4 = 0#4 ∧ fld w 22 4 = 4#4 then some (.halloc (fld w 16 6) (fld w 12 4) (fld w 0 4)) else
  if fld w 4 4 = 0#4 ∧ fld w 8 4 = 0#4 ∧ fld w 22 4 = 5#4 then some (.hpin (fld w 16 6) (fld w 12 4) (fld w 0 4)) else
  if fld w 0 4 = 0#4 ∧ fld w 4 4 = 0#4 ∧ fld w 8 4 = 0#4 ∧ fld w 12 4 = 0#4 ∧ fld w 22 4 = 6#4 then some (.hunpin (fld w 16 6)) else
  if fld w 4 4 = 0#4 ∧ fld w 22 4 = 7#4 then some (.hcmp (fld w 16 6) (fld w 12 4) (fld w 8 4) (fld w 0 4)) else
  none

/-- Words of major 0x2A (R256 to R265). -/
def decode2A (w : IWord) : Option Instr :=
  if fld w 4 2 = 0#2 then some (.vhld (fld w 20 6) (fld w 14 6) (fld w 6 8) (fld w 0 4)) else
  if fld w 4 2 = 1#2 then some (.vhldd (fld w 20 6) (fld w 14 6) (fld w 6 8) (fld w 0 4)) else
  if fld w 0 4 = 0#4 ∧ fld w 4 2 = 2#2 then some (.vhstd (fld w 20 6) (fld w 14 6) (fld w 6 8)) else
  none

/-- Words of major 0x2B (R256 to R265). -/
def decode2B (w : IWord) : Option Instr :=
  if fld w 0 14 = 0#14 then some (.msend (fld w 20 6) (fld w 14 6)) else
  if fld w 0 14 = 4096#14 ∧ fld w 20 6 = 0#6 then some (.wquiet (fld w 14 6)) else
  if fld w 0 14 = 8192#14 then some (.mcount (fld w 20 6) (fld w 14 6)) else
  none

/-- Words of major 0x2C (R256 to R265). -/
def decode2C (w : IWord) : Option Instr :=
  if fld w 0 8 = 0#8 ∧ fld w 8 6 = 0#6 then some (.splk (fld w 20 6) (fld w 14 6)) else
  if fld w 0 8 = 1#8 then some (.spins (fld w 20 6) (fld w 14 6) (fld w 8 6)) else
  if fld w 0 8 = 2#8 ∧ fld w 8 6 = 0#6 ∧ fld w 20 6 = 0#6 then some (.spinv (fld w 14 6)) else
  if fld w 0 8 = 3#8 ∧ fld w 8 6 = 0#6 ∧ fld w 14 6 = 0#6 ∧ fld w 20 6 = 0#6 then some .spinvAll else
  none

/-- Words of major 0x2D (R256 to R265). -/
def decode2D (w : IWord) : Option Instr :=
  if fld w 24 2 = 0#2 then some (.txb (fld w 0 24)) else
  if fld w 0 8 = 0#8 ∧ fld w 8 16 = 0#16 ∧ fld w 24 2 = 1#2 then some .txe else
  if fld w 8 16 = 0#16 ∧ fld w 24 2 = 2#2 then some (.txa (fld w 0 8)) else
  none

/-- Words of major 0x2E (R256 to R265). -/
def decode2E (w : IWord) : Option Instr :=
  if fld w 4 10 = 0#10 ∧ fld w 14 6 = 0#6 ∧ fld w 20 6 = 0#6 then some (.fence (fld w 0 4)) else
  if fld w 3 1 = 0#1 ∧ fld w 4 10 = 0#10 ∧ fld w 14 6 = 0#6 ∧ fld w 20 6 = 16#6 then some (.icsync (fld w 0 3)) else
  if fld w 0 3 = 0#3 ∧ fld w 3 1 = 0#1 ∧ fld w 4 10 = 0#10 ∧ fld w 20 6 = 32#6 then some (.prefi (fld w 14 6)) else
  none

/-- Words of major 0x2F (R256 to R265). -/
def decode2F (w : IWord) : Option Instr :=
  if fld w 24 2 = 0#2 then some (.sigchk (fld w 0 24)) else
  if fld w 24 2 = 1#2 then some (.brk (fld w 0 24)) else
  none

/-- Words of major 0x3C (R256 to R265). -/
def decode3C (w : IWord) : Option Instr :=
  if fld w 16 4 = 0#4 then some (.hintPrefd (fld w 20 6) (fld w 0 16)) else
  if fld w 16 4 = 1#4 ∧ fld w 20 6 = 0#6 then some (.hintBrlikely (fld w 0 16)) else
  some (.hint (fld w 20 6) (fld w 16 4) (fld w 0 16))

/-- The instruction a word stands for; `none` for a word that no row of the opcode map defines (R256, R261). -/
def decode (w : IWord) : Option Instr :=
  match fld w 26 6 with
  | 0#6 => decode00 w
  | 1#6 => decode01 w
  | 2#6 => decode02 w
  | 3#6 => decode03 w
  | 4#6 => decode04 w
  | 5#6 => decode05 w
  | 6#6 => decode06 w
  | 7#6 => decode07 w
  | 8#6 => decode08 w
  | 9#6 => decode09 w
  | 10#6 => decode0A w
  | 11#6 => decode0B w
  | 12#6 => decode0C w
  | 13#6 => decode0D w
  | 14#6 => decode0E w
  | 15#6 => decode0F w
  | 16#6 => decode10 w
  | 17#6 => decode11 w
  | 18#6 => decode12 w
  | 19#6 => decode13 w
  | 20#6 => decode14 w
  | 21#6 => decode15 w
  | 22#6 => decode16 w
  | 23#6 => decode17 w
  | 24#6 => decode18 w
  | 25#6 => decode19 w
  | 26#6 => decode1A w
  | 27#6 => decode1B w
  | 28#6 => decode1C w
  | 29#6 => decode1D w
  | 30#6 => decode1E w
  | 31#6 => decode1F w
  | 32#6 => decode20 w
  | 33#6 => decode21 w
  | 34#6 => decode22 w
  | 35#6 => decode23 w
  | 36#6 => decode24 w
  | 37#6 => decode25 w
  | 38#6 => decode26 w
  | 39#6 => decode27 w
  | 40#6 => decode28 w
  | 41#6 => decode29 w
  | 42#6 => decode2A w
  | 43#6 => decode2B w
  | 44#6 => decode2C w
  | 45#6 => decode2D w
  | 46#6 => decode2E w
  | 47#6 => decode2F w
  | 60#6 => decode3C w
  | 56#6 => some (.extensionOpcode (fld w 26 2) (fld w 20 6) (fld w 14 6) (fld w 8 6) (fld w 0 8))
  | 57#6 => some (.extensionOpcode (fld w 26 2) (fld w 20 6) (fld w 14 6) (fld w 8 6) (fld w 0 8))
  | 58#6 => some (.extensionOpcode (fld w 26 2) (fld w 20 6) (fld w 14 6) (fld w 8 6) (fld w 0 8))
  | 59#6 => some (.extensionOpcode (fld w 26 2) (fld w 20 6) (fld w 14 6) (fld w 8 6) (fld w 0 8))
  | _ => none

/-- The four bytes of an instruction word as memory holds them: little-endian (R3). -/
def wordBytes (w : IWord) : List Byte :=
  [w.extractLsb' 0 8, w.extractLsb' 8 8, w.extractLsb' 16 8, w.extractLsb' 24 8]

/-- The word four bytes of memory hold (R3). -/
def bytesWord : List Byte → Option IWord
  | [b0, b1, b2, b3] => some (b3 ++ b2 ++ b1 ++ b0)
  | _ => none

/-- The decoder on bytes of memory: one instruction from the first four, and the rest. -/
def decodeBytes : List Byte → Option (Instr × List Byte)
  | b0 :: b1 :: b2 :: b3 :: rest => (decode (b3 ++ b2 ++ b1 ++ b0)).map fun i => (i, rest)
  | _ => none

/-- What the decoder reads from the instruction whose bits are `w`, `nbits` of them, laid out as memory holds them. -/
def decodeTableWord (nbits w : Nat) : Option Instr :=
  (decodeBytes (wordBytes (BitVec.ofNat 32 (w % 2 ^ nbits)))).map Prod.fst

/-- The word of an encoded instruction, from the layouts of R253 to R264. The operations and events have no word; the
illegal-instruction row carries the word it was fetched as. -/
def encode : Instr → IWord
  | .nop => 0#6 ++ 0#26
  | .trap c => 0#6 ++ c ++ 1#8
  | .eret => 0#6 ++ 2#26
  | .yield => 0#6 ++ 3#26
  | .clock d => 0#6 ++ d ++ 4#20
  | .bra o => 1#6 ++ 0#3 ++ o
  | .bp c o => 1#6 ++ 1#3 ++ c ++ o
  | .bnp c o => 1#6 ++ 2#3 ++ c ++ o
  | .loop c o => 1#6 ++ 6#4 ++ c ++ o
  | .jmp o => 2#6 ++ 0#3 ++ o
  | .call o => 2#6 ++ 1#3 ++ o
  | .jr a => 3#6 ++ 0#6 ++ a ++ 0#14
  | .callr d a => 3#6 ++ d ++ a ++ 1#14
  | .ret => 3#6 ++ 2#26
  | .add d a b => 4#6 ++ d ++ a ++ b ++ 0#8
  | .sub d a b => 4#6 ++ d ++ a ++ b ++ 1#8
  | .and d a b => 4#6 ++ d ++ a ++ b ++ 2#8
  | .or d a b => 4#6 ++ d ++ a ++ b ++ 3#8
  | .xor d a b => 4#6 ++ d ++ a ++ b ++ 4#8
  | .andn d a b => 4#6 ++ d ++ a ++ b ++ 5#8
  | .sll d a b => 4#6 ++ d ++ a ++ b ++ 6#8
  | .srl d a b => 4#6 ++ d ++ a ++ b ++ 7#8
  | .sra d a b => 4#6 ++ d ++ a ++ b ++ 8#8
  | .slt d a b => 4#6 ++ d ++ a ++ b ++ 9#8
  | .sltu d a b => 4#6 ++ d ++ a ++ b ++ 10#8
  | .min d a b => 4#6 ++ d ++ a ++ b ++ 11#8
  | .max d a b => 4#6 ++ d ++ a ++ b ++ 12#8
  | .minu d a b => 4#6 ++ d ++ a ++ b ++ 13#8
  | .maxu d a b => 4#6 ++ d ++ a ++ b ++ 14#8
  | .popc d a => 4#6 ++ d ++ a ++ 16#14
  | .clz d a => 4#6 ++ d ++ a ++ 17#14
  | .ctz d a => 4#6 ++ d ++ a ++ 18#14
  | .brev d a => 4#6 ++ d ++ a ++ 19#14
  | .addi d a i => 5#6 ++ d ++ a ++ i
  | .andi d a i => 6#6 ++ d ++ a ++ 0#2 ++ i
  | .ori d a i => 6#6 ++ d ++ a ++ 1#2 ++ i
  | .xori d a i => 6#6 ++ d ++ a ++ 2#2 ++ i
  | .slti d a i => 6#6 ++ d ++ a ++ 3#2 ++ i
  | .slli d a n => 7#6 ++ d ++ a ++ n ++ 0#8
  | .srli d a n => 7#6 ++ d ++ a ++ n ++ 1#8
  | .srai d a n => 7#6 ++ d ++ a ++ n ++ 2#8
  | .ldhi d i => 8#6 ++ d ++ 0#1 ++ i
  | .addpc d i => 8#6 ++ d ++ 1#1 ++ i
  | .mul d a b l => 9#6 ++ d ++ a ++ b ++ 0#4 ++ l
  | .mulh d a b l => 9#6 ++ d ++ a ++ b ++ 1#4 ++ l
  | .mulhu d a b l => 9#6 ++ d ++ a ++ b ++ 2#4 ++ l
  | .div d a b l => 9#6 ++ d ++ a ++ b ++ 3#4 ++ l
  | .divu d a b l => 9#6 ++ d ++ a ++ b ++ 4#4 ++ l
  | .rem d a b l => 9#6 ++ d ++ a ++ b ++ 5#4 ++ l
  | .remu d a b l => 9#6 ++ d ++ a ++ b ++ 6#4 ++ l
  | .ldb d a i l => 10#6 ++ d ++ a ++ 0#3 ++ i ++ l
  | .ldbu d a i l => 10#6 ++ d ++ a ++ 1#3 ++ i ++ l
  | .ldh d a i l => 10#6 ++ d ++ a ++ 2#3 ++ i ++ l
  | .ldhu d a i l => 10#6 ++ d ++ a ++ 3#3 ++ i ++ l
  | .ldw d a i l => 10#6 ++ d ++ a ++ 4#3 ++ i ++ l
  | .ldwu d a i l => 10#6 ++ d ++ a ++ 5#3 ++ i ++ l
  | .ldd d a i l => 10#6 ++ d ++ a ++ 6#3 ++ i ++ l
  | .stb d a i => 11#6 ++ d ++ a ++ 0#3 ++ i
  | .sth d a i => 11#6 ++ d ++ a ++ 1#3 ++ i
  | .stw d a i => 11#6 ++ d ++ a ++ 2#3 ++ i
  | .std d a i => 11#6 ++ d ++ a ++ 3#3 ++ i
  | .atom d a z o p l => 11#6 ++ d ++ a ++ 1#1 ++ z ++ o ++ p ++ l
  | .cas d a z o l => 11#6 ++ d ++ a ++ 1#1 ++ z ++ o ++ 9#4 ++ l
  | .pcmp p a b c => 12#6 ++ p ++ a ++ b ++ 0#4 ++ c
  | .pcmpi p a i c => 12#6 ++ p ++ a ++ i ++ 1#4 ++ c
  | .pand d a b => 13#6 ++ d ++ a ++ b ++ 0#5
  | .por d a b => 13#6 ++ d ++ a ++ b ++ 1#5
  | .pxor d a b => 13#6 ++ d ++ a ++ b ++ 2#5
  | .pnot d a => 13#6 ++ d ++ a ++ 3#12
  | .pmov d a => 13#6 ++ d ++ a ++ 4#12
  | .pany d a => 13#6 ++ d ++ a ++ 5#12
  | .pall d a => 13#6 ++ d ++ a ++ 6#12
  | .fadd d a b f => 14#6 ++ d ++ a ++ b ++ 0#4 ++ f
  | .fmul d a b f => 14#6 ++ d ++ a ++ b ++ 1#4 ++ f
  | .ffma d a b f => 14#6 ++ d ++ a ++ b ++ 2#4 ++ f
  | .fcvt d a s r t => 14#6 ++ d ++ a ++ s ++ r ++ 3#4 ++ t
  | .fcvtUns d a s r t => 14#6 ++ d ++ a ++ s ++ r ++ 4#4 ++ t
  | .csrr d c => 15#6 ++ d ++ 0#8 ++ c
  | .csrw d a c => 15#6 ++ d ++ a ++ 1#2 ++ c
  | .csrs d a c => 15#6 ++ d ++ a ++ 2#2 ++ c
  | .csrc d a c => 15#6 ++ d ++ a ++ 3#2 ++ c
  | .vcfg n g => 16#6 ++ 0#12 ++ n ++ g ++ 0#10
  | .vsetvl d a => 16#6 ++ d ++ a ++ 1#14
  | .vsetvli d i => 16#6 ++ d ++ i ++ 2#8
  | .vadd d a b s => 17#6 ++ d ++ a ++ b ++ s ++ 0#7
  | .vaddi d a i => 17#6 ++ d ++ a ++ i ++ 64#8
  | .vsub d a b s => 17#6 ++ d ++ a ++ b ++ s ++ 1#7
  | .vmul d a b s => 17#6 ++ d ++ a ++ b ++ s ++ 2#7
  | .vmulh d a b s => 17#6 ++ d ++ a ++ b ++ s ++ 3#7
  | .vand d a b s => 17#6 ++ d ++ a ++ b ++ s ++ 4#7
  | .vor d a b s => 17#6 ++ d ++ a ++ b ++ s ++ 5#7
  | .vxor d a b s => 17#6 ++ d ++ a ++ b ++ s ++ 6#7
  | .vsll d a b s => 17#6 ++ d ++ a ++ b ++ s ++ 7#7
  | .vsrl d a b s => 17#6 ++ d ++ a ++ b ++ s ++ 8#7
  | .vsra d a b s => 17#6 ++ d ++ a ++ b ++ s ++ 9#7
  | .vmin d a b s => 17#6 ++ d ++ a ++ b ++ s ++ 10#7
  | .vmax d a b s => 17#6 ++ d ++ a ++ b ++ s ++ 11#7
  | .vminu d a b s => 17#6 ++ d ++ a ++ b ++ s ++ 12#7
  | .vmaxu d a b s => 17#6 ++ d ++ a ++ b ++ s ++ 13#7
  | .vsel d a b => 18#6 ++ d ++ a ++ b ++ 0#8
  | .vbcs d a => 18#6 ++ d ++ a ++ 1#14
  | .vid d => 18#6 ++ d ++ 2#20
  | .vpopc d a => 18#6 ++ d ++ a ++ 3#14
  | .vfadd d a b s => 19#6 ++ d ++ a ++ b ++ s ++ 0#7
  | .vfsub d a b s => 19#6 ++ d ++ a ++ b ++ s ++ 1#7
  | .vfmul d a b s => 19#6 ++ d ++ a ++ b ++ s ++ 2#7
  | .vffma d a b s => 19#6 ++ d ++ a ++ b ++ s ++ 3#7
  | .vfmin d a b s => 19#6 ++ d ++ a ++ b ++ s ++ 4#7
  | .vfmax d a b s => 19#6 ++ d ++ a ++ b ++ s ++ 5#7
  | .vfsgn d a b s => 19#6 ++ d ++ a ++ b ++ s ++ 8#7
  | .vfsgnN d a b s => 19#6 ++ d ++ a ++ b ++ s ++ 9#7
  | .vfsgnX d a b s => 19#6 ++ d ++ a ++ b ++ s ++ 10#7
  | .vfdiv d a b l => 20#6 ++ d ++ a ++ b ++ 0#4 ++ l
  | .vfsqrt d a l => 20#6 ++ d ++ a ++ 1#10 ++ l
  | .vfunRcp d a l => 20#6 ++ d ++ a ++ 2#10 ++ l
  | .vfunRsq d a l => 20#6 ++ d ++ a ++ 3#10 ++ l
  | .vfunExp2 d a l => 20#6 ++ d ++ a ++ 4#10 ++ l
  | .vfunLog2 d a l => 20#6 ++ d ++ a ++ 5#10 ++ l
  | .vfunSin d a l => 20#6 ++ d ++ a ++ 6#10 ++ l
  | .vfunCos d a l => 20#6 ++ d ++ a ++ 7#10 ++ l
  | .vcvt d a t m s u => 21#6 ++ d ++ a ++ t ++ 0#5 ++ m ++ s ++ u
  | .vnarw d a t m s u => 21#6 ++ d ++ a ++ t ++ 1#5 ++ m ++ s ++ u
  | .vwide d a t u => 21#6 ++ d ++ a ++ t ++ 32#9 ++ u
  | .vbscl d a b m s => 21#6 ++ d ++ a ++ b ++ 3#3 ++ m ++ s ++ 0#1
  | .vquant d a b m s => 21#6 ++ d ++ a ++ b ++ 4#3 ++ m ++ s ++ 0#1
  | .vcmp p a b s c => 22#6 ++ p ++ a ++ b ++ s ++ 0#3 ++ c
  | .vfcmp p a b s c => 22#6 ++ p ++ a ++ b ++ s ++ 2#3 ++ c
  | .vclass p a m => 22#6 ++ p ++ a ++ m ++ 32#7
  | .vslup d a b => 23#6 ++ d ++ a ++ b ++ 0#8
  | .vsldn d a b => 23#6 ++ d ++ a ++ b ++ 1#8
  | .vrgath d a b => 23#6 ++ d ++ a ++ b ++ 2#8
  | .vcompr d a b => 23#6 ++ d ++ a ++ b ++ 3#8
  | .vexpnd d a => 23#6 ++ d ++ a ++ 4#14
  | .vbcast d a b => 23#6 ++ d ++ a ++ b ++ 5#8
  | .vextr d a b => 23#6 ++ d ++ a ++ b ++ 6#8
  | .vins d a b => 23#6 ++ d ++ a ++ b ++ 7#8
  | .vredsum d a b => 24#6 ++ d ++ a ++ b ++ 0#8
  | .vredmin d a b => 24#6 ++ d ++ a ++ b ++ 1#8
  | .vredmax d a b => 24#6 ++ d ++ a ++ b ++ 2#8
  | .vredminU d a b => 24#6 ++ d ++ a ++ b ++ 3#8
  | .vredmaxU d a b => 24#6 ++ d ++ a ++ b ++ 4#8
  | .vredlogAnd d a b => 24#6 ++ d ++ a ++ b ++ 5#8
  | .vredlogOr d a b => 24#6 ++ d ++ a ++ b ++ 6#8
  | .vredlogXor d a b => 24#6 ++ d ++ a ++ b ++ 7#8
  | .vfredsum d a b => 24#6 ++ d ++ a ++ b ++ 8#8
  | .vfredmax d a b => 24#6 ++ d ++ a ++ b ++ 9#8
  | .vld d a b i l => 25#6 ++ d ++ a ++ 0#1 ++ b ++ i ++ l
  | .vlds d a i l => 25#6 ++ d ++ a ++ 4#3 ++ i ++ l
  | .vst d a b i => 26#6 ++ d ++ a ++ 0#1 ++ b ++ i ++ 0#4
  | .vsts d a i => 26#6 ++ d ++ a ++ 4#3 ++ i ++ 0#4
  | .vldx d a b l => 27#6 ++ d ++ a ++ b ++ 0#4 ++ l
  | .vldxSx d a b l => 27#6 ++ d ++ a ++ b ++ 1#4 ++ l
  | .vstx d a b => 28#6 ++ d ++ a ++ b ++ 0#8
  | .vstxSx d a b => 28#6 ++ d ++ a ++ b ++ 16#8
  | .vamo d b o p l => 29#6 ++ d ++ b ++ o ++ 0#2 ++ p ++ l
  | .vredm d b o p => 29#6 ++ d ++ b ++ o ++ 1#2 ++ p ++ 0#4
  | .vcas d b o l => 29#6 ++ d ++ b ++ o ++ 42#6 ++ l
  | .waitm p a b z c t => 30#6 ++ p ++ a ++ b ++ 0#1 ++ z ++ c ++ t
  | .vwaitm p a b c t => 30#6 ++ p ++ a ++ b ++ 2#2 ++ c ++ t
  | .vf o => 31#6 ++ 0#3 ++ o
  | .vbr p o => 31#6 ++ 1#3 ++ p ++ o
  | .vjr v => 31#6 ++ 4#4 ++ v ++ 0#16
  | .vjoin => 31#6 ++ 25165824#26
  | .vstop => 31#6 ++ 33554432#26
  | .vsync => 31#6 ++ 41943040#26
  | .gmma d a b f l => 32#6 ++ d ++ a ++ b ++ f ++ 0#1 ++ l
  | .gmmas d a b f l => 32#6 ++ d ++ a ++ b ++ f ++ 1#1 ++ l
  | .tset k => 33#6 ++ 0#3 ++ k ++ 0#18
  | .tsetM k => 33#6 ++ 1#3 ++ k ++ 0#18
  | .tget k c => 33#6 ++ 2#3 ++ k ++ 0#6 ++ c
  | .trec k m => 33#6 ++ 3#3 ++ k ++ m ++ 0#15
  | .tmm c a b w l => 34#6 ++ c ++ a ++ b ++ 0#6 ++ w ++ l
  | .tmms c a b w l => 34#6 ++ c ++ a ++ b ++ 32#6 ++ w ++ l
  | .tld m t k s l => 35#6 ++ 0#2 ++ m ++ t ++ k ++ s ++ 0#7 ++ l
  | .tst m t k c l => 35#6 ++ 1#2 ++ m ++ t ++ k ++ c ++ 0#7 ++ l
  | .tstC m t k c l => 35#6 ++ 2#2 ++ m ++ t ++ k ++ c ++ 0#7 ++ l
  | .tzero c w l => 36#6 ++ 0#3 ++ c ++ 0#9 ++ w ++ l
  | .tsave c m w l => 36#6 ++ 1#3 ++ c ++ m ++ 0#6 ++ w ++ l
  | .trestore c m w l => 36#6 ++ 2#3 ++ c ++ m ++ 0#6 ++ w ++ l
  | .tcvt c m w l => 36#6 ++ 3#3 ++ c ++ m ++ 0#6 ++ w ++ l
  | .tcvtC c m w l => 36#6 ++ 4#3 ++ c ++ m ++ 0#6 ++ w ++ l
  | .scfg v a q i => 37#6 ++ v ++ a ++ q ++ i ++ 0#6
  | .smc v a q i => 37#6 ++ v ++ a ++ q ++ i ++ 16#6
  | .srel q => 37#6 ++ 0#12 ++ q ++ 32#12
  | .sdrain q => 37#6 ++ 0#12 ++ q ++ 48#12
  | .cpy d a b t => 38#6 ++ d ++ a ++ b ++ t ++ 0#5
  | .twait w => 38#6 ++ 0#10 ++ w ++ 8#8
  | .tpoll d w => 38#6 ++ d ++ 0#4 ++ w ++ 16#8
  | .binit b r => 39#6 ++ 0#3 ++ b ++ r ++ 0#13
  | .barv b r => 39#6 ++ 1#3 ++ b ++ r ++ 0#13
  | .bwait b r => 39#6 ++ 2#3 ++ b ++ r ++ 0#13
  | .bsync b => 39#6 ++ 3#3 ++ b ++ 0#19
  | .bsig b r => 39#6 ++ 4#3 ++ b ++ r ++ 0#13
  | .qpush d a q l => 40#6 ++ d ++ a ++ q ++ 0#4 ++ l
  | .qpop d a q l => 40#6 ++ d ++ a ++ q ++ 2#4 ++ l
  | .spawn d a q l => 40#6 ++ d ++ a ++ q ++ 4#4 ++ l
  | .qsteal d a q l => 40#6 ++ d ++ a ++ q ++ 6#4 ++ l
  | .launch d a l => 40#6 ++ d ++ a ++ 8#10 ++ l
  | .launchT d a l => 40#6 ++ d ++ a ++ 10#10 ++ l
  | .qinfo d q l => 40#6 ++ d ++ 0#6 ++ q ++ 12#4 ++ l
  | .hld h a i l => 41#6 ++ 0#6 ++ h ++ a ++ i ++ l
  | .hst h a i => 41#6 ++ 4#6 ++ h ++ a ++ i ++ 0#4
  | .hldd d a i l => 41#6 ++ 2#4 ++ d ++ a ++ i ++ l
  | .hstd s a i => 41#6 ++ 3#4 ++ s ++ a ++ i ++ 0#4
  | .halloc s h l => 41#6 ++ 4#4 ++ s ++ h ++ 0#8 ++ l
  | .hpin d h l => 41#6 ++ 5#4 ++ d ++ h ++ 0#8 ++ l
  | .hunpin s => 41#6 ++ 6#4 ++ s ++ 0#16
  | .hcmp d a b l => 41#6 ++ 7#4 ++ d ++ a ++ b ++ 0#4 ++ l
  | .vhld v b i l => 42#6 ++ v ++ b ++ i ++ 0#2 ++ l
  | .vhldd v b i l => 42#6 ++ v ++ b ++ i ++ 1#2 ++ l
  | .vhstd v b i => 42#6 ++ v ++ b ++ i ++ 32#6
  | .msend v a => 43#6 ++ v ++ a ++ 0#14
  | .wquiet a => 43#6 ++ 0#6 ++ a ++ 4096#14
  | .mcount d a => 43#6 ++ d ++ a ++ 8192#14
  | .splk d a => 44#6 ++ d ++ a ++ 0#14
  | .spins d a b => 44#6 ++ d ++ a ++ b ++ 1#8
  | .spinv a => 44#6 ++ 0#6 ++ a ++ 2#14
  | .spinvAll => 44#6 ++ 3#26
  | .txb o => 45#6 ++ 0#2 ++ o
  | .txe => 45#6 ++ 16777216#26
  | .txa c => 45#6 ++ 131072#18 ++ c
  | .fence o => 46#6 ++ 0#22 ++ o
  | .icsync s => 46#6 ++ 2097152#23 ++ s
  | .prefi a => 46#6 ++ 32#6 ++ a ++ 0#14
  | .sigchk v => 47#6 ++ 0#2 ++ v
  | .brk c => 47#6 ++ 1#2 ++ c
  | .extensionOpcode m d a b f => 14#4 ++ m ++ d ++ a ++ b ++ f
  | .hintPrefd p a => 60#6 ++ p ++ 0#4 ++ a
  | .hintBrlikely a => 60#6 ++ 1#10 ++ a
  | .hint p k a => 60#6 ++ p ++ k ++ a
  | .priResponse _ _ _ => 0#32
  | .trapFrameWrite _ _ => 0#32
  | .faultEntryDeferredWrite _ => 0#32
  | .create _ _ => 0#32
  | .negotiate _ _ => 0#32
  | .load _ _ => 0#32
  | .unload _ _ => 0#32
  | .start _ _ => 0#32
  | .suspend _ _ => 0#32
  | .suspendComplete _ => 0#32
  | .resume _ _ => 0#32
  | .kill _ _ => 0#32
  | .killSequenceComplete _ => 0#32
  | .release _ _ => 0#32
  | .query _ _ => 0#32
  | .setext _ _ => 0#32
  | .advsec _ _ => 0#32
  | .loadmc _ _ _ => 0#32
  | .addkey _ _ _ => 0#32
  | .mailboxUnknownCommand _ _ => 0#32
  | .registerWrite _ _ _ => 0#32
  | .qctlEnable _ => 0#32
  | .qctlDrain _ => 0#32
  | .qctlReopen _ => 0#32
  | .qctlDisable _ => 0#32
  | .qctlInvalid _ _ => 0#32
  | .fqheadWrite _ _ => 0#32
  | .fqresRetry _ _ _ => 0#32
  | .fqresFail _ _ _ => 0#32
  | .invalidate _ _ _ => 0#32
  | .invalidationComplete _ => 0#32
  | .migrate _ _ _ => 0#32
  | .migrateMark _ => 0#32
  | .invctlInvalid _ _ _ => 0#32
  | .heapEnable _ _ => 0#32
  | .heapDisable _ _ => 0#32
  | .evacuate _ _ _ _ _ => 0#32
  | .evacuateDrainComplete _ _ => 0#32
  | .objectCopyStart _ _ _ => 0#32
  | .objectCopyComplete _ _ _ => 0#32
  | .sweepComplete _ _ => 0#32
  | .heapReservationRetry _ => 0#32
  | .hctlInvalid _ _ _ => 0#32
  | .launchRecordConsume _ _ => 0#32
  | .bindRecordConsume _ _ => 0#32
  | .priorityAging _ => 0#32
  | .invocationSelect _ => 0#32
  | .teamPlace _ => 0#32
  | .preemptionTimeout _ => 0#32
  | .teamSave _ => 0#32
  | .blockPreemptTimeout _ _ => 0#32
  | .transactionPreemptTimeout _ _ => 0#32
  | .teamRetire _ => 0#32
  | .invocationComplete _ => 0#32
  | .bsigApply _ => 0#32
  | .watchEvaluation _ _ => 0#32
  | .watchPeriodicEvaluation _ _ => 0#32
  | .watchTimeout _ _ => 0#32
  | .streamElementDeliver _ _ _ => 0#32
  | .engineElementTransfer _ _ _ => 0#32
  | .tokenComplete _ _ _ => 0#32
  | .emulationComplete _ _ => 0#32
  | .messageArrival _ => 0#32
  | .refusalReport _ _ _ => 0#32
  | .endToEndAck _ _ _ => 0#32
  | .resendTimeout _ _ _ => 0#32
  | .seqQueryResponse _ _ _ _ => 0#32
  | .waveRetryTimer _ => 0#32
  | .waveVisit _ _ _ _ _ _ _ => 0#32
  | .waveEnd _ _ => 0#32
  | .linkTrained _ _ => 0#32
  | .trainingTimeout _ => 0#32
  | .laneFault _ => 0#32
  | .crcReplayLimit _ => 0#32
  | .retrainTimeout _ _ => 0#32
  | .flitReceive _ _ _ => 0#32
  | .linkRetry _ => 0#32
  | .linkDisable _ _ => 0#32
  | .deviceLost _ _ => 0#32
  | .powerOn _ => 0#32
  | .warmReset _ => 0#32
  | .clusterGate _ => 0#32
  | .clusterUngateComplete _ => 0#32
  | .powerLimit _ => 0#32
  | .partitionConfigure _ _ => 0#32
  | .capChangeEffect _ _ => 0#32
  | .sharingModeRequest _ _ => 0#32
  | .sharingModeEffect _ => 0#32
  | .correctableError _ => 0#32
  | .uncorrectableError _ => 0#32
  | .residueCheckFail _ => 0#32
  | .coreFaultLimit _ => 0#32
  | .schedulerStateError _ => 0#32
  | .schedulerRebuildComplete _ => 0#32
  | .rebuildLimit _ => 0#32
  | .windowAccess _ _ _ _ => 0#32
  | .spdmRequest _ => 0#32
  | .halt _ _ => 0#32
  | .haltrole _ _ _ => 0#32
  | .haltComplete _ => 0#32
  | .debugResume _ _ => 0#32
  | .dump _ _ => 0#32
  | .brkon _ => 0#32
  | .brkoff _ => 0#32
  | .stalldump _ => 0#32
  | .trace _ => 0#32
  | .debugInvalid _ _ => 0#32
  | .traceSyncInterval _ _ => 0#32
  | .illegalInstruction w => w
  | .stallClockCharge _ _ _ _ _ => 0#32

/-- Whether an instruction has a word of its own in the opcode map. -/
def isEncoded : Instr → Bool
  | .priResponse .. => false
  | .trapFrameWrite .. => false
  | .faultEntryDeferredWrite .. => false
  | .create .. => false
  | .negotiate .. => false
  | .load .. => false
  | .unload .. => false
  | .start .. => false
  | .suspend .. => false
  | .suspendComplete .. => false
  | .resume .. => false
  | .kill .. => false
  | .killSequenceComplete .. => false
  | .release .. => false
  | .query .. => false
  | .setext .. => false
  | .advsec .. => false
  | .loadmc .. => false
  | .addkey .. => false
  | .mailboxUnknownCommand .. => false
  | .registerWrite .. => false
  | .qctlEnable .. => false
  | .qctlDrain .. => false
  | .qctlReopen .. => false
  | .qctlDisable .. => false
  | .qctlInvalid .. => false
  | .fqheadWrite .. => false
  | .fqresRetry .. => false
  | .fqresFail .. => false
  | .invalidate .. => false
  | .invalidationComplete .. => false
  | .migrate .. => false
  | .migrateMark .. => false
  | .invctlInvalid .. => false
  | .heapEnable .. => false
  | .heapDisable .. => false
  | .evacuate .. => false
  | .evacuateDrainComplete .. => false
  | .objectCopyStart .. => false
  | .objectCopyComplete .. => false
  | .sweepComplete .. => false
  | .heapReservationRetry .. => false
  | .hctlInvalid .. => false
  | .launchRecordConsume .. => false
  | .bindRecordConsume .. => false
  | .priorityAging .. => false
  | .invocationSelect .. => false
  | .teamPlace .. => false
  | .preemptionTimeout .. => false
  | .teamSave .. => false
  | .blockPreemptTimeout .. => false
  | .transactionPreemptTimeout .. => false
  | .teamRetire .. => false
  | .invocationComplete .. => false
  | .bsigApply .. => false
  | .watchEvaluation .. => false
  | .watchPeriodicEvaluation .. => false
  | .watchTimeout .. => false
  | .streamElementDeliver .. => false
  | .engineElementTransfer .. => false
  | .tokenComplete .. => false
  | .emulationComplete .. => false
  | .messageArrival .. => false
  | .refusalReport .. => false
  | .endToEndAck .. => false
  | .resendTimeout .. => false
  | .seqQueryResponse .. => false
  | .waveRetryTimer .. => false
  | .waveVisit .. => false
  | .waveEnd .. => false
  | .linkTrained .. => false
  | .trainingTimeout .. => false
  | .laneFault .. => false
  | .crcReplayLimit .. => false
  | .retrainTimeout .. => false
  | .flitReceive .. => false
  | .linkRetry .. => false
  | .linkDisable .. => false
  | .deviceLost .. => false
  | .powerOn .. => false
  | .warmReset .. => false
  | .clusterGate .. => false
  | .clusterUngateComplete .. => false
  | .powerLimit .. => false
  | .partitionConfigure .. => false
  | .capChangeEffect .. => false
  | .sharingModeRequest .. => false
  | .sharingModeEffect .. => false
  | .correctableError .. => false
  | .uncorrectableError .. => false
  | .residueCheckFail .. => false
  | .coreFaultLimit .. => false
  | .schedulerStateError .. => false
  | .schedulerRebuildComplete .. => false
  | .rebuildLimit .. => false
  | .windowAccess .. => false
  | .spdmRequest .. => false
  | .halt .. => false
  | .haltrole .. => false
  | .haltComplete .. => false
  | .debugResume .. => false
  | .dump .. => false
  | .brkon .. => false
  | .brkoff .. => false
  | .stalldump .. => false
  | .trace .. => false
  | .debugInvalid .. => false
  | .traceSyncInterval .. => false
  | .illegalInstruction .. => false
  | .stallClockCharge .. => false
  | _ => true

end Sys2Proof
end

