-- ==== Sys2Proof/Machine/State.lean ====
section
/-! DEFINITION. The state of one device: every piece of state the spec gives it, as plain data, the reasons a step can stop, and the state after reset. -/
namespace Sys2Proof.Machine

/-- Physical memory, device DRAM and host memory alike (R191): cells of the 52-bit physical space, addresses strictly
rising, no cell equal to what an unlisted address reads as. -/
abbrev Memory := List Host.Cell

/-- What an address that nothing has written reads as: the spec gives memory no contents after power-on, so this is a
DESIGN CHOICE (log entry 3). -/
def unlisted : Byte := 0

/-- A stream of instructions: a group's control thread, a VP of its block, a team's sequencer. Teams are named by their
key `teamKey`. -/
inductive StreamRef where
  | ctl (team group : Nat)
  | blk (team group vp : Nat)
  | seq (team : Nat)
deriving DecidableEq, Repr

/-- A register a lookahead window can hide (R266): s or k, h, v and p registers, and VLEN, which a trimming load writes. -/
inductive RegId where
  | x (n : Nat) | h (n : Nat) | v (n : Nat) | p (n : Nat) | vlen
deriving DecidableEq, Repr

/-- One register an open window hides (R266): its value had the window's instruction not written it, the bits that
instruction wrote, and what it wrote there. -/
structure Hidden where
  reg : RegId
  old : Nat
  mask : Nat
  new : Nat
deriving DecidableEq, Repr

/-- An open lookahead window (R266, R267): how many further instructions of the stream it covers, and what it hides. -/
structure Window where
  left : Nat
  hid : List Hidden
deriving DecidableEq, Repr

/-- A recoverable fault or PRI request of R203, before and after its entry is written: who is parked and what the entry says. -/
inductive FaultWho where
  /-- an agent of a team: 0 to 15 a group, 16 the sequencer -/
  | agent (team agent : Nat)
  /-- an engine operation of that agent, by token -/
  | engine (team agent tok : Nat)
  /-- the dispatch scoreboard for an invocation, by key and by the arbiter number it was made under, which tells it from a
  later invocation of the same number -/
  | board (inv order : Nat)
deriving DecidableEq, Repr

structure FaultEntry where
  who : FaultWho
  va : Word
  seq : Nat
  tidx : Nat
  inv : Nat
  agentBits : Nat
  elem : Nat
  kind : Nat
  access : Nat
deriving DecidableEq, Repr

/-- A monitored wait (R184 to R186): the watched elements as (index, address, operand), the timeout and the results of
the last evaluation. -/
structure Watch where
  vec : Bool
  pd : Nat
  size : Nat
  cond : Nat
  items : List (Nat × Word × Nat)
  timeout : Word
  last : List (Nat × Bool)
  /-- the first 64 watched lines, by physical line number, as the last evaluation found them -/
  lines : List Nat
  /-- a write to one of them has not been followed by an evaluation yet -/
  due : Bool
deriving DecidableEq, Repr

/-- States of a group or sequencer (R120, R121). HALTED-DEBUG and PREEMPTED keep one of these as their recorded state
(`Thread.halted`, `Team.saved`); FREE is the absence of the team. -/
inductive Run where
  | ready | running
  | waitBell (bell : Nat)
  | waitToken (mask : BitVec 8)
  | waitMem (w : Watch)
  | waitQuiet (job issued : Nat)
  | parkedFault
  | parkedEmul (w : IWord)
  | retired
deriving DecidableEq, Repr

/-- Why an agent stands in PARKED-FAULT: for a fault-queue entry (or a PRI response), or for a trap whose frame is not yet
written or lies in a slot. -/
inductive Park where
  | none
  | entry
  | trap (seq : Nat)
  | frame (slot : Nat)
deriving DecidableEq, Repr

/-- What a group's control thread and the team sequencer share: program counter, s or k registers (entry 0 never
listed), open windows, TOKS, run state and trap registers. -/
structure Thread where
  pc : Word
  x : Tbl Word
  wins : List Window
  pend : BitVec 8
  err : BitVec 8
  run : Run
  park : Park
  /-- the word of the instruction a parked wait belongs to -/
  word : IWord
  /-- a watch to restart when a fault found at a later evaluation is resolved (R186) -/
  rewatch : Option Watch
  halted : Bool
  /-- a debugger's halt request not yet met (R399) -/
  haltReq : Bool
  /-- a HALT or HALTROLE covers it, so that RESUME resumes it: a BRK alone does not (R399, R400) -/
  byCmd : Bool
  /-- an instruction has issued and waits half done: an MSEND its interface has not accepted yet (R237), a VHSTD in the load barrier
  (R216, R384) -/
  stalled : Bool
  /-- members of the present convoy completed so far (R111) -/
  convoy : Nat
  trapc : BitVec 8
  trapv : Word
  epc : Word
  /-- the address of the instruction at which the pending trap or fault was taken in a block, when it was (R113) -/
  inBlock : Option Word
  /-- the wait a control thread goes back to once a trap or fault of its block is resolved, if it has not ended since (R120) -/
  aside : Option Run
  /-- CLK of the trace source's last timestamp; none when its next packet follows a SYNC, as after a restore (R404) -/
  lastTs : Option Nat
  /-- a CRC packet owed since a bell wait completed while the team was saved: bell and PH (R404, R407) -/
  owed : Option (Nat × BitVec 16)
deriving DecidableEq, Repr

/-- A cached leaf (R197, R198): the slice that holds it, the context it is tagged with, or every context of the partition for a
G leaf; page VA, size and leaf. -/
structure TlbEntry where
  slice : Nat
  ctx : Nat
  part : Nat
  glob : Bool
  va : Nat
  size : Nat
  /-- physical address of the leaf entry, for the D bit -/
  leafPa : Nat
  leaf : BitVec 64
deriving DecidableEq, Repr

/-- A transaction in progress (R187 to R189): abort address, snapshot, line set, buffered writes, heap regions touched.
`wins` are the windows opened before TXB, which an abort leaves open (R344). -/
structure Txn where
  abort : Word
  wins : List Window
  x : Tbl Word
  h : Tbl Word
  fcsr : Word
  readLines : List Nat
  writeLines : List Nat
  writes : Tbl Byte
  /-- its stores in program order, for the reference bits: physical address, size, VA, and whether a reference is stored (R215) -/
  stores : List (Nat × Nat × Nat × Bool)
  regions : List Nat
  /-- the leaves its stores were translated through, in which its commit sets D (R195, R207) -/
  staged : List TlbEntry
deriving DecidableEq, Repr

/-- Condition of a VP in a block (R115). -/
inductive VpCond where
  | run | join | stop
deriving DecidableEq, Repr

/-- A VP of a block: its condition, its program counter (in JOIN, the address of its VJOIN) and its own windows. -/
structure Vp where
  cond : VpCond
  pc : Word
  wins : List Window
deriving DecidableEq, Repr

/-- A vector-fetch block in progress (R112): start address, VLEN at VF, snapshot of the s registers, its VPs. -/
structure Block where
  start : Word
  n : Nat
  snap : Tbl Word
  vps : Tbl Vp
  /-- stopped at a release or VSTOP for a pre-emption (R123) -/
  atPoint : Bool
  /-- past the 4,096 clocks of R123 -/
  forced : Bool
deriving DecidableEq, Repr

/-- A stream descriptor (R164). -/
structure Desc where
  fmt : Nat
  boff : Nat
  dir : Nat
  ndim : Nat
  gate : Bool
  full : Bool
  chan : Nat
  mask : Nat
  ofs : Int
  counts : List Nat
  strides : List Int
deriving DecidableEq, Repr

/-- State of a stream slot (R166). -/
inductive SlotState where
  | idle | read | write
deriving DecidableEq, Repr

/-- An access that faults: a recoverable fault of R203 or a program or machine trap. -/
inductive Bad where
  | page (va : Word) (kind access : Nat)
  | trap (cause : BitVec 8) (value : Word)
deriving DecidableEq, Repr

/-- A stream slot (R166 to R170). -/
structure Slot where
  st : SlotState
  vd : Nat
  desc : Desc
  base : Word
  /-- stream length L, which SREL of a multicast sender shortens (R361) -/
  len : Nat
  pos : Nat
  slen : Nat
  /-- elements delivered from `pos` on, the present strip included -/
  ahead : List Nat
  /-- written bits of a write strip -/
  written : Nat
  spare : Nat
  /-- the fault that stops Ready (R168) -/
  blocked : Option Bad
  /-- a VSETVL waits on this slot -/
  wanted : Bool
  /-- how many delivered elements it waits for (R406) -/
  need : Nat
  /-- the address of its SCFG or SMC (R406) -/
  pc : Word
  /-- sender of a multicast on `desc.chan` -/
  multicast : Bool
  /-- a receiver whose sender has released the stream (R361) -/
  ended : Bool
deriving DecidableEq, Repr

/-- A group (R104 to R116). -/
structure Group where
  th : Thread
  /-- the 16-lane slot partitions of its target it was given, numbered slot * 4 + partition (R95, R104) -/
  parts : List Nat
  h : Tbl Word
  v : Tbl Nat
  p : Tbl Nat
  vlen : Word
  vtype : Word
  vmask : Word
  vstride : Word
  ecar : Word
  ridx : Word
  fcsr : Word
  siga : Word
  txs : Word
  txn : Option Txn
  block : Option Block
  slots : List Slot
  /-- hall-pass table: slot to the header VA of the pinned object's present copy and its SIZE (R223, R224) -/
  pins : Tbl (Nat × Nat)
deriving DecidableEq, Repr

/-- State of an accumulator (R158). -/
inductive AccState where
  | closed | opened | saved
deriving DecidableEq, Repr

/-- An accumulator (R157): its elements are listed row-major over GM x GN, +0 unlisted. -/
structure Acc where
  st : AccState
  fmt : BitVec 32
  kpos : Nat
  data : Tbl (BitVec 32)
deriving DecidableEq, Repr

/-- The team sequencer (R118): k registers in `th.x`, operand records, grant, current format word, MSTAT bits, accumulators
and scale cache (headers by VA). -/
structure Seq where
  th : Thread
  m : Tbl (BitVec 256)
  gm : Nat
  gn : Nat
  gk : Nat
  fmt : BitVec 32
  mstat : Word
  accs : List Acc
  cache : Tbl (BitVec 16)
deriving DecidableEq, Repr

/-- What an engine operation moves (R357, R362), its elements in ascending order of destination: of a TLD the (row, column)
pairs of its box, of a TST the (global element number, code) pairs and the (header number, header) pairs. -/
inductive EngKind where
  | cpy (dst src : Word) (len : Nat)
  | tld (record : BitVec 256) (base : Word) (fmt : Nat) (cells : List (Nat × Nat)) (headers : Bool)
  | tst (record : BitVec 256) (base : Word) (fmt : Nat) (vals : List (Nat × Nat)) (headers : List (Nat × Nat))
deriving DecidableEq, Repr

/-- An engine operation in flight (R139, R140, R171, R172). -/
structure EngOp where
  agent : Nat
  tok : Nat
  kind : EngKind
  pos : Nat
  parked : Bool
  /-- the present element, read and not yet written: its value, and whether it is poisoned (R139) -/
  held : Option (Nat × Bool)
  /-- the address of the instruction that named the token (R406) -/
  pc : Word
  /-- bytes written so far of poisoned lines, as masks by line (R386) -/
  cover : Tbl Nat
deriving DecidableEq, Repr

/-- A bell (R177). -/
structure Bell where
  counting : Bool
  ph : BitVec 16
  exp : Nat
  arr : Nat
  /-- the agents whose arrivals the present phase counted (R401) -/
  by' : List Nat
  /-- the address of the last BARV the bell counted (R406) -/
  last : Word
deriving DecidableEq, Repr

/-- A placement target (R95): a core, or one share of it, with the maxima of R20 as read at placement. -/
structure Target where
  cluster : Nat
  core : Nat
  share : Nat
  mode : Sharing
  gmaxm : Nat
  gmaxn : Nat
  gmaxk : Nat
deriving DecidableEq, Repr

/-- A team that has been placed (R118 to R125): resident on its target, or saved. -/
structure Team where
  inv : Nat
  tidx : Nat
  saved : Bool
  target : Target
  /-- effective priority at placement (R84) -/
  prio : Nat
  preempt : Bool
  groups : List Group
  seq : Option Seq
  /-- for a saved team: its sequencer stopped before a TSET (R125) -/
  beforeTset : Bool
  bells : List Bell
  spad : Tbl Byte
  /-- poisoned 8-byte units of the allocation (R374, R386) -/
  spadPoison : List Nat
  tags : Tbl Nat
  ops : List EngOp
deriving DecidableEq, Repr

/-- A kernel descriptor (R68) and the access slice LOAD checked (R163). -/
structure Kernel where
  entry : Nat
  mentry : Nat
  aentry : Nat
  groups : Nat
  prod : Nat
  width : Nat
  budget : Nat
  nv : Nat
  grp : Nat
  cls : Nat
  kflags : BitVec 8
  descs : List Desc
deriving DecidableEq, Repr

/-- A loaded code object: where its native section lies, and its kernels. -/
structure CodeObj where
  base : Word
  nlen : Nat
  secver : Nat
  kernels : List Kernel
deriving DecidableEq, Repr

/-- States of a context (R62), in QUERY order; FREE is the absence of the context. -/
inductive CtxSt where
  | creating | negotiated | loaded | running | suspended | killing | dead
deriving DecidableEq, Repr

/-- The fault queue (R203, R204): ring, indices, faults awaiting room or a writable slot, PRI requests awaiting a
response, entries written and not resolved. -/
structure FaultQ where
  base : Word
  logn : Nat
  head : BitVec 32
  tail : BitVec 32
  waiting : List FaultEntry
  pri : List FaultEntry
  unresolved : List (Nat × FaultEntry)
deriving DecidableEq, Repr

/-- The error queue (R415). -/
structure ErrorQ where
  base : Word
  logn : Nat
  head : BitVec 32
  tail : BitVec 32
  dropped : Nat
  /-- the kill record has been written: nothing follows it (R73) -/
  closed : Bool
deriving DecidableEq, Repr

/-- A stream handle sh0 to sh63 (R89). -/
inductive Handle where
  | pages (base : Word) (len : Nat)
  | heap (len : Nat) (refc : Word)
deriving DecidableEq, Repr

/-- State of a queue (R77, R79), in QSTAT order. -/
inductive QSt where
  | disabled | opened | full | draining | closed
deriving DecidableEq, Repr

/-- A queue: its registers, its indices (one pair, or one per cluster for TASK), and for a LAUNCH queue its stream
register file. -/
structure Queue where
  base : Word
  geom : Word
  st : QSt
  last : Nat
  idx : Tbl (BitVec 32 × BitVec 32)
  handles : Tbl Handle
deriving DecidableEq, Repr

/-- State of a heap region (R213), in HRENT order. -/
inductive RegSt where
  | free | allocating | live | evacuating | relocated
deriving DecidableEq, Repr

/-- State of an object's forwarding entry (R219). -/
inductive FwdSt where
  | notCopied | copying | copied | dropped
deriving DecidableEq, Repr

/-- A forwarding entry, keyed by the object's offset in its region. -/
structure Fwd where
  st : FwdSt
  newAddr : Nat
  newGen : Nat
  priority : Nat
deriving DecidableEq, Repr

/-- A heap region (R211, R213). -/
structure Region where
  st : RegSt
  gen : Nat
  top : Nat
  large : Bool
  fwd : Tbl Fwd
  drained : Bool
  /-- by page, the leaves of the region and its to-space as the plan read them, A and D aside, and where each lies (R222) -/
  leaves : Tbl (Nat × Nat)
deriving DecidableEq, Repr

/-- The managed heap of a context (R211 to R223): registers, regions, allocation region, reference bits by VA word. -/
structure Heap where
  enabled : Bool
  heapva : Word
  heapn : Word
  hroot : Word
  hrootn : Word
  hapva : Word
  hlive : Word
  hstat : Word
  hrsel : Word
  regions : Tbl Region
  alloc : Option Nat
  refBits : Tbl Bool
deriving DecidableEq, Repr

/-- A trap frame slot in use (R378): the agent it holds and the handler invocation created for it (none while the
invocation waits for a number, R86). -/
structure Frame where
  team : Nat
  agent : Nat
  handler : Option Nat
deriving DecidableEq, Repr

/-- The trace of a context (R402 to R405). -/
structure Trace where
  trbase : Word
  trcfg : Word
  head : BitVec 32
  tail : BitVec 32
  /-- the configuration the last TRACE command applied -/
  base : Word
  cfg : Word
  dropped : Nat
  source : Option (Nat × Nat)
  since : Nat
  reported : Bool
deriving DecidableEq, Repr

/-- An entry of the stall table (R406). -/
structure Stall where
  prod : Word
  cons : Word
  cause : StallCause
  clocks : Nat
  hist : List Nat
deriving DecidableEq, Repr

/-- A context (R59 to R73). -/
structure Ctx where
  st : CtxSt
  owner : Nat
  part : Nat
  asid : Word
  pasid : Nat
  root : Nat
  features : BitVec 128
  fq : FaultQ
  eq : ErrorQ
  objs : Tbl CodeObj
  handler : Option (Nat × Nat)
  msgTable : Word
  queues : Tbl Queue
  /-- the first queue number the next turn of consumption visits (R84) -/
  nextQ : Nat
  /-- residency of the pages that handles name, as the Timetable tracks it: by page number, as an input and as a result (R90) -/
  tracked : Tbl (Bool × Bool)
  heap : Heap
  tfbase : Word
  tfslots : Word
  frames : Tbl Frame
  trace : Trace
  brkOn : Bool
  /-- an uncontained machine error has been raised: the kill sequence begins (R222) -/
  broken : Bool
  stalls : List Stall
deriving DecidableEq, Repr

/-- States of an invocation (R93). -/
inductive InvSt where
  | recorded | waitInput | waitSpace | dispatchable | placing | running | draining | done | faulted
deriving DecidableEq, Repr

/-- What made an invocation (R86): a launch record, a message, or a trap of an agent (team, agent, frame slot). -/
inductive InvKind where
  | launch
  | message (m : Msg) (arg : Word)
  | handler (team agent slot : Nat) (cause : BitVec 8) (value epc : Word)
deriving DecidableEq, Repr

/-- An invocation and its replay record (R86 to R102). Its key is `part * 4096 + number`. -/
structure Invoc where
  ctx : Nat
  kind : InvKind
  st : InvSt
  obj : Nat
  kidx : Nat
  kernel : Kernel
  code : Word
  gang : Nat
  job : Nat
  spad : Nat
  gx : Nat
  gy : Nat
  gz : Nat
  tile : Bool
  tbase : Word
  teams : Nat
  inputs : List (Nat × Handle)
  results : List (Nat × Handle)
  /-- physical-page holds: VA pages held (R91, R92) -/
  held : List Nat
  /-- pages for which a MIGREQ entry is outstanding: first address and size (R91) -/
  asked : List (Nat × Nat)
  /-- result handles reserved so far -/
  reserved : Nat
  /-- heap references reserved, by handle (R102) -/
  refs : List (Nat × Word)
  argp : Word
  arg0 : Word
  ccell : Word
  ctag : Word
  cpref : Nat
  prio : Nat
  aged : Nat
  order : Nat
  /-- teams never placed begin at this index -/
  nextTeam : Nat
  /-- teams discarded for replay and waiting to start again (R388) -/
  again : List Nat
  replays : Tbl Nat
  /-- status marked, with the team index and trap causes its error record names (R93, R417) -/
  mark : Option (Nat × Nat × Nat × Nat)
  badTile : Bool
deriving DecidableEq, Repr

/-- A cluster (R14, R19, R26, R390). `caps` are the cap triple in force in it. -/
structure Cluster where
  mode : Sharing
  pendingMode : Option Sharing
  gated : Bool
  ungating : Bool
  part : Option Nat
  caps : Caps
  pendingCaps : Bool
  rebuilding : Bool
  /-- rebuilds of its scheduler so far (R390) -/
  rebuilds : Nat
deriving DecidableEq, Repr

/-- A core (R16, R387). -/
structure Core where
  mapped : BitVec 32
  disabled : Bool
  withdrawn : Bool
  faults : Nat
deriving DecidableEq, Repr

/-- Why a command still runs on a function's page. -/
inductive InvCmd where
  | none
  | invalidate (ctx : Nat) (global : Bool)
  | migrate (ctx : Nat) (global : Bool)
deriving DecidableEq, Repr

/-- A running debug command: HALT or HALTROLE of a team, waiting for its streams to stop. -/
structure DbgCmd where
  ctx : Nat
  team : Nat
  role : Option Bool
deriving DecidableEq, Repr

/-- The register whose write starts a command (R59, R206, R211, R398). -/
inductive CmdReg where
  | mbcmd | invctl | hctl | dbgctl
deriving DecidableEq, Repr

/-- A command on a context: of the mailbox (R61), of INVCTL (R206), of HCTL (R211), of DBGCTL (R398). -/
inductive Command where
  | negotiate | load | unload | start | suspend | resume | release | query
  | invalidate (global : Bool)
  | migrate (global : Bool)
  | heapEnable | heapDisable
  | evacuate (dest region : BitVec 16) (any : Bool)
  | hctlInvalid (op : BitVec 3)
  | halt (inv : Nat)
  | haltrole (inv : Nat) (consumer : Bool)
  | debugResume (inv : Nat)
  | dump (inv : Nat)
  | brkon | brkoff | trace | stalldump
  | debugInvalid (cmd : BitVec 4)
deriving DecidableEq, Repr

/-- The register whose write starts a command. -/
def Command.reg : Command → CmdReg
  | .negotiate | .load | .unload | .start | .suspend | .resume | .release | .query => .mbcmd
  | .invalidate _ | .migrate _ => .invctl
  | .heapEnable | .heapDisable | .evacuate .. | .hctlInvalid _ => .hctl
  | .halt _ | .haltrole .. | .debugResume _ | .dump _ | .brkon | .brkoff | .trace | .stalldump | .debugInvalid _ => .dbgctl

/-- A command a function has written that waits, with BUSY set, for the command before it on the context it names (R60). -/
structure HeldCmd where
  ctx : Nat
  cmd : Command
deriving DecidableEq, Repr

/-- The mailbox page of a function (R59, R77, R206, R398), and the ATS Enable bit of its configuration space (R65). -/
structure Page where
  mbcmd : Word
  mbarg : List Word
  mbstat : Word
  mbres0 : Word
  mbres1 : Word
  qsel : Word
  invva : Word
  invlen : Word
  invstat : Word
  invcmd : InvCmd
  dbgsel : Word
  dbgarg : Word
  dbgstat : Word
  dbgcmd : Option DbgCmd
  /-- CODE of the function's last HCTL command that named a context in FREE, which has no HSTAT of its own (R212) -/
  hfree : Nat
  ats : Bool
  /-- commands written and held back, oldest first (R60) -/
  held : List HeldCmd
deriving DecidableEq, Repr

/-- States of a link (R229), in LSTAT order. -/
inductive LinkSt where
  | down | training | active | degraded | retrain | failed
deriving DecidableEq, Repr

/-- A link (R229 to R231): `buffer` is the retry buffer, one entry (dst, job, seq) for each flit sent that the far side has not
acknowledged; `rxNext` is the next link sequence number it expects to receive. -/
structure Link where
  st : LinkSt
  retrains : Nat
  replays : Nat
  lanes : Nat
  buffer : List (Nat × Nat × Nat)
  rxNext : Nat
  /-- messages this device sent on the link and that are not acknowledged end to end: (dst, job, seq) (R244) -/
  crossed : List (Nat × Nat × Nat)
deriving DecidableEq, Repr

/-- A job-table entry (R233, R238, R239, R394). -/
structure Job where
  ctx : Nat
  inj : Word
  con : Word
  dirty : Bool
  broken : Bool
deriving DecidableEq, Repr

/-- A message injected and not yet acknowledged end to end (R243, R244). -/
structure Unacked where
  msg : Msg
  /-- resent after a link loss, awaiting acknowledgement -/
  resent : Bool
  /-- a SEQ query to the destination is outstanding -/
  queried : Bool
  /-- no route to the destination remains -/
  stranded : Bool
deriving DecidableEq, Repr

/-- A Roll Call wave this interface initiated (R240, R242). -/
structure Wave where
  id : Nat
  i1 : Word
  c1 : Word
  i2 : Word
  c2 : Word
  d : Bool
  first : List Nat
  second : List Nat
  ok : Bool
deriving DecidableEq, Repr

/-- A BSIG on its way (R181, R342). -/
structure Signal where
  ctx : Nat
  inv : Nat
  tidx : Nat
  bell : Nat
  /-- the sender's context and partition; the context is no number of any once it is released -/
  fromCtx : Nat
  fromPart : Nat
  fromInv : Nat
  fromTidx : Nat
  r0 : Word
  r1 : Word
deriving DecidableEq, Repr

/-- A partition (R17) with its configuration, the keys ADDKEY gave it, and the first context number the next turn of
consumption visits (R84). -/
structure Part where
  cfg : PartCfg
  keys : List (BitVec 512)
  nextCtx : Nat
deriving DecidableEq, Repr

/-- A load-log entry (R69, R396). -/
structure LoadRec where
  ctx : Nat
  handle : Nat
  secver : Nat
  measure : BitVec 512
deriving DecidableEq, Repr

/-- The hub (R22, R66, R70, R390, R395, R396). -/
structure Hub where
  secver : Nat
  microcodeMode : Bool
  microcode : Option (BitVec 512)
  /-- entries of the microcode store, at most 256: the two low bits of the major and instruction bits 7:0 (R66) -/
  store : List (BitVec 2 × BitVec 8)
  warmResets : Nat
  selfTest : SelfTest
  loadLog : List LoadRec
  report : List Byte
  throttled : Bool
  rebuilding : Bool
  corrected : Tbl Nat
  /-- bytes that the physical function's window onto device memory spans (R24) -/
  pfWindow : Nat
  /-- fault resolutions that reached a unit under rebuild, held until it is complete, in order: function, context, index, and whether
  RETRY (R390) -/
  held : List (Nat × Nat × BitVec 32 × Bool)
  /-- devices lost to the fabric (R394) -/
  lost : List Nat
deriving DecidableEq, Repr

/-- One choice of the outside world and of the device's own schedule: an event takes place, a stream issues its next
instruction, the host sets a function's ATS Enable bit, writes memory or sizes a window, or a kill sequence goes on. -/
inductive Turn where
  | event (i : Instr)
  | issue (r : StreamRef)
  | ats (fn : Nat) (on : Bool)
  | hostWrite (pa : Nat) (bs : List Byte)
  /-- CloseJobs and WriteKillRecord of a context's kill sequence (R72) -/
  | closeJobs (ctx : Nat)
  /-- the host sizes the physical function's window: 2^n GiB, n from 0 to 9 (R24) -/
  | pfWindow (n : Nat)
  /-- a command of a function that was held back begins (R60) -/
  | command (fn ctx : Nat) (c : Command)
deriving DecidableEq, Repr

/-- The state of one device. -/
structure State where
  /-- physical memory (R191) -/
  mem : Memory
  /-- poisoned 64-byte lines, by line number (R386) -/
  poison : List Nat
  /-- cached leaves of every TLB slice (R198) -/
  tlb : List TlbEntry
  /-- contexts outside FREE, by number (R62) -/
  ctxs : Tbl Ctx
  /-- invocations, by key (R86) -/
  invs : Tbl Invoc
  /-- teams resident or saved, by key (R181) -/
  teams : Tbl Team
  /-- configured partitions (R17) -/
  parts : Tbl Part
  /-- clusters 0 to 47 (R12) -/
  clusters : Tbl Cluster
  /-- cores 0 to 383, where they differ from a good enabled core (R16) -/
  cores : Tbl Core
  /-- mailbox pages of the PF (0) and the VFs (1 to 32) (R24, R59) -/
  pages : Tbl Page
  hub : Hub
  /-- the 16 links (R229) -/
  links : Tbl Link
  /-- the job table (R233) -/
  jobs : Tbl Job
  /-- messages kept until acknowledged (R243) -/
  unacked : List Unacked
  /-- the next SEQ by destination and job, `dst * 65536 + job` (R243) -/
  sendSeq : Tbl Nat
  /-- messages waiting in the receive buffer (R237) -/
  rxbuf : List Msg
  /-- SEQs accepted or refused: (src, job, seq, accepted) (R243) -/
  seen : List (Nat × Nat × Nat × Bool)
  /-- waves in flight, by job (R242) -/
  waves : Tbl Wave
  /-- waves started so far: numbers waves and WQUIET issues -/
  waveNo : Nat
  /-- signals on their way (R181) -/
  signals : List Signal
  /-- sequence number of the device event arbiter (R22, R145) -/
  arb : Nat
  /-- core clocks since warm reset (CLK, R251) -/
  clk : Nat
  /-- the MODEL'S OWN: free values drawn so far (log entry 5) -/
  draws : Nat
  /-- the MODEL'S OWN: the stream that issues, or is acting (log entry 6) -/
  cur : Option StreamRef
  /-- the MODEL'S OWN: the schedule of events, issues and host actions still to come (log entry 6) -/
  agenda : List Turn
deriving DecidableEq, Repr

/-- Reasons the machine stops with a fault. -/
inductive Fault where
  /-- raised by every encoded instruction when `exec` is asked to run it with no stream acting: no run of `step` meets it,
  since `step` names the stream before it calls `exec` (safe: the machine has no such event) -/
  | noStream
deriving DecidableEq, Repr

/-- Reasons an instruction is given no meaning. -/
inductive Refusal where
  /-- raised by an arm of `exec` that has no meaning yet (safe: nothing is claimed of it) -/
  | notModelled (mnemonic : String)
deriving DecidableEq, Repr

/-- A mailbox page after reset (R59 to R398): every field 0; MBARG has no reset value (X), and ATS Enable is the host's (DESIGN CHOICE, log entry 1). -/
def Page.reset : Page :=
  { mbcmd := 0, mbarg := [0, 0, 0, 0], mbstat := 0, mbres0 := 0, mbres1 := 0, qsel := 0, invva := 0, invlen := 0, invstat := 0,
    invcmd := .none, dbgsel := 0, dbgarg := 0, dbgstat := 0, dbgcmd := none, hfree := 0, ats := false, held := [] }

/-- The unreduced class maxima as caps (R15). -/
def classCaps (cluster : Nat) : Caps := if cluster < 32 then ⟨128, 256, 64⟩ else ⟨32, 32, 16⟩

/-- A cluster after reset: ungated, in no partition; the spec gives no sharing mode after power-on, and the model starts with
Unshared (DESIGN CHOICE, log entry 1). -/
def Cluster.reset (c : Nat) : Cluster :=
  { mode := .unshared, pendingMode := none, gated := false, ungating := false, part := none, caps := classCaps c,
    pendingCaps := false, rebuilding := false, rebuilds := 0 }

/-- A link after power-on (R229): training begins on all 8 lanes, so LSTAT.STATE reads 1, where the Reset column of R230 gives
0 (DOWN): the state table of R229 is followed (DESIGN CHOICE, log entry 75). -/
def Link.reset : Link :=
  { st := .training, retrains := 0, replays := 0, lanes := 0, buffer := [], rxNext := 0, crossed := [] }

/-- A self-test that finds nothing. -/
def goodSelfTest : SelfTest := { colmap := [], badClusters := [], badCores := [], memoryOk := true }

/-- The hub after power-on: ExtMode EMULATION (R66), fuse counter 0 (R70). The PF's window starts at 512 GiB, a size the spec
leaves open (DESIGN CHOICE, log entry 1). -/
def Hub.reset : Hub :=
  { secver := 0, microcodeMode := false, microcode := none, store := [], warmResets := 0, selfTest := goodSelfTest, loadLog := [],
    report := [], throttled := false, rebuilding := false, corrected := [], pfWindow := 2 ^ 39, held := [], lost := [] }

/-- Keys 0 to n-1 with their values, in rising order. -/
def tabulate {α : Type} (f : Nat → α) : Nat → Tbl α
  | 0 => []
  | n + 1 => tabulate f n ++ [(n, f n)]

/-- The device right after power-on: no context, memory with nothing listed. The spec gives no initial partition
configuration: the model starts with none (DESIGN CHOICE, log entry 1). -/
def State.reset : State :=
  { mem := [], poison := [], tlb := [], ctxs := [], invs := [], teams := [], parts := [], clusters := tabulate Cluster.reset 48,
    cores := [], pages := tabulate (fun _ => Page.reset) 33, hub := Hub.reset, links := tabulate (fun _ => Link.reset) 16,
    jobs := [], unacked := [], sendSeq := [], rxbuf := [], seen := [], waves := [], waveNo := 0, signals := [], arb := 0, clk := 0, draws := 0,
    cur := none, agenda := [] }

end Sys2Proof.Machine
end

