-- ==== Sys2Proof/Machine/Tables.lean ====
section
/-! DEFINITION. Operations on sorted tables and on the bytes of memory, and plain arithmetic on numbers as bit images. -/
namespace Sys2Proof.Machine

/-- The entry of a table at a key. -/
def tget {α : Type} : Tbl α → Nat → Option α
  | [], _ => none
  | (i, a) :: r, k => if i = k then some a else tget r k

/-- Sets the entry at a key, keeping the keys rising. -/
def tput {α : Type} : Tbl α → Nat → α → Tbl α
  | [], k, v => [(k, v)]
  | (i, a) :: r, k, v => if k < i then (k, v) :: (i, a) :: r else if i = k then (k, v) :: r else (i, a) :: tput r k v

/-- Removes every entry at a key. -/
def tdel {α : Type} : Tbl α → Nat → Tbl α
  | [], _ => []
  | (i, a) :: r, k => if i = k then tdel r k else (i, a) :: tdel r k

/-- The entry at a key, or the value of an unlisted entry. -/
def tgetD {α : Type} (t : Tbl α) (k : Nat) (d : α) : α := (tget t k).getD d

/-- Sets the entry at a key of a table whose unlisted entries hold `d`: writing `d` removes the entry. -/
def tputD {α : Type} [DecidableEq α] (t : Tbl α) (k : Nat) (v d : α) : Tbl α :=
  if v = d then tdel t k else tput t k v

/-- Applies a function to the entry at a key, if there is one. -/
def tmod {α : Type} : Tbl α → Nat → (α → α) → Tbl α
  | [], _, _ => []
  | (i, a) :: r, k, f => if i = k then (i, f a) :: r else (i, a) :: tmod r k f

/-- Applies a function to every entry. -/
def tmap {α : Type} (t : Tbl α) (f : Nat → α → α) : Tbl α := t.map fun e => (e.1, f e.1 e.2)

/-- The lowest number below `n` that is no key of the table. -/
def lowestFree {α : Type} (t : Tbl α) : Nat → Nat → Option Nat
  | _, 0 => none
  | i, n + 1 => if (tget t i).isNone then some i else lowestFree t (i + 1) n

/-- The n-th element of a list replaced. -/
def lset {α : Type} : List α → Nat → α → List α
  | [], _, _ => []
  | _ :: r, 0, v => v :: r
  | a :: r, n + 1, v => a :: lset r n v

/-- The n-th element of a list. -/
def lget {α : Type} : List α → Nat → Option α
  | [], _ => none
  | a :: _, 0 => some a
  | _ :: r, n + 1 => lget r n

/-- The numbers `a, a + 1, …`, `n` of them. -/
def upFrom (a : Nat) : Nat → List Nat
  | 0 => []
  | n + 1 => a :: upFrom (a + 1) n

/-- Inserts an element behind those whose key is not larger. -/
def insertKey {α : Type} (key : α → Nat) (x : α) : List α → List α
  | [] => [x]
  | a :: r => if key x < key a then x :: a :: r else a :: insertKey key x r

/-- A list in rising order of a key, equal keys in the order they stand. -/
def sortKey {α : Type} (key : α → Nat) (l : List α) : List α := l.foldl (fun acc x => insertKey key x acc) []

/-- The pairs (i, j) with i < m and j < n, row by row. -/
def pairsOf (m n : Nat) : List (Nat × Nat) := (upFrom 0 m).flatMap fun i => (upFrom 0 n).map fun j => (i, j)

/-- `n` values of `f` from `i` on, each in `w` bits, the first lowest, as one number (R3). -/
def packBits (f : Nat → Nat) (w : Nat) : Nat → Nat → Nat
  | _, 0 => 0
  | i, n + 1 => f i % 2 ^ w + packBits f w (i + 1) n * 2 ^ w

/-- Bits `lo + n - 1` down to `lo` of a number. -/
def bits (x lo n : Nat) : Nat := (x >>> lo) % 2 ^ n

/-- The number with bits `lo + n - 1` down to `lo` replaced by the low bits of `v`. -/
def setBits (x lo n v : Nat) : Nat :=
  (x >>> (lo + n)) <<< (lo + n) + (v % 2 ^ n) <<< lo + x % 2 ^ lo

/-- Bit `n` of a number. -/
def bit (x n : Nat) : Bool := (x >>> n) % 2 = 1

/-- The number with bit `n` set or cleared. -/
def setBit (x n : Nat) (b : Bool) : Nat := setBits x n 1 (if b then 1 else 0)

/-- The signed value of the low `w` bits. -/
def signed (w x : Nat) : Int := if bit x (w - 1) then Int.ofNat (x % 2 ^ w) - Int.ofNat (2 ^ w) else Int.ofNat (x % 2 ^ w)

/-- An integer in `w` bits, modulo 2^w (R32). -/
def wrap (w : Nat) (x : Int) : Nat := (x % Int.ofNat (2 ^ w)).toNat

/-- How many bits of the low `n` are set. -/
def popcount (x : Nat) : Nat → Nat
  | 0 => 0
  | n + 1 => (if bit x n then 1 else 0) + popcount x n

/-- Ceiling of a quotient. -/
def ceilDiv (a b : Nat) : Nat := (a + b - 1) / b

/-- The canonical form of memory: addresses strictly rising and inside the 52-bit space, no cell equal to what an
unlisted address reads as. -/
def Memory.wf : Memory → Bool
  | [] => true
  | [(a, b)] => decide (a < 2 ^ 52) && decide (b ≠ unlisted)
  | (a, b) :: (a', b') :: r => decide (a < a') && decide (b ≠ unlisted) && Memory.wf ((a', b') :: r)

/-- One byte of memory (DESIGN CHOICE, log entry 3). -/
def readByte (m : Memory) (a : Nat) : Byte := tgetD m (a % 2 ^ 52) unlisted

/-- Writes one byte of memory, keeping the canonical form (DESIGN CHOICE, log entry 3). -/
def writeByte (m : Memory) (a : Nat) (b : Byte) : Memory := tputD m (a % 2 ^ 52) b unlisted

/-- `n` bytes of memory from an address up. -/
def readBytes (m : Memory) (a : Nat) : Nat → List Byte
  | 0 => []
  | n + 1 => readByte m a :: readBytes m (a + 1) n

/-- Writes bytes from an address up. -/
def writeBytes (m : Memory) (a : Nat) : List Byte → Memory
  | [] => m
  | b :: r => writeBytes (writeByte m a b) (a + 1) r

/-- The number a list of bytes holds, the first lowest (R3) (DESIGN CHOICE, log entry 13). -/
def bytesNat : List Byte → Nat
  | [] => 0
  | b :: r => b.toNat + 256 * bytesNat r

/-- A number as `n` bytes, the lowest first (R3) (DESIGN CHOICE, log entry 13). -/
def natBytes (x : Nat) : Nat → List Byte
  | 0 => []
  | n + 1 => BitVec.ofNat 8 x :: natBytes (x / 256) n

/-- The number `n` bytes of memory hold. -/
def readNat (m : Memory) (a n : Nat) : Nat := bytesNat (readBytes m a n)

/-- Writes a number as `n` bytes of memory. -/
def writeNat (m : Memory) (a n x : Nat) : Memory := writeBytes m a (natBytes x n)

end Sys2Proof.Machine
end

