-- ==== Sys2Proof/Machine/Translate.lean ====
section
/-! DEFINITION. Page translation (R191 to R198): the walk of a context's tree and the TLB slices. -/
namespace Sys2Proof.Machine

/-- How an access uses a translation (R203 ACCESS bits 0 to 3). `stage` is a store that is translated but not performed yet: a
part of a split element, or a store a transaction buffers. -/
inductive Use where
  | read | write | fetch | atomic | stage
deriving DecidableEq, Repr

/-- The ACCESS bits of a fault-queue entry (R203). -/
def useBits : Use → Nat
  | .read => 1 | .write => 2 | .fetch => 4 | .atomic => 11 | .stage => 2

/-- Whether a leaf permits a use (R193). -/
def permits (leaf : BitVec 64) : Use → Bool
  | .read => leaf.getLsbD 1
  | .write => leaf.getLsbD 2
  | .fetch => leaf.getLsbD 3
  | .atomic => leaf.getLsbD 2
  | .stage => leaf.getLsbD 2

/-- Whether a use writes memory. -/
def storing : Use → Bool
  | .write => true | .atomic => true | .stage => true | .read => false | .fetch => false

/-- Result of a walk: a leaf with the VA of its page, the page size and the entry's physical address; or the KIND and
level of the fault (R203). -/
inductive Walk where
  | leaf (va size pa : Nat) (e : BitVec 64)
  | bad (kind level : Nat)
deriving DecidableEq, Repr

/-- An entry of a table at a physical address. -/
def entryAt (m : Memory) (pa : Nat) : BitVec 64 := BitVec.ofNat 64 (readNat m pa 8)

/-- A table entry, not a leaf, is malformed when a bit other than V and the next table's address is set (R193, R194). -/
def tableMalformed (e : BitVec 64) : Bool := decide (e.toNat ≠ bits e.toNat 12 40 * 4096 + 1)

/-- The leaf conditions of R194 that do not depend on neighbours: reserved bits, frame bits below the page size, W
without R, MH with HS. -/
def leafMalformed (e : BitVec 64) (frameLow : Nat) : Bool :=
  decide (bits e.toNat 54 10 ≠ 0) || decide (bits e.toNat 12 frameLow ≠ 0) || (e.getLsbD 2 && !e.getLsbD 1) ||
    (e.getLsbD 6 && e.getLsbD 5)

/-- What a 64 KiB group holds in common: every bit but A, D and FRAME bits 3:0 (R194). -/
def groupKey (e : BitVec 64) : Nat := setBits (setBits e.toNat 8 2 0) 12 4 0

/-- The 16 entries of the group from `base`, checked from entry `i` (R194). -/
def groupOk (m : Memory) (base key : Nat) : Nat → Nat → Bool
  | _, 0 => true
  | i, n + 1 =>
    let e := entryAt m (base + 8 * i)
    decide (groupKey e = key) && decide (bits e.toNat 12 4 = i) && groupOk m base key (i + 1) n

/-- Leaf entry at level 0 (R194). -/
def walkLevel0 (m : Memory) (table va : Nat) : Walk :=
  let pa := table + 8 * bits va 12 9
  let e := entryAt m pa
  if e.getLsbD 0 = false then .bad 0 0
  else if e.getLsbD 53 then
    let base := table + 128 * bits va 16 5
    if leafMalformed e 0 || !groupOk m base (groupKey e) 0 16 then .bad 4 0
    else if e.getLsbD 7 then .bad 2 0
    else .leaf (va / 4096 * 4096) 4096 pa e
  else if leafMalformed e 0 then .bad 4 0
  else if e.getLsbD 7 then .bad 2 0
  else .leaf (va / 4096 * 4096) 4096 pa e

/-- A leaf found above level 0, of `2 ^ lg` bytes. -/
def bigLeaf (pa va lg level : Nat) (e : BitVec 64) : Walk :=
  if leafMalformed e (lg - 12) then .bad 4 level
  else if e.getLsbD 7 then .bad 2 level
  else .leaf (va / 2 ^ lg * 2 ^ lg) (2 ^ lg) pa e

/-- Levels 2 and 1, where PS makes a leaf; `n` is the level. -/
def walkMid (m : Memory) (va : Nat) : Nat → Nat → Walk
  | 0, table => walkLevel0 m table va
  | n + 1, table =>
    let pa := table + 8 * bits va (21 + 9 * n) 9
    let e := entryAt m pa
    if e.getLsbD 0 = false then .bad 0 (n + 1)
    else if e.getLsbD 53 then bigLeaf pa va (21 + 9 * n) (n + 1) e
    else if tableMalformed e then .bad 4 (n + 1)
    else walkMid m va n (bits e.toNat 12 40 * 4096)

/-- A walk from the root (R192, R194): KIND NOTMAPPED 0, MIGRATE 2 or MALFORMED 4, and the level (root 4). -/
def walk (m : Memory) (root va : Nat) : Walk :=
  let e4 := entryAt m (root + 8 * bits va 48 9)
  if e4.getLsbD 0 = false then .bad 0 4
  else if tableMalformed e4 then .bad 4 4
  else
    let e3 := entryAt m (bits e4.toNat 12 40 * 4096 + 8 * bits va 39 9)
    if e3.getLsbD 0 = false then .bad 0 3
    else if tableMalformed e3 then .bad 4 3
    else walkMid m va 2 (bits e3.toNat 12 40 * 4096)

/-- The entries a walk reads from a level-`n` table on, by physical address: all 16 of a 64 KiB group (R192, R194). -/
def entriesBelow (m : Memory) (va : Nat) : Nat → Nat → List Nat
  | 0, table =>
    let pa := table + 8 * bits va 12 9
    let e := entryAt m pa
    if e.getLsbD 0 && e.getLsbD 53 then pa :: (upFrom 0 16).map fun i => table + 128 * bits va 16 5 + 8 * i else [pa]
  | n + 1, table =>
    let pa := table + 8 * bits va (21 + 9 * n) 9
    let e := entryAt m pa
    pa :: if e.getLsbD 0 = false ∨ (n < 2 ∧ e.getLsbD 53) ∨ tableMalformed e then [] else entriesBelow m va n (bits e.toNat 12 40 * 4096)

/-- The entries a walk from the root reads. -/
def walkEntries (m : Memory) (root va : Nat) : List Nat := entriesBelow m va 4 root

/-- The physical address a leaf gives (R191). In a member of a 64 KiB page FRAME bits 3:0 hold the index, which is the
part's own address bits 15:12 (R194), so the same sum serves every size. -/
def leafPhys (leaf : BitVec 64) (pageVa va : Nat) : Nat := bits leaf.toNat 12 40 * 4096 + (va - pageVa)

/-- The slice of a core that serves an address (R197): VA[11:8] on an M-core, VA[9:8] on an E-core, slice `core * 16 + s`. The
device agents outside the cores translate in slices of their own, as core 384 (DESIGN CHOICE, log entry 91). -/
def sliceOf (core va : Nat) : Nat := core * 16 + va / 256 % (if 256 ≤ core ∧ core < 384 then 4 else 16)

/-- The leaf a slice caches that covers an address for a context of a partition (R198). -/
def tlbFind (tlb : List TlbEntry) (slice ctx part va : Nat) : Option TlbEntry :=
  tlb.find? fun e => decide (e.slice = slice) && (decide (e.ctx = ctx) || (e.glob && decide (e.part = part))) && decide (e.va ≤ va) &&
    decide (va < e.va + e.size)

/-- First address and size of the page that a cached leaf belongs to: a 64 KiB page is cached by its 4 KiB parts (R194). -/
def pageSpan (e : TlbEntry) : Nat × Nat :=
  if e.size = 4096 ∧ e.leaf.getLsbD 53 then (e.va / 65536 * 65536, 65536) else (e.va, e.size)

/-- Drops the cached leaves whose page meets a range, from every slice (R207); `all` stands for the whole ASID. -/
def tlbDrop (tlb : List TlbEntry) (ctx part lo hi : Nat) (all glob : Bool) : List TlbEntry :=
  tlb.filter fun e =>
    !((decide (e.ctx = ctx) || (glob && e.glob && decide (e.part = part))) &&
      (all || (decide ((pageSpan e).1 < hi) && decide (lo < (pageSpan e).1 + (pageSpan e).2))))

/-- Result of a translation: the physical address, the leaf and the VA of its page; or KIND and level. -/
inductive Trans where
  | ok (pa : Nat) (leaf : BitVec 64) (leafVa : Nat)
  | bad (kind level : Nat)
deriving DecidableEq, Repr

/-- A translation that sets no bit and caches nothing (R212): the leaf, if there is a valid one. -/
def peek (m : Memory) (root va : Nat) : Option (Nat × BitVec 64) :=
  if va < 2 ^ 57 then
    match walk m root va with
    | .leaf pv _ _ leaf => some (leafPhys leaf pv va, leaf)
    | .bad .. => none
  else none

/-- The entry at which the tables below a level-`n` table end for a VA, with its level: a leaf, whatever else it holds, or an entry that
is not valid. -/
def lastEntry (m : Memory) (va : Nat) : Nat → Nat → Nat × BitVec 64
  | 0, table => (0, entryAt m (table + 8 * bits va 12 9))
  | n + 1, table =>
    let e := entryAt m (table + 8 * bits va (21 + 9 * n) 9)
    if e.getLsbD 0 = false ∨ (n < 2 ∧ e.getLsbD 53) then (n + 1, e) else lastEntry m va n (bits e.toNat 12 40 * 4096)

/-- First address and size of the page that holds a VA as the tables stand, MIG aside: 4 KiB where nothing is mapped,
and above bit 56. -/
def pageSpanAt (m : Memory) (root va : Nat) : Nat × Nat :=
  let (level, e) := lastEntry m va 4 root
  let size := if 2 ^ 57 ≤ va ∨ !e.getLsbD 0 ∨ !e.getLsbD 53 then 4096 else if level = 0 then 65536 else if level = 1 then 2 ^ 21 else if level = 2 then 2 ^ 30 else 4096
  (va / size * size, size)

/-- Whether the `n` pages from a VA are each mapped by a leaf that meets a condition. -/
def pagesOk (m : Memory) (root : Nat) (cond : BitVec 64 → Bool) : Nat → Nat → Bool
  | _, 0 => true
  | va, n + 1 =>
    (match peek m root va with
      | some (_, leaf) => cond leaf
      | none => false) && pagesOk m root cond (va + 4096) n

/-- Whether every page that meets `len` bytes from a VA is mapped by a leaf that meets a condition. -/
def rangeOk (m : Memory) (root : Nat) (cond : BitVec 64 → Bool) (va len : Nat) : Bool :=
  decide (len = 0) || pagesOk m root cond (va / 4096 * 4096) ((va + len - 1) / 4096 - va / 4096 + 1)

end Sys2Proof.Machine
end

