-- ==== Sys2Proof/Machine/Ops.lean ====
section
/-! DEFINITION. The named operations over the machine's objects: accessors, registers and lookahead windows, accesses to memory and scratchpad, the error and fault queues, ending teams and contexts, taking a trap and resuming from one, and completing an instruction. -/
namespace Sys2Proof.Machine

/-! ### Objects -/

/-- The key of a team in `State.teams`: its invocation's key and its team index (48 bits, R109). -/
def teamKey (inv tidx : Nat) : Nat := inv * 2 ^ 48 + tidx

/-- The key of an invocation: its partition and its number (R86). -/
def invKey (part num : Nat) : Nat := part * 4096 + num

/-- The number of an invocation, 0 to 4,095 (R86). -/
def invNum (key : Nat) : Nat := key % 4096

def getTeam (s : State) (k : Nat) : Option Team := tget s.teams k
def getInv (s : State) (k : Nat) : Option Invoc := tget s.invs k
def getCtx (s : State) (n : Nat) : Option Ctx := tget s.ctxs n
def modTeam (s : State) (k : Nat) (f : Team → Team) : State := { s with teams := tmod s.teams k f }
def modInv (s : State) (k : Nat) (f : Invoc → Invoc) : State := { s with invs := tmod s.invs k f }
def modCtx (s : State) (n : Nat) (f : Ctx → Ctx) : State := { s with ctxs := tmod s.ctxs n f }
def modPage (s : State) (fn : Nat) (f : Page → Page) : State := { s with pages := tmod s.pages fn f }

/-- The group `i` of a team. -/
def getGroup (s : State) (k i : Nat) : Option Group := (getTeam s k).bind fun t => lget t.groups i

/-- The sequencer of a team. -/
def getSeq (s : State) (k : Nat) : Option Seq := (getTeam s k).bind fun t => t.seq

/-- Puts group `i` of a team. -/
def putGroup (s : State) (k i : Nat) (g : Group) : State := modTeam s k fun t => { t with groups := lset t.groups i g }

/-- Puts the sequencer of a team. -/
def putSeq (s : State) (k : Nat) (q : Seq) : State := modTeam s k fun t => { t with seq := some q }

/-- The thread of an agent of a team: 0 to 15 a group's control thread, 16 the sequencer. -/
def getThread (s : State) (k a : Nat) : Option Thread :=
  if a = 16 then (getSeq s k).map (·.th) else (getGroup s k a).map (·.th)

/-- Applies a function to the thread of an agent in a team. -/
def teamModThread (t : Team) (a : Nat) (f : Thread → Thread) : Team :=
  if a = 16 then { t with seq := t.seq.map fun q => { q with th := f q.th } }
  else match lget t.groups a with
    | some g => { t with groups := lset t.groups a { g with th := f g.th } }
    | none => t

def modThread (s : State) (k a : Nat) (f : Thread → Thread) : State := modTeam s k fun t => teamModThread t a f

/-- The next sequence number of the device event arbiter (R145): never 0. -/
def arbTick (s : State) : State := { s with arb := s.arb + 1 }

/-- The invocation of a team. -/
def invOf (s : State) (k : Nat) : Option Invoc := (getTeam s k).bind fun t => getInv s t.inv

/-- The context of a team. -/
def ctxOf (s : State) (k : Nat) : Option Ctx := (invOf s k).bind fun iv => getCtx s iv.ctx

/-- The number of a team's context. -/
def ctxNum (s : State) (k : Nat) : Nat := ((invOf s k).map (·.ctx)).getD 0

/-- Whether the context holds a feature bit (R64). -/
def hasFeature (c : Ctx) (b : Nat) : Bool := c.features.getLsbD b

/-- An invocation outside DONE and FAULTED (R86). -/
def invLive (iv : Invoc) : Bool := decide (iv.st ≠ .done) && decide (iv.st ≠ .faulted)

/-- The CLASS code of a cluster: 0 M, 1 E (R12). -/
def clusterClass (c : Nat) : Nat := if c < 32 then 0 else 1

/-- Accumulator elements a target holds (R153). -/
def capacityOf (tg : Target) : Nat :=
  (if clusterClass tg.cluster = 0 then 65536 else 4096) / (match tg.mode with | .unshared => 1 | .half => 2 | .quarter => 4)

/-- A context that is KILLING or DEAD. -/
def ctxGone (c : Ctx) : Bool := decide (c.st = .killing) || decide (c.st = .dead)

/-! ### Registers and lookahead windows (R247, R266) -/

/-- The bits of `v` under a mask put into `x`. -/
def merge (x mask v : Nat) : Nat := x ^^^ ((x ^^^ v) &&& mask)

/-- What a register reads as under the open windows, newest first: each window that hides it takes back the bits its instruction wrote
(DEDUCED, log entry 68). -/
def hide (wins : List Window) (r : RegId) (v : Nat) : Nat :=
  wins.foldl (fun acc w => match w.hid.find? (fun e => e.reg = r) with | some e => merge acc e.mask e.old | none => acc) v

/-- A later write to some bits of a register, as the entry of a window records it. -/
def pokeHidden (r : RegId) (mask v : Nat) (e : Hidden) : Hidden :=
  if e.reg = r then { e with old := merge e.old mask v, new := merge e.new mask v } else e

/-- A later write to some bits of a register is no longer hidden by any of these windows (DEDUCED, log entry 68). -/
def poke (wins : List Window) (r : RegId) (mask v : Nat) : List Window :=
  wins.map fun w => { w with hid := w.hid.map (pokeHidden r mask v) }

/-- One instruction of the stream completes: every window covers one instruction fewer, and what a closing window's
instruction wrote is no longer hidden by the older windows, since it is the later write (DEDUCED, log entry 68). -/
def tickWindows : List Window → List Window
  | [] => []
  | w :: older =>
    if w.left ≤ 1 then w.hid.foldl (fun ws e => poke ws e.reg e.mask e.new) (tickWindows older)
    else { w with left := w.left - 1 } :: tickWindows older

/-- The windows after an instruction with lookahead `la` that wrote `hid` has completed (DEDUCED, log entry 68). -/
def advanceWindows (wins : List Window) (la : Nat) (hid : List Hidden) : List Window :=
  if la = 0 then tickWindows wins else { left := la, hid := hid } :: tickWindows wins

/-- Every bit of a 64-bit register. -/
def allOnes : Nat := 2 ^ 64 - 1

/-- The value register n holds, windows aside. -/
def rawX (th : Thread) (n : Nat) : Word := tgetD th.x n 0

/-- Reads s or k register n (R247): register 0 reads zero. -/
def readX (th : Thread) (n : Nat) : Word :=
  if n = 0 then 0 else BitVec.ofNat 64 (hide th.wins (.x n) (rawX th n).toNat)

/-- Sets register n without touching the windows. -/
def setX (th : Thread) (n : Nat) (v : Word) : Thread := { th with x := tputD th.x n v 0 }

/-- Writes s or k register n: a write to register 0 is discarded (R247). -/
def writeX (th : Thread) (n : Nat) (v : Word) : Thread :=
  if n = 0 then th else setX { th with wins := poke th.wins (.x n) allOnes v.toNat } n v

/-- Writes register n as the destination of an instruction with lookahead `la`; answers what its window will hide. -/
def writeXla (th : Thread) (n : Nat) (v : Word) (la : Nat) : Thread × List Hidden :=
  if la = 0 then (writeX th n v, [])
  else if n = 0 then (th, [])
  else (setX th n v, [{ reg := .x n, old := (rawX th n).toNat, mask := allOnes, new := v.toNat }])

/-- Reads reference register h(n) (R247). -/
def readH (g : Group) (n : Nat) : Word := BitVec.ofNat 64 (hide g.th.wins (.h n) (tgetD g.h n 0).toNat)

/-- Writes reference register h(n). -/
def writeH (g : Group) (n : Nat) (v : Word) : Group :=
  { g with h := tputD g.h n v 0, th := { g.th with wins := poke g.th.wins (.h n) allOnes v.toNat } }

/-- Writes h(n) as the destination of an instruction with lookahead `la`. -/
def writeHla (g : Group) (n : Nat) (v : Word) (la : Nat) : Group × List Hidden :=
  if la = 0 then (writeH g n v, [])
  else ({ g with h := tputD g.h n v 0 }, [{ reg := .h n, old := (tgetD g.h n 0).toNat, mask := allOnes, new := v.toNat }])

/-- The image of p0, true in every VP (R247). -/
def pOnes : Nat := 2 ^ 8192 - 1

/-- The image of a predicate register as the control thread reads it: bit i is VP i's. -/
def readP (g : Group) (n : Nat) : Nat := if n = 0 then pOnes else hide g.th.wins (.p n) (tgetD g.p n 0)

/-- Writes the image of a predicate register; p0 discards writes. -/
def writeP (g : Group) (n v : Nat) : Group :=
  if n = 0 then g else { g with p := tputD g.p n v 0, th := { g.th with wins := poke g.th.wins (.p n) pOnes v } }

/-! ### Vector configuration (R105, R251) -/

/-- Element width in bits of a format code (R31): FP32, FP16, BF16, E4M3, E5M2, E3M2, E2M3, E2M1, I8, I16, I32, I64. -/
def fmtWidth : Nat → Nat
  | 0 => 32 | 1 => 16 | 2 => 16 | 3 => 8 | 4 => 8 | 5 => 6 | 6 => 6 | 7 => 4 | 8 => 8 | 9 => 16 | 10 => 32 | 11 => 64 | _ => 32

/-- Group width in lanes of a descriptor code (R68). -/
def lanes (widthCode : Nat) : Nat := 8 * 2 ^ widthCode

def vtFmt (g : Group) : Nat := bits g.vtype.toNat 0 4
def vtBlk (g : Group) : Nat := bits g.vtype.toNat 4 3
def vtXve (g : Group) : Bool := g.vtype.getLsbD 7
def nvCount (g : Group) : Nat := 8 * 2 ^ bits g.vtype.toNat 8 2
def grpFactor (g : Group) : Nat := 2 ^ bits g.vtype.toNat 10 2
def elemWidth (g : Group) : Nat := fmtWidth (vtFmt g)

/-- C(x) of R304: how many x-bit elements one named register holds, `w` lanes of `b` bytes; VLMAX is C of the element width. -/
def capElems (kn : Kernel) (g : Group) (x : Nat) : Nat :=
  Min.min 8192 (lanes kn.width * (8 * (512 * kn.budget) / (nvCount g * grpFactor g * x)))

/-- VLMAX (R105). -/
def vlmax (kn : Kernel) (g : Group) : Nat := capElems kn g (elemWidth g)

/-- RegBytes (R105). -/
def regBytes (kn : Kernel) (nv grp : Nat) : Nat := 512 * kn.budget / (nv * grp)

/-! ### Transactions against other agents (R187 to R189), poison covered by stores (R386) -/

/-- TXS after a transaction ends (R188). -/
def txsWord (cause lines code : Nat) : Word := BitVec.ofNat 64 (2 * cause + 256 * lines + 2 ^ 24 * code)

/-- The size of a transaction's line set (R187). -/
def txnLines (x : Txn) : List Nat := (x.readLines ++ x.writeLines).eraseDups

/-- Aborts a group's transaction (R189): writes discarded, the snapshot restored, TXS recorded, on at the abort address.
The windows opened since TXB close (R344). -/
def abortTxn (g : Group) (cause code : Nat) : Group :=
  match g.txn with
  | none => g
  | some x => { g with txn := none, h := x.h, fcsr := x.fcsr, txs := txsWord cause (txnLines x).length code,
                       th := { g.th with x := x.x, pc := x.abort, wins := x.wins, convoy := 0 } }

/-- Whether an access to a line conflicts with a transaction (R189). -/
def txnConflict (x : Txn) (line : Nat) (w : Bool) : Bool := x.writeLines.contains line || (w && x.readLines.contains line)

/-- The groups of a team other than `i`, each aborted if the access conflicts; `i` numbers the list's first group. -/
def snoopGroups (self : Option Nat) (line : Nat) (w : Bool) : Nat → List Group → List Group
  | _, [] => []
  | i, g :: r =>
    (match g.txn with
      | some x => if self ≠ some i ∧ txnConflict x line w then abortTxn g 1 0 else g
      | none => g) :: snoopGroups self line w (i + 1) r

/-- Marks the watch of a group whose watched lines a condition meets. -/
def wakeThread (hit : Nat → Bool) (th : Thread) : Thread :=
  match th.run with
  | .waitMem w => if w.lines.any hit then { th with run := .waitMem { w with due := true } } else th
  | _ => th

/-- A write by any agent to a watched line, which an evaluation of the watch follows (R185). -/
def wake (s : State) (hit : Nat → Bool) : State :=
  if s.teams.any fun e => e.2.groups.any fun g => match g.th.run with | .waitMem _ => true | _ => false then
    { s with teams := tmap s.teams fun _ t => { t with groups := t.groups.map fun (g : Group) => { g with th := wakeThread hit g.th } } }
  else s

/-- Whether a transaction is in progress. -/
def txnOpen (s : State) : Bool := s.teams.any fun e => e.2.groups.any fun g => g.txn.isSome

/-- An access reaching the home slice of a line aborts every conflicting transaction of another agent (R189). -/
def snoopLine (s : State) (k i line : Nat) (w : Bool) : State :=
  if txnOpen s then
    { s with teams := tmap s.teams fun k' t => { t with groups := snoopGroups (if k' = k then some i else none) line w 0 t.groups } }
  else s

/-- An access of a transaction itself at the home slice of a line: the conflicting transactions of others abort (R189), and a write wakes
the watches of the line (R185). -/
def snoop (s : State) (k i line : Nat) (w : Bool) : State :=
  let s1 := snoopLine s k i line w
  if w then wake s1 fun l => l = line else s1

/-- The transactions that an access to `n` bytes aborts (R189). -/
def snoopLines (s : State) (pa n : Nat) (w : Bool) : State :=
  if txnOpen s then
    { s with teams := tmap s.teams fun _ t => { t with groups := t.groups.map fun (g : Group) => match g.txn with
        | some x => if (txnLines x).any fun l => txnConflict x l w && decide (pa < 64 * l + 64) && decide (64 * l < pa + n) then abortTxn g 1 0 else g
        | none => g } }
  else s

/-- An access to `n` bytes that is no transaction's own: conflicting transactions abort (R189), and a write wakes the watches of its
lines (R185). -/
def snoopRange (s : State) (pa n : Nat) (w : Bool) : State :=
  let s1 := snoopLines s pa n w
  if w then wake s1 fun l => decide (pa < 64 * l + 64) && decide (64 * l < pa + n) else s1

/-- The poisoned lines that a list of writes (physical address, size) covers whole lose their poison (R386). -/
def coverPoison (s : State) (ws : List (Nat × Nat)) : State :=
  if s.poison = [] then s else
  { s with poison := s.poison.filter fun l =>
      !((upFrom (64 * l) 64).all fun b => ws.any fun w => decide (w.1 ≤ b) && decide (b < w.1 + w.2)) }

/-- The same of writes of bits: physical address of the first bit, and how many (R44, R386). -/
def coverBits (s : State) (ws : List (Nat × Nat)) : State :=
  if s.poison = [] then s else
  { s with poison := s.poison.filter fun l =>
      !((upFrom (512 * l) 512).all fun b => ws.any fun w => decide (w.1 ≤ b) && decide (b < w.1 + w.2)) }

/-! ### Accesses of a context's own device agents -/

/-- Memory as a page walk finds it: poison is never reported as a value (R386), so the entries of a poisoned line read as no valid entry
does and the walk ends MALFORMED (DESIGN CHOICE, log entry 96). -/
def tables (s : State) : Memory := s.poison.foldl (fun m l => writeBytes m (64 * l) (List.replicate 64 0xFF)) s.mem

/-- The reads a walk makes at the home slices of its entries: they conflict with transactions like any other read (R189). -/
def snoopWalk (s : State) (root va : Nat) : State :=
  if txnOpen s then (walkEntries (tables s) root va).foldl (fun s p => snoopLines s p 8 false) s else s

/-- The heap region of a VA (R216). -/
def regionOf (h : Heap) (va : Nat) : Option Nat :=
  let b := h.heapva.toNat
  if h.enabled ∧ b ≤ va ∧ va < b + h.heapn.toNat * 2 ^ 21 then some ((va - b) / 2 ^ 21) else none

/-- A region's record; one never touched is FREE with GEN 0 and TOP 0 (R212). -/
def getRegion (h : Heap) (n : Nat) : Region :=
  tgetD h.regions n { st := .free, gen := 0, top := 0, large := false, fwd := [], drained := false, leaves := [] }

/-- The leaf of a page with A and D aside (R222). -/
def leafKey (leaf : BitVec 64) : Nat := setBits leaf.toNat 8 2 0

/-- Whether a walk now finds, for a page of a region under evacuation or of its to-space, another leaf than the plan recorded, or reads
for any page a leaf entry of theirs that has changed (R222). -/
def tampered (s : State) (c : Ctx) (va : Nat) : Bool :=
  c.heap.regions.any fun r =>
    (match tget r.2.leaves (va / 4096) with
      | some key => (match walk (tables s) c.root va with | .leaf _ _ _ e => decide (leafKey e ≠ key.1) | .bad .. => true)
      | none => false) ||
    (decide (r.2.leaves ≠ []) && (walkEntries (tables s) c.root va).any fun p =>
      r.2.leaves.any fun l => decide (l.2.2 = p) && decide (leafKey (entryAt (tables s) p) ≠ l.2.1))

/-- The context suffers an uncontained machine error: its kill sequence begins before the next step (R222). -/
def breakCtx (s : State) (cn : Nat) : State := modCtx s cn fun c => { c with broken := true }

/-- Sets bits of a leaf entry that are not all set, by an atomic OR at its home slice (R195), which conflicts with
transactions like any other write (R189). -/
def orEntry (s : State) (pa : Nat) (bits' : BitVec 64) : State :=
  let e := entryAt s.mem pa
  if e &&& bits' = bits' then s
  else { snoopRange s pa 8 true with mem := writeNat s.mem pa 8 (e ||| bits').toNat }

/-- A fresh walk for an access (R192, R198): its leaf is cached and gets A (R195). `none` in the second place is an
uncontained machine error (R222). -/
def walkTranslate (s : State) (slice cn : Nat) (c : Ctx) (va : Nat) (u : Use) : State × Option Trans :=
  let s0 := snoopWalk s c.root va
  if tampered s c va then (breakCtx s0 cn, none)
  else match walk (tables s) c.root va with
  | .bad k l => (s0, some (.bad k l))
  | .leaf pv size pa leaf =>
    if permits leaf u then
      let s1 := orEntry s0 pa 0x100
      let leaf1 := leaf ||| 0x100#64
      ({ s1 with tlb := { slice := slice, ctx := cn, part := c.part, glob := leaf.getLsbD 52, va := pv, size := size, leafPa := pa, leaf := leaf1 } :: s1.tlb },
        some (.ok (leafPhys leaf pv va) leaf1 pv))
    else (s0, some (.bad 1 (if size = 2 ^ 30 then 2 else if size = 2 ^ 21 then 1 else 0)))

/-- Translates an address for an access of a context through a slice of a core: a cached leaf that has the permission, else a
fresh walk (R197, R198) (DEDUCED, log entry 48). -/
def ctxTranslate (s : State) (core cn : Nat) (va : Nat) (u : Use) : State × Option Trans :=
  match getCtx s cn with
  | none => (s, some (.bad 0 5))
  | some c =>
    let slice := sliceOf core va
    match tlbFind s.tlb slice cn c.part va with
    | some e =>
      if permits e.leaf u then (s, some (.ok (leafPhys e.leaf e.va va) e.leaf e.va))
      else walkTranslate { s with tlb := s.tlb.erase e } slice cn c va u
    | none => walkTranslate s slice cn c va u

/-- Sets D in a leaf a store or atomic was translated through, before it is performed (R195): at the first one through the leaf as
cached, whether or not it still is. -/
def dirtyLeaf (s : State) (e : TlbEntry) : State :=
  if e.leaf.getLsbD 9 then s
  else
    let s1 := orEntry s e.leafPa 0x200
    { s1 with tlb := if s1.tlb.contains e then { e with leaf := e.leaf ||| 0x200#64 } :: s1.tlb.erase e else s1.tlb }

/-- The leaf cached in a core's slice for an address of a context. -/
def cachedLeaf (s : State) (core cn va : Nat) : Option TlbEntry := (getCtx s cn).bind fun c => tlbFind s.tlb (sliceOf core va) cn c.part va

/-- Sets D in the cached leaf through which a store or atomic that is about to be performed was translated (R195). -/
def dirtyAt (s : State) (core cn va : Nat) : State :=
  match cachedLeaf s core cn va with
  | some e => dirtyLeaf s e
  | none => s

/-- The core number under which the device agents outside the cores translate (DESIGN CHOICE, log entry 91). -/
def hubCore : Nat := 384

/-- The core a team was placed on. -/
def coreOf (s : State) (k : Nat) : Nat := ((getTeam s k).map (·.target.core)).getD hubCore

/-- A walk of the Caretaker for a VA of a context, which caches nothing and sets no bit: `none` when it finds no valid leaf, or
a changed one, which is an uncontained machine error (R222). -/
def caretakerWalk (s : State) (cn va : Nat) : State × Option (Nat × BitVec 64) :=
  match getCtx s cn with
  | none => (s, none)
  | some c => let s0 := snoopWalk s c.root va; if tampered s c va then (breakCtx s0 cn, none) else (s0, peek (tables s) c.root va)

/-- Bytes written to memory by the device or the host: conflicting transactions abort, a poisoned line written whole is good
again (R189, R386) (DESIGN CHOICE, log entry 2). -/
def putBytes (s : State) (pa : Nat) (bs : List Byte) : State :=
  let s1 := snoopRange s pa bs.length true
  coverPoison { s1 with mem := writeBytes s1.mem pa bs } [(pa, bs.length)]

/-- A write of the host to memory. One to host memory is certain to be seen only by the evaluation of every 4,096 clocks (R185). -/
def hostBytes (s : State) (pa : Nat) (bs : List Byte) : State :=
  if pa < 2 ^ 51 then putBytes s pa bs
  else coverPoison { snoopLines s pa bs.length true with mem := writeBytes s.mem pa bs } [(pa, bs.length)]

/-- Whether poison lies in `n` bytes of memory. -/
def poisonIn (s : State) (pa n : Nat) : Bool := s.poison.any fun l => decide (pa < 64 * l + 64) && decide (64 * l < pa + n)

/-- Clears the reference bits of the managed words that lie at physical addresses, whatever address a store reached them
through (R215) (DEDUCED, log entry 49). -/
def clearRefsAt (s : State) (pa n : Nat) : State :=
  if s.ctxs.all fun e => e.2.heap.refBits.isEmpty then s else
  let stays (c : Ctx) (e : Nat × Bool) : Bool :=
    match peek (tables s) c.root (8 * e.1) with
    | some (p, _) => !(decide (p < pa + n) && decide (pa < p + 8))
    | none => true
  { s with ctxs := tmap s.ctxs fun _ c => { c with heap := { c.heap with refBits := c.heap.refBits.filter (stays c) } } }

/-- Clears the reference bits of the words that `n` bytes from a VA of a context meet (R215). -/
def clearRefs (s : State) (cn va n : Nat) : State :=
  if n = 0 then s else
  modCtx s cn fun c => { c with heap := { c.heap with
    refBits := c.heap.refBits.filter fun e => !(decide (va / 8 ≤ e.1) && decide (e.1 ≤ (va + n - 1) / 8)) } }

/-- Whether the device itself may write at a VA of a context: the page is mapped with W and is no heap page, which the Caretaker and
the walker alone touch (R225), or the write will find an uncontained machine error. -/
def deviceMay (s : State) (cn va : Nat) : State × Bool :=
  if 2 ^ 57 ≤ va then (s, false) else
  match ctxTranslate s hubCore cn va .stage with
  | (s', some (.bad ..)) => (s', false)
  | (s', some (.ok _ leaf _)) => (s', !leaf.getLsbD 6)
  | (s', none) => (s', true)

/-- A write by the device itself at a VA of a context, inside one page: `none` when the page is not mapped with W or is a heap page (R225). Where the walk
finds an uncontained machine error (R222) the bytes are dropped with the context (DESIGN CHOICE, log entry 76). -/
def deviceWrite (s : State) (cn va : Nat) (bs : List Byte) : Option State :=
  if 2 ^ 57 ≤ va then none else
  match ctxTranslate s hubCore cn va .write with
  | (s', some (.ok pa leaf _)) =>
    if leaf.getLsbD 6 then none
    else some (clearRefsAt (clearRefs (putBytes (dirtyAt s' hubCore cn va) pa bs) cn va bs.length) pa bs.length)
  | (_, some (.bad ..)) => none
  | (s', none) => some s'

/-- A read by the device itself at a VA of a context, inside one page: `none` when the page is not mapped with R or is a heap page (R225),
or the bytes are poisoned (DEDUCED, log entry 97). -/
def deviceRead (s : State) (cn va n : Nat) : State × Option (List Byte) :=
  if 2 ^ 57 ≤ va then (s, none) else
  match ctxTranslate s hubCore cn va .read with
  | (s', some (.ok pa leaf _)) => if leaf.getLsbD 6 || poisonIn s' pa n then (s', none) else (snoopRange s' pa n false, some (readBytes s'.mem pa n))
  | (s', _) => (s', none)

/-! ### The error queue (R415 to R417) -/

/-- Bytes of an error record (R416). -/
def errorBytes (seq type code inv a0 a1 a2 : Nat) : List Byte :=
  natBytes seq 8 ++ natBytes type 1 ++ natBytes code 1 ++ natBytes inv 2 ++ natBytes 0 4 ++ natBytes a0 8 ++ natBytes a1 8 ++
    natBytes a2 8 ++ natBytes 0 24

/-- Writes one record at TAIL and advances TAIL; `none` when its slot is not mapped with W. -/
def errorPut (s : State) (cn : Nat) (type code inv a0 a1 a2 : Nat) : Option State :=
  match getCtx s cn with
  | none => none
  | some c =>
    let slot := c.eq.base.toNat + 64 * (c.eq.tail.toNat % 2 ^ c.eq.logn)
    (deviceWrite s cn slot (errorBytes s.arb type code inv a0 a1 a2)).map fun s' =>
      modCtx s' cn fun c => { c with eq := { c.eq with tail := c.eq.tail + 1 } }

/-- Records held: TAIL - HEAD. -/
def errorHeld (q : ErrorQ) : Nat := (q.tail - q.head).toNat

/-- Whether a record may be written: one slot stays free for an OVERFLOW record, which this record's own OVERFLOW record may take
(R415) (DEDUCED, log entry 12). -/
def errorRoom (q : ErrorQ) : Bool := decide (errorHeld q + 2 ≤ 2 ^ q.logn)

/-- Writes the OVERFLOW record that precedes a record when records were dropped (R415); unchanged when its slot is not mapped
with W. -/
def errorOverflow (s : State) (cn : Nat) (c : Ctx) : State :=
  if c.eq.dropped = 0 then s
  else match errorPut (arbTick s) cn 0xFF 0 0xFFFF c.eq.dropped 0 0 with
    | some s' => modCtx s' cn fun c => { c with eq := { c.eq with dropped := 0 } }
    | none => s

/-- Drops and counts a record (R415). -/
def errorDrop (s : State) (cn : Nat) : State := modCtx s cn fun c => { c with eq := { c.eq with dropped := c.eq.dropped + 1 } }

/-- Writes an error record of a context, or drops and counts it (R415); nothing follows the kill record (R73) (DEDUCED, log entry 12; DEDUCED, log entry 40). -/
def errorRecord (s : State) (cn : Nat) (type code inv a0 a1 a2 : Nat) : State :=
  match getCtx s cn with
  | none => s
  | some c =>
    if c.eq.closed then s
    else if !errorRoom c.eq then errorDrop (arbTick s) cn
    else
      let s1 := arbTick (errorOverflow s cn c)
      match errorPut s1 cn type code inv a0 a1 a2 with
      | some s2 => if ((getCtx s1 cn).map (·.eq.dropped)).getD 0 = 0 then s2 else errorDrop s1 cn
      | none => errorDrop s1 cn

/-! ### The fault queue (R203, R204) -/

/-- Bytes of a fault-queue entry (R203). -/
def faultBytes (e : FaultEntry) : List Byte :=
  natBytes e.va.toNat 8 ++ natBytes e.seq 8 ++ natBytes e.tidx 6 ++ natBytes e.inv 2 ++ natBytes e.agentBits 2 ++ natBytes e.elem 2 ++
    natBytes e.kind 1 ++ natBytes e.access 1 ++ natBytes 0 2

/-- Writes the entry at TAIL, when the ring has room and its slot is mapped with W. -/
def faultPut (s : State) (cn : Nat) (e : FaultEntry) : Option State :=
  match getCtx s cn with
  | none => none
  | some c =>
    if (c.fq.tail - c.fq.head).toNat < 2 ^ c.fq.logn then
      (deviceWrite s cn (c.fq.base.toNat + 32 * (c.fq.tail.toNat % 2 ^ c.fq.logn)) (faultBytes e)).map fun s' =>
        modCtx s' cn fun c => { c with fq := { c.fq with tail := c.fq.tail + 1, unresolved := c.fq.unresolved ++ [(c.fq.tail.toNat, e)] } }
    else none

/-- Writes the waiting entries in arbiter order, as far as they can be written; `n` bounds how many are tried. -/
def faultFlush (s : State) (cn : Nat) : Nat → State
  | 0 => s
  | n + 1 =>
    match (getCtx s cn).map (·.fq.waiting) with
    | some (e :: r) =>
      (match faultPut s cn e with
        | some s' => faultFlush (modCtx s' cn fun c => { c with fq := { c.fq with waiting := r } }) cn n
        | none => s)
    | _ => s

/-- Tries every waiting entry (R204). -/
def faultRetry (s : State) (cn : Nat) : State :=
  faultFlush s cn (((getCtx s cn).map fun c => c.fq.waiting.length).getD 0)

/-- Appends an entry behind those that wait, with its arbiter number, and writes what can be written. -/
def faultAppend (s : State) (cn : Nat) (e : FaultEntry) : State :=
  let s1 := arbTick s
  faultRetry (modCtx s1 cn fun c => { c with fq := { c.fq with waiting := c.fq.waiting ++ [{ e with seq := s1.arb }] } }) cn

/-- Whether a NOTMAPPED fault goes to the host as a PRI request first (R65, R203). -/
def wantsPri (s : State) (c : Ctx) (e : FaultEntry) : Bool :=
  decide (e.kind = 0) && decide (bits e.access 4 3 ≠ 5) && hasFeature c 6 &&
    ((tget s.pages c.owner).map (·.ats)).getD false

/-- Reports a recoverable fault (R203): a PRI request under uva, else an entry; nothing for a context KILLING or DEAD. -/
def faultReport (s : State) (cn : Nat) (e : FaultEntry) : State :=
  match getCtx s cn with
  | none => s
  | some c =>
    if ctxGone c then s
    else if wantsPri s c e then modCtx s cn fun c => { c with fq := { c.fq with pri := c.fq.pri ++ [e] } }
    else faultAppend s cn e

/-- The AGENT field of an entry (R203): a group, or the sequencer. -/
def agentBitsOf (a : Nat) : Nat := if a = 16 then 16 else a

/-! ### Ending teams, invocations and contexts -/

/-- Writes the PIN of the object whose header lies at a physical address (R210, R224), a write like any other to transactions
(R189). -/
def putPin (s : State) (pa pin : Nat) : State := { snoopRange s pa 2 true with mem := writeNat s.mem pa 2 pin }

/-- Sets A and D in the leaf that maps a VA of a context, before the Caretaker writes through it (R195). -/
def markLeaf (s : State) (cn va : Nat) : State :=
  match (getCtx s cn).map fun c => walk (tables s) c.root va with
  | some (.leaf _ _ pa _) => orEntry s pa 0x300
  | _ => s

/-- Subtracts 1 from the PIN of the object whose header lies at a VA of a context (R210, R224). A poisoned PIN stays lost (R386). -/
def unpin (s : State) (cn hdr : Nat) : State :=
  match caretakerWalk s cn (hdr + 4) with
  | (s1, some (pa, _)) => if poisonIn s1 pa 2 then s1 else let s2 := markLeaf s1 cn (hdr + 4); putPin s2 pa (readNat s2.mem pa 2 - 1)
  | (s1, none) => s1

/-- Unpins every hall-pass slot a group holds (R224). -/
def unpinAll (s : State) (cn : Nat) (g : Group) : State := g.pins.foldl (fun s e => unpin s cn e.2.1) s

/-- Whether a fault-queue item belongs to a team. -/
def faultOfTeam (k : Nat) (e : FaultEntry) : Bool :=
  match e.who with
  | .agent t _ => decide (t = k)
  | .engine t _ _ => decide (t = k)
  | .board .. => false

/-- Forgets the faults of a team that no longer exists. -/
def dropTeamFaults (s : State) (cn k : Nat) : State :=
  modCtx s cn fun c => { c with fq := { c.fq with
    waiting := c.fq.waiting.filter fun e => !faultOfTeam k e
    pri := c.fq.pri.filter fun e => !faultOfTeam k e
    unresolved := c.fq.unresolved.filter fun e => !faultOfTeam k e.2 } }

/-- Discards a team with no image: its hall passes are unpinned, its engine operations dropped (R120, R224). -/
def discardTeam (s : State) (k : Nat) : State :=
  match getTeam s k with
  | some t =>
    let cn := ctxNum s k
    let s1 := t.groups.foldl (fun s g => unpinAll s cn g) s
    { dropTeamFaults s1 cn k with teams := tdel s1.teams k }
  | none => s

/-- The teams of an invocation. -/
def teamsOf (s : State) (ik : Nat) : List Nat := (s.teams.filter fun e => e.2.inv = ik).map (·.1)

/-- Discards every team of an invocation. -/
def discardTeams (s : State) (ik : Nat) : State := (teamsOf s ik).foldl discardTeam s

/-- Ends an invocation's work with a marked status (R93): every team, resident or saved, is discarded and none is placed
again; the invocation drains, once the Timetable's root is no longer being rebuilt (R390). The first mark stands. -/
def markInvocation (s : State) (ik status tidx cause own : Nat) : State :=
  modInv (discardTeams s ik) ik fun iv =>
    if iv.st = .placing ∨ iv.st = .running then
      { iv with st := if s.hub.rebuilding then iv.st else .draining, mark := some (iv.mark.getD (status, tidx, cause, own)), nextTeam := iv.teams, again := [] }
    else iv

/-- A1 of an INVOCATION error record (R417). -/
def invRecordA1 (iv : Invoc) (cause own : Nat) : Nat := iv.ctag.toNat % 2 ^ 32 + cause % 256 * 2 ^ 32 + own % 256 * 2 ^ 40

/-- Writes the INVOCATION error record of a status other than DONE (R88, R417). -/
def invRecord (s : State) (ik : Nat) (iv : Invoc) (status tidx cause own : Nat) : State :=
  errorRecord s iv.ctx 0x01 status (invNum ik) (if status = 6 ∨ status = 7 then tidx else 0) (invRecordA1 iv cause own) 0

/-- Counts a message as consumed (R238). -/
def countCon (s : State) (job : Nat) : State := { s with jobs := tmod s.jobs job fun j => { j with con := j.con + 1, dirty := true } }

/-- Counts the message of an invocation that ends, where it is a message handler (R238). -/
def countHandled (s : State) (iv : Invoc) : State :=
  match iv.kind with
  | .message m _ => countCon s m.job
  | _ => s

/-- Cancels one invocation of a killed context: FAULTED, with a KILLED record and no cell write (R93); a handler's message is consumed
(R238). -/
def cancelInvocation (s : State) (ik : Nat) : State :=
  match getInv s ik with
  | some iv =>
    if invLive iv then
      countHandled (invRecord (modInv s ik fun iv => { iv with st := .faulted, held := [], asked := [], refs := [] }) ik iv 8 0 0 0) iv
    else s
  | none => s

/-- A queue DISABLED: every record discarded, its storage released, its handles unbound (R79, R89). Its indices are 0 from then on (DESIGN
CHOICE, log entry 106). -/
def queueDisabled (q : Queue) : Queue := { q with st := .disabled, idx := [], handles := [] }

/-- Whether the mailbox command of a page names a context and is not complete. -/
def mbOpen (p : Page) (cn : Nat) : Bool := p.mbstat.getLsbD 8 && decide (bits p.mbcmd.toNat 16 16 = cn)

/-- Whether the mailbox command of a page names a context and runs: it is not held back (R60). -/
def mbRuns (p : Page) (cn : Nat) : Bool := mbOpen p cn && !(p.held.any fun h => decide (h.cmd.reg = .mbcmd))

/-- Whether a command that a function wrote for a context is not complete: a mailbox command, an INVCTL command, or a HALT that runs,
or one held back. No other command that names the context begins until then, KILL apart (R60, R206, R211, R398) (DEDUCED, log entry 34). -/
def ctxBusy (s : State) (cn : Nat) : Bool :=
  s.pages.any fun e =>
    mbRuns e.2 cn || decide ((e.2.dbgcmd.map (·.ctx)) = some cn) || (e.2.held.any fun h => decide (h.ctx = cn)) ||
      (match e.2.invcmd with
        | .invalidate c _ => decide (c = cn)
        | .migrate c _ => decide (c = cn)
        | .none => false)

/-- BUSY of the register that starts a command of a function; HSTAT is that of the context (R59, R206, R211, R398). -/
def regBusy (s : State) (fn cn : Nat) (r : CmdReg) : Bool :=
  let page (f : Page → Word) : Bool := ((tget s.pages fn).map fun p => (f p).getLsbD 8).getD false
  match r with
  | .mbcmd => page (·.mbstat)
  | .invctl => page (·.invstat)
  | .dbgctl => page (·.dbgstat)
  | .hctl => ((getCtx s cn).map fun c => c.heap.hstat.getLsbD 8).getD false

/-- Sets or clears that BUSY; CODE stays. -/
def putBusy (s : State) (fn cn : Nat) (r : CmdReg) (on : Bool) : State :=
  let w (x : Word) : Word := if on then x ||| 0x100 else x &&& 0xFF
  match r with
  | .mbcmd => modPage s fn fun p => { p with mbstat := w p.mbstat }
  | .invctl => modPage s fn fun p => { p with invstat := w p.invstat }
  | .dbgctl => modPage s fn fun p => { p with dbgstat := w p.dbgstat }
  | .hctl => modCtx s cn fun c => { c with heap := { c.heap with hstat := w c.heap.hstat } }

/-- Holds a command back until the one before it on its context is complete (R60); a write while BUSY is 1 is ignored (DEDUCED, log
entry 34). -/
def holdBack (s : State) (fn cn : Nat) (c : Command) : State :=
  if regBusy s fn cn c.reg then s
  else modPage (putBusy s fn cn c.reg true) fn fun p => { p with held := p.held ++ [{ ctx := cn, cmd := c }] }

/-- The commands held back on a context begin, in the order they were written, as the machine's next turns (R60) (DEDUCED, log
entry 34). -/
def freeHeld (s : State) (cn : Nat) : State :=
  s.pages.foldl (fun s e =>
    let l := e.2.held.filter fun h => decide (h.ctx = cn)
    let s1 := l.foldl (fun s h => putBusy s e.1 cn h.cmd.reg false) (modPage s e.1 fun p => { p with held := p.held.filter fun h => decide (h.ctx ≠ cn) })
    { s1 with agenda := l.map (fun h => .command e.1 cn h.cmd) ++ s1.agenda }) s

/-- What a kill makes of the commands on a page: a mailbox command completes with KILLED, a HALT with BAD-STATE. -/
def cutPage (cn : Nat) (p : Page) : Page :=
  let p1 := if mbOpen p cn then { p with mbstat := 0x0B, held := p.held.filter fun h => decide (h.cmd.reg ≠ .mbcmd) } else p
  if (p1.dbgcmd.map (·.ctx)) = some cn then { p1 with dbgcmd := none, dbgstat := 1 } else p1

/-- The commands a kill cuts short (R73, R400); the other ones held back meet the dying context. -/
def cutCommands (s : State) (cn : Nat) : State := freeHeld { s with pages := tmap s.pages fun _ p => cutPage cn p } cn

/-- The invocations of a context. -/
def invsOf (s : State) (cn : Nat) : List Nat := (s.invs.filter fun e => e.2.ctx = cn).map (·.1)

/-- CancelInvocations (R72). While the Timetable's root is being rebuilt no invocation changes state, so the sequence waits (R390). -/
def cancelAll (s : State) (cn : Nat) : State := if s.hub.rebuilding then s else (invsOf s cn).foldl cancelInvocation s

/-- Whether CancelInvocations of a context is still to come. -/
def cancelsDue (s : State) (cn : Nat) : Bool := s.invs.any fun e => decide (e.2.ctx = cn) && invLive e.2

/-- The kill sequence from StopPlacement to CancelInvocations (R72): every team is discarded before any invocation is
cancelled. What follows are the turns `closeJobs` and KILL_SEQUENCE_COMPLETE (DEDUCED, log entry 57). -/
def beginKill (s : State) (cn : Nat) : State :=
  match getCtx s cn with
  | none => s
  | some c =>
    if ctxGone c then s else
    let s1 := modCtx s cn fun c => { c with
      st := .killing, queues := tmap c.queues fun _ q => queueDisabled q, frames := [], broken := false
      fq := { c.fq with waiting := [], pri := [], unresolved := [] } }
    cutCommands (cancelAll ((invsOf s1 cn).foldl discardTeams s1) cn) cn

/-- CloseJobs and WriteKillRecord (R72, R73): the context's jobs end and the kill record is its last error record. -/
def closeJobs (s : State) (cn : Nat) : State :=
  match getCtx s cn with
  | none => s
  | some c =>
    if c.st ≠ .killing ∨ c.eq.closed ∨ cancelsDue s cn then s else
    let s1 := { s with jobs := s.jobs.filter fun e => e.2.ctx ≠ cn, waves := s.waves.filter fun e => (tget s.jobs e.1).all fun j => j.ctx ≠ cn }
    modCtx (errorRecord s1 cn 0x0E 0 0xFFFF 0 0 0) cn fun c => { c with eq := { c.eq with closed := true } }

/-! ### Traps (R372 to R379) -/

/-- Whether an agent of a team still waits in PARKED-FAULT on the frame of a slot (R379). -/
def frameStands (s : State) (k a slot : Nat) : Bool :=
  ((getThread s k a).map fun th => decide (th.run = .parkedFault) && decide (th.park = .frame slot)).getD false

/-- A handler invocation ends its handled team (R379): discarded, its invocation marked TEAM-FAULT. -/
def endHandled (s : State) (k a slot own : Nat) (cause : BitVec 8) : State :=
  match getTeam s k with
  | some t => if frameStands s k a slot then markInvocation s t.inv 6 t.tidx cause.toNat own else s
  | none => s

/-- Frees a frame slot of a context. -/
def freeFrame (s : State) (cn slot : Nat) : State := modCtx s cn fun c => { c with frames := tdel c.frames slot }

/-- EPC as a CSR instruction reads it: bits 63:57 are reserved and zero (R251). -/
def epcWord (pc : Word) : Word := BitVec.ofNat 64 (pc.toNat % 2 ^ 57)

/-- The wait a thread goes back to after a trap or fault: a control thread's own wait, which a trap or fault of its block sets
aside (DEDUCED, log entry 94). -/
def setAside (th : Thread) (blk : Option Word) : Option Run :=
  match th.run with
  | .parkedFault => th.aside
  | .waitBell _ | .waitToken _ | .waitMem _ | .waitQuiet _ _ => if blk.isSome then some th.run else none
  | _ => none

/-- The wait a thread stands in, or that is set aside while its group is in PARKED-FAULT for its block (DEDUCED, log entry 94). -/
def waitOf (th : Thread) : Run := if th.run = .parkedFault then th.aside.getD .parkedFault else th.run

/-- Enters PARKED-FAULT for a trap whose frame waits to be written (R120, R378). -/
def parkTrap (th : Thread) (seq : Nat) (cause : BitVec 8) (value epc : Word) (blk : Option Word) : Thread :=
  { th with run := .parkedFault, park := .trap seq, stalled := false, trapc := cause, trapv := value, epc := epc, inBlock := blk, aside := setAside th blk }

/-- Enters PARKED-FAULT for a recoverable fault (R120, R203). -/
def parkFault (th : Thread) (blk : Option Word) : Thread :=
  { th with run := .parkedFault, park := .entry, stalled := false, inBlock := blk, aside := setAside th blk }

/-- TAKING A TRAP: the one way a program or machine trap is taken by a group or sequencer (R120, R372, R377 to R379). The
agent enters PARKED-FAULT with TRAPC, TRAPV and EPC set, and its delivery (TRAP_FRAME_WRITE) follows. With no frame slots
configured the team ends with TEAM-FAULT at once. A handler never traps to a handler: its own trap ends the handled team
and the handler's invocation. Every trap takes an arbiter number (R145). `blk` is the VP's address for a trap taken in a block. -/
def takeTrap (s0 : State) (k a : Nat) (cause : BitVec 8) (value epc : Word) (blk : Option Word) : State :=
  let s := arbTick s0
  match getTeam s k, invOf s k, ctxOf s k with
  | some t, some iv, some c =>
    match iv.kind with
    | .handler hk ha slot hcause _ _ =>
      let s1 := freeFrame (endHandled s hk ha slot cause.toNat hcause) iv.ctx slot
      markInvocation s1 t.inv 6 t.tidx cause.toNat 0
    | _ =>
      if c.tfslots.toNat = 0 then markInvocation s t.inv 6 t.tidx cause.toNat 0
      else
        modThread s k a fun th => parkTrap th s.arb cause value epc blk
  | _, _, _ => s0

/-- Parks an agent for a recoverable fault and reports it (R120, R203). -/
def takeFault (s : State) (k a : Nat) (va : Word) (kind access elem : Nat) (blk : Option Word) : State :=
  match getTeam s k with
  | some t =>
    let s1 := modThread s k a fun th => parkFault th blk
    faultReport s1 (ctxNum s k)
      { who := .agent k a, va := va, seq := 0, tidx := t.tidx, inv := invNum t.inv, agentBits := agentBitsOf a, elem := elem,
        kind := kind, access := access }
  | none => s

/-! ### Accesses of a team's agents -/

/-- Where an access lands: global memory (with the VA its reference bit is kept under), a byte of a team's scratchpad
allocation, or the allocation of a gang member that has retired. -/
inductive Loc where
  | glob (pa va : Nat) (leaf : BitVec 64)
  | spad (team off : Nat)
  | gone (off : Nat)
deriving DecidableEq, Repr

/-- Result of resolving an address: a place, a fault or trap, or an uncontained machine error (R222). -/
inductive Res where
  | at (l : Loc)
  | bad (b : Bad)
  | lost
deriving DecidableEq, Repr

/-- Who resolves an address: the context, the team, the agent, and for a group its hall-pass table. -/
structure Asker where
  ctx : Nat
  team : Nat
  agent : Nat
  pins : Tbl (Nat × Nat)
  /-- it addresses global memory alone: the scratchpad window is not translated (R165, R357) (log entry 18) -/
  glob : Bool := false
deriving DecidableEq, Repr

/-- A device agent outside the cores that resolves an address for a context. -/
def hubAsker (cn : Nat) : Asker := { ctx := cn, team := 2 ^ 64, agent := 17, pins := [] }

/-- TRAPV of heap-raw-access (R226). -/
def heapValue (kind elem : Nat) : Word := BitVec.ofNat 64 (kind + 16 * elem)

/-- The team that is gang member `m` of a team's gang (R249). -/
def gangMember (iv : Invoc) (t : Team) (m : Nat) : Nat := teamKey t.inv (t.tidx / iv.gang * iv.gang + m)

/-- The scratchpad window (R249): member in bits 22:20, offset in bits 19:0 (DESIGN CHOICE, log entry 26). -/
def resolveWindow (s : State) (k a n : Nat) : Res :=
  match getTeam s k, invOf s k with
  | some t, some iv =>
    let m := bits a 20 3
    let off := bits a 0 20
    if off + n > iv.spad * 4096 ∨ m ≥ iv.gang then .bad (.trap 5 1)
    else
      let mk := gangMember iv t m
      if (getTeam s mk).isSome then .at (.spad mk off) else .at (.gone off)
  | _, _ => .bad (.trap 5 1)

/-- KIND and ACCESS of a failed translation (R203) (DEDUCED, log entry 72). -/
def pageBad (va : Word) (u : Use) (kind level : Nat) : Bad := .page va kind (useBits u + 16 * level)

/-- An access through a VA to the heap's or to ordinary pages; `heap` says what a heap page answers: a trap value (an access
that may not reach it) or nothing (a hall pass or a reference). D is set for a store that is now performed (R195). -/
def resolvePage (s : State) (q : Asker) (va : Word) (at' : Nat) (u : Use) (heap : BitVec 64 → Option Word) : State × Res :=
  let core := coreOf s q.team
  match ctxTranslate s core q.ctx at' u with
  | (s', none) => (s', .lost)
  | (s', some (.bad kind level)) => (s', .bad (pageBad va u kind level))
  | (s', some (.ok pa leaf _)) =>
    match heap leaf with
    | some v => (s', .bad (.trap 6 v))
    | none => (if u = .write ∨ u = .atomic then dirtyAt s' core q.ctx at' else s', .at (.glob pa at' leaf))

/-- A heap page outside a hall pass and a reference (R225). -/
def rawPage (elem : Nat) (leaf : BitVec 64) : Option Word := if leaf.getLsbD 6 then some (heapValue 0 elem) else none

/-- The bounds of a hall pass over `size` bytes of payload (R224): BOUNDS, or HEADER for a store to offsets 0 to 7. -/
def passBounds (off n size : Nat) (u : Use) (elem : Nat) : Option Word :=
  if off + n > 8 + size then some (heapValue 2 elem)
  else if off < 8 ∧ storing u then some (heapValue 3 elem)
  else none

/-- An address in the hall-pass aperture (R223, R224); a translation fault comes before BOUNDS and HEADER (R373). -/
def resolveHall (s : State) (q : Asker) (c : Ctx) (va : Word) (n : Nat) (u : Use) (elem : Nat) : State × Res :=
  let o := va.toNat - c.heap.hapva.toNat
  let off := o % 2 ^ 21
  if q.agent = 16 then (s, .bad (pageBad va u 0 5))
  else match tget q.pins (o / 2 ^ 21) with
  | none => (s, .bad (.trap 6 (heapValue 7 elem)))
  | some (hdr, size) => resolvePage s q va (hdr + off) u fun _ => passBounds off n size u elem

/-- Whether an address lies in the scratchpad window (R249). -/
def inWindow (a : Nat) : Bool := decide (a / 2 ^ 23 = 0x3FFFC0000)

/-- Whether an address lies in the hall-pass aperture of an enabled heap (R223). -/
def inAperture (c : Ctx) (a : Nat) : Bool :=
  c.heap.enabled && decide (c.heap.hapva.toNat ≤ a) && decide (a < c.heap.hapva.toNat + 2 ^ 25)

/-- Resolves an access of `n` bytes at a VA (R191, R202, R249, R223, R225), in the order of R373: misalignment, then
translation, then heap-raw-access and the bounds of the scratchpad window (DEDUCED, log entry 18; DEDUCED, log entry 72). -/
def resolve (s : State) (q : Asker) (va : Word) (n : Nat) (u : Use) (elem : Nat) : State × Res :=
  let a := va.toNat
  if a % n ≠ 0 then (s, .bad (.trap 4 va))
  else if 2 ^ 57 ≤ a then (s, .bad (pageBad va u 0 5))
  else if inWindow a then (s, if q.glob then .bad (pageBad va u 0 5) else resolveWindow s q.team a n)
  else match getCtx s q.ctx with
  | none => (s, .bad (pageBad va u 0 5))
  | some c => if inAperture c a then resolveHall s q c va n u elem else resolvePage s q va a u (rawPage elem)

/-- Whether a place holds poison (R374, R386). -/
def poisoned (s : State) (l : Loc) (n : Nat) : Bool :=
  match l with
  | .glob pa _ _ => s.poison.contains (pa / 64) || s.poison.contains ((pa + n - 1) / 64)
  | .spad k off => match getTeam s k with
    | some t => t.spadPoison.contains (off / 8) || t.spadPoison.contains ((off + n - 1) / 8)
    | none => false
  | .gone _ => false

/-- The bytes of a scratchpad allocation (R108: every byte starts zero). -/
def spadBytes (t : Team) (off : Nat) : Nat → List Byte
  | 0 => []
  | n + 1 => tgetD t.spad off 0 :: spadBytes t (off + 1) n

/-- Writes bytes of a scratchpad allocation. -/
def spadWrite (t : Team) (off : Nat) : List Byte → Team
  | [] => t
  | b :: r => spadWrite { t with spad := tputD t.spad off b 0 } (off + 1) r

/-- The number `n` bytes at a place hold. What a retired member's allocation reads as is open: a free value (DESIGN CHOICE, log entry 26). -/
def locRead (s : State) (l : Loc) (n : Nat) : Nat :=
  match l with
  | .glob pa _ _ => readNat s.mem pa n
  | .spad k off => match getTeam s k with
    | some t => bytesNat (spadBytes t off n)
    | none => (Config.freeWord s.draws (2 ^ 20)).toNat % 2 ^ (8 * n)
  | .gone off => (Config.freeWord s.draws off).toNat % 2 ^ (8 * n)

/-- Performs a store of `n` bytes at a place (DESIGN CHOICE, log entry 2; DESIGN CHOICE, log entry 26). -/
def locWrite (s : State) (q : Asker) (l : Loc) (n v : Nat) : State :=
  match l with
  | .glob pa va _ =>
    let s1 := snoopRange s pa n true
    clearRefsAt (clearRefs { s1 with mem := writeNat s1.mem pa n v } q.ctx va n) pa n
  | .spad k off => modTeam s k fun t =>
      let t1 := spadWrite t off (natBytes v n)
      if n = 8 then { t1 with spadPoison := t1.spadPoison.filter fun u => u ≠ off / 8 } else t1
  | .gone _ => s

/-- Reads at a place with the access's effect on transactions (DESIGN CHOICE, log entry 2). -/
def locLoad (s : State) (l : Loc) (n : Nat) : State × Nat :=
  match l with
  | .glob pa _ _ => let s1 := snoopRange s pa n false; (s1, locRead s1 l n)
  | _ => (s, locRead s l n)

/-! ### Completing an instruction -/

/-- Rotates the low 48 bits left by 3 (R391). -/
def rotL48 (x : Nat) : Nat := (x * 8) % 2 ^ 48 + x % 2 ^ 48 / 2 ^ 45

/-- SIGA after an instruction completes (R391): the two folds of a fault-free run cancel, so bits 63:48 stand. -/
def sigaNext (siga : Word) (w : IWord) (taken : Bool) : Word :=
  let low := if taken then 0 else (rotL48 (bits siga.toNat 0 48)) ^^^ w.toNat
  BitVec.ofNat 64 (siga.toNat / 2 ^ 48 * 2 ^ 48 + low)

/-- Whether a word belongs to a convoy: majors 0x11 to 0x1D (R111). -/
def isVectorWord (w : IWord) : Bool := decide (0x11 ≤ (fld w 26 6).toNat) && decide ((fld w 26 6).toNat ≤ 0x1D)

/-- Members of the convoy completed after a word (R111): a convoy has at most 8. -/
def convoyNext (n : Nat) (w : IWord) : Nat := if isVectorWord w then (if n ≥ 8 then 1 else n + 1) else 0

/-- A thread after an instruction of it completes and goes on at `pc`. -/
def threadNext (th : Thread) (pc : Word) (w : IWord) (la : Nat) (hid : List Hidden) : Thread :=
  { th with pc := pc, wins := advanceWindows th.wins la hid, run := .running, park := .none, rewatch := none, stalled := false, convoy := convoyNext th.convoy w }

/-- Whether a word is SIGCHK, which SIGA does not hash (R391). -/
def isSigchk (w : IWord) : Bool := decide (fld w 24 8 = 0xBC#8)

/-- A group after an instruction of its control thread completes (R201: RIDX becomes 0; R391). -/
def groupNext (g : Group) (pc : Word) (taken : Bool) (w : IWord) (la : Nat) (hid : List Hidden) : Group :=
  { g with th := threadNext g.th pc w la hid, ridx := 0, txn := g.txn.map fun x => { x with wins := tickWindows x.wins }, siga := if isSigchk w then g.siga else sigaNext g.siga w taken }

end Sys2Proof.Machine
end

