-- ==== Sys2Proof/Machine/Agent.lean ====
section
/-! DEFINITION. Running one instruction on the stream that acts: what an instruction's meaning works on, how it ends, and the one runner every encoded instruction goes through (legality by stream, R113 and R265; features, R65; transactions, R187; waits for a block, R116; traps and faults). -/
namespace Sys2Proof.Machine

/-- What the meaning of a group's instruction works on: the state, its team and group number, the group itself (which
stands for the one in the state), and in a block the VPs of the batch that issues. -/
structure Cx where
  s : State
  k : Nat
  i : Nat
  g : Group
  vps : Option (List Nat)
  kn : Kernel
  cn : Nat
  /-- a stream's access engine acts (R165, R168) -/
  stream : Bool := false
  /-- it reads an element that a waiting VSETVL needs, so it does not read it speculatively (R127) -/
  awaited : Bool := false
  /-- bits of memory a store has written so far, as first bit and number (R386) -/
  cover : List (Nat × Nat) := []
deriving DecidableEq, Repr

/-- How an instruction ends. -/
inductive Fate where
  /-- completed; the next word follows -/
  | done
  /-- completed with a taken transfer to an address -/
  | go (pc : Word)
  /-- not issued yet: it waits where it stands and is issued again -/
  | stay
  /-- issued and parked: the group waits in this state, and the instruction completes when the wait ends -/
  | park (r : Run)
  | trap (cause : BitVec 8) (value : Word)
  | page (va : Word) (kind access elem : Nat)
  /-- the transaction in progress aborts (R189) -/
  | abort (cause code : Nat)
  /-- an uncontained machine error (R222) -/
  | lost
  /-- the state already holds everything, program counters included -/
  | moved
deriving DecidableEq, Repr

/-- An outcome of a group's instruction. In a block, the VPs of `stuck` do not complete it, and of `hid` each VP's own window will hide
its own element, of `ew` bits. -/
structure Out where
  cx : Cx
  fate : Fate
  la : Nat := 0
  hid : List Hidden := []
  ew : Nat := 0
  stuck : List Nat := []
deriving DecidableEq, Repr

/-- What the meaning of a sequencer's instruction works on. -/
structure Sx where
  s : State
  k : Nat
  q : Seq
  kn : Kernel
  cn : Nat
deriving DecidableEq, Repr

structure SOut where
  sx : Sx
  fate : Fate
  la : Nat := 0
  hid : List Hidden := []
deriving DecidableEq, Repr

/-- What an instruction needs: a feature bit (R65), whether it is permitted in a transaction (R187), and whether it waits
for a block in progress (R116). -/
structure Rules where
  feat : Option Nat := none
  txn : Bool := false
  wait : Bool := false
deriving DecidableEq, Repr

/-- A VP of a group's block. -/
def vpOf (g : Group) (i : Nat) : Option Vp := g.block.bind fun b => tget b.vps i

/-- Applies a function to the VPs of a list. -/
def modVps (g : Group) (l : List Nat) (f : Nat → Vp → Vp) : Group :=
  { g with block := g.block.map fun b => { b with vps := tmap b.vps fun i v => if l.contains i then f i v else v } }

/-- The part of what a batch's instruction wrote that VP i wrote itself: its own element (R266). -/
def ownHidden (ew i : Nat) (e : Hidden) : Hidden := { e with mask := e.mask &&& ((2 ^ ew - 1) <<< (i * ew)) }

/-- A VP after an instruction of its path completes. -/
def vpNext (pc : Word) (la : Nat) (hid : List Hidden) (v : Vp) : Vp :=
  { v with pc := pc, wins := advanceWindows v.wins la hid }

/-- Ends a control thread's instruction. Inside a transaction a condition that would raise a trap or a recoverable fault
aborts it instead (R189). -/
def finishCtl (w : IWord) (o : Out) : State :=
  let cx := o.cx
  let g := cx.g
  let put (g : Group) : State := putGroup cx.s cx.k cx.i g
  match o.fate with
  | .done => put (groupNext g (g.th.pc + 4) false w o.la o.hid)
  | .go pc => put (groupNext g pc true w o.la o.hid)
  | .stay => put { g with th := { g.th with run := .running } }
  | .park r => put { g with th := { g.th with run := r, word := w } }
  | .trap c v => if g.txn.isSome then put (abortTxn g 5 0) else takeTrap (put g) cx.k cx.i c v g.th.pc none
  | .page va kind acc e => if g.txn.isSome then put (abortTxn g 5 0) else takeFault (put g) cx.k cx.i va kind acc e none
  | .abort c code => put (abortTxn g c code)
  | .lost => beginKill (put g) cx.cn
  | .moved => cx.s

/-- The group as the accesses of its own block left it: they are no accesses of its control thread's transaction, which they abort where
they conflict with it (R189) (DEDUCED, log entry 77). -/
def settleTxn (cx : Cx) : Cx :=
  match getGroup cx.s cx.k cx.i with
  | some g => if g.txn.isNone ∧ cx.g.txn.isSome then { cx with g := abortTxn cx.g 1 0 } else cx
  | none => cx

/-- Ends a batch's instruction in a block at `pc`: the VPs that are not stuck complete it; a trap or fault is that of the
group, at the address of the batch (R113), and aborts the transaction of its control thread instead (R189). -/
def finishBlk (pc : Word) (bs : List Nat) (o : Out) : State :=
  let cx := settleTxn o.cx
  let g := modVps cx.g (bs.filter fun i => !o.stuck.contains i) fun i v => vpNext (pc + 4) o.la (o.hid.map (ownHidden o.ew i)) v
  let put (g : Group) : State := putGroup cx.s cx.k cx.i g
  match o.fate with
  | .done => put g
  | .go t => put (modVps cx.g bs fun i v => vpNext t o.la (o.hid.map (ownHidden o.ew i)) v)
  | .stay => put cx.g
  | .park _ => put cx.g
  | .trap c v => if g.txn.isSome then put (abortTxn g 5 0) else takeTrap (put g) cx.k cx.i c v pc (some pc)
  | .page va kind acc e => if g.txn.isSome then put (abortTxn g 5 0) else takeFault (put g) cx.k cx.i va kind acc e (some pc)
  | .abort _ _ => put g
  | .lost => beginKill (put g) cx.cn
  | .moved => cx.s

/-- Ends a sequencer's instruction. -/
def finishSeq (w : IWord) (o : SOut) : State :=
  let sx := o.sx
  let q := sx.q
  let put (q : Seq) : State := putSeq sx.s sx.k q
  let next (pc : Word) : State := put { q with th := threadNext q.th pc w o.la o.hid }
  match o.fate with
  | .done => next (q.th.pc + 4)
  | .go pc => next pc
  | .stay => put { q with th := { q.th with run := .running } }
  | .park r => put { q with th := { q.th with run := r, word := w } }
  | .trap c v => takeTrap (put q) sx.k 16 c v q.th.pc none
  | .page va kind acc e => takeFault (put q) sx.k 16 va kind acc e none
  | .abort _ _ => put q
  | .lost => beginKill (put q) sx.cn
  | .moved => sx.s

/-- Whether a thread may issue: READY or RUNNING and not halted. -/
def threadIssues (th : Thread) : Bool := (decide (th.run = .ready) || decide (th.run = .running)) && !th.halted

/-- Whether a group's block may issue: the group is not parked for a fault or an emulation, halted or retired. -/
def blockIssues (th : Thread) : Bool :=
  !th.halted && (match th.run with | .parkedFault => false | .parkedEmul _ => false | .retired => false | _ => true)

/-- The VPs that issue with VP `v`: those in RUN at its program counter (R114). -/
def batchOf (b : Block) (v : Nat) : List Nat :=
  match tget b.vps v with
  | some vp => if vp.cond = .run then (b.vps.filter fun e => decide (e.2.cond = .run) && decide (e.2.pc = vp.pc)).map (·.1) else []
  | none => []

/-- Opens what a control thread's instruction works on. -/
def openCtl (s : State) (k i : Nat) : Option Cx :=
  match getTeam s k, invOf s k, getGroup s k i with
  | some t, some iv, some g =>
    if !t.saved ∧ threadIssues g.th then some { s := s, k := k, i := i, g := g, vps := none, kn := iv.kernel, cn := iv.ctx } else none
  | _, _, _ => none

/-- Opens what a batch's instruction works on. -/
def openBlk (s : State) (k i v : Nat) : Option (Cx × List Nat × Word) :=
  match getTeam s k, invOf s k, getGroup s k i with
  | some t, some iv, some g =>
    match g.block with
    | some b =>
      let bs := batchOf b v
      if !t.saved ∧ blockIssues g.th ∧ bs ≠ [] then
        some ({ s := s, k := k, i := i, g := g, vps := some bs, kn := iv.kernel, cn := iv.ctx }, bs, ((tget b.vps v).map (·.pc)).getD 0)
      else none
    | none => none
  | _, _, _ => none

/-- Opens what a sequencer's instruction works on. -/
def openSeq (s : State) (k : Nat) : Option Sx :=
  match getTeam s k, invOf s k, getSeq s k with
  | some t, some iv, some q =>
    if !t.saved ∧ threadIssues q.th then some { s := s, k := k, q := q, kn := iv.kernel, cn := iv.ctx } else none
  | _, _, _ => none

/-- An illegal-instruction trap (R261): TRAPV holds the word. -/
def illegal (cx : Cx) (w : IWord) : Out := { cx := cx, fate := .trap 1 (w.setWidth 64), stuck := (cx.vps).getD [] }

/-- An illegal-format trap (R301, R349). -/
def illegalFormat (cx : Cx) (w : IWord) : Out := { cx := cx, fate := .trap 2 (w.setWidth 64), stuck := (cx.vps).getD [] }

def illegalSeq (sx : Sx) (w : IWord) : SOut := { sx := sx, fate := .trap 1 (w.setWidth 64) }
def illegalFormatSeq (sx : Sx) (w : IWord) : SOut := { sx := sx, fate := .trap 2 (w.setWidth 64) }

/-- Whether the context of a stream holds the feature an instruction needs. -/
def featureOk (s : State) (cn : Nat) (r : Rules) : Bool :=
  match r.feat with
  | none => true
  | some b => ((getCtx s cn).map fun c => hasFeature c b).getD false

/-- A control thread's instruction up to its own meaning: disallowed in a transaction, illegal without its feature,
waiting for a block. -/
def guardCtl (r : Rules) (w : IWord) (f : Cx → Out) (cx : Cx) : Out :=
  if cx.g.txn.isSome ∧ !r.txn then { cx := cx, fate := .abort 8 0 }
  else if !featureOk cx.s cx.cn r then illegal cx w
  else if r.wait ∧ cx.g.block.isSome then { cx := cx, fate := .stay }
  else f cx

/-- A word of another stream met by a control thread: illegal (R113, R265), or in a transaction one of the instructions that abort
it with DISALLOWED (R187, R349). -/
def illegalCtl (cx : Cx) (w : IWord) : Out := if cx.g.txn.isSome then { cx := cx, fate := .abort 8 0 } else illegal cx w

/-- Runs an encoded instruction on the stream that acts: `fc` is its meaning in a control thread, `fb` in a block, `fq` in
the matrix stream; where one is absent the word is illegal in that stream (R113, R265). -/
def runInstr (r : Rules) (i : Instr) (fc fb : Option (Cx → Out)) (fq : Option (Sx → SOut)) (s : State) : Host.Outcome State Fault Refusal :=
  let w := encode i
  match s.cur with
  | none => .fault .noStream
  | some (.ctl k n) =>
    (match openCtl s k n with
      | none => .fault .noStream
      | some cx => .next (finishCtl w (match fc with | some f => guardCtl r w f cx | none => illegalCtl cx w)))
  | some (.blk k n v) =>
    (match openBlk s k n v with
      | none => .fault .noStream
      | some (cx, bs, pc) => .next (finishBlk pc bs (match fb with
          | some f => if featureOk s cx.cn r then f cx else illegal cx w
          | none => illegal cx w)))
  | some (.seq k) =>
    (match openSeq s k with
      | none => .fault .noStream
      | some sx => .next (finishSeq w (match fq with
          | some f => if featureOk s sx.cn r then f sx else illegalSeq sx w
          | none => illegalSeq sx w)))

/-- Runs an instruction legal in the control thread alone. -/
def runGroup (r : Rules) (i : Instr) (f : Cx → Out) (s : State) : Host.Outcome State Fault Refusal := runInstr r i (some f) none none s

/-- Runs an instruction legal in the control thread and in a block. -/
def runVector (r : Rules) (i : Instr) (f : Cx → Out) (s : State) : Host.Outcome State Fault Refusal := runInstr r i (some f) (some f) none s

/-- Runs an instruction legal in the control thread and in the matrix stream. -/
def runBoth (r : Rules) (i : Instr) (f : Cx → Out) (q : Sx → SOut) (s : State) : Host.Outcome State Fault Refusal :=
  runInstr r i (some f) none (some q) s

/-- Runs an instruction legal in the matrix stream alone. -/
def runSeq (i : Instr) (q : Sx → SOut) (s : State) : Host.Outcome State Fault Refusal := runInstr {} i none none (some q) s

/-- The asker of a group's accesses. -/
def asker (cx : Cx) : Asker := { ctx := cx.cn, team := cx.k, agent := cx.i, pins := cx.g.pins, glob := cx.stream }

/-- The asker of a sequencer's accesses. -/
def seqAsker (sx : Sx) : Asker := { ctx := sx.cn, team := sx.k, agent := 16, pins := [] }

/-- Completes. -/
def ok (cx : Cx) : Out := { cx := cx, fate := .done }

def okSeq (sx : Sx) : SOut := { sx := sx, fate := .done }

/-- Replaces the control thread. -/
def withTh (cx : Cx) (th : Thread) : Cx := { cx with g := { cx.g with th := th } }

def withSeqTh (sx : Sx) (th : Thread) : Sx := { sx with q := { sx.q with th := th } }

/-- An s register as an instruction reads it: in a block, the snapshot of VF (R112, R303). -/
def readS (cx : Cx) (n : Nat) : Word :=
  match cx.vps with
  | none => readX cx.g.th n
  | some _ => if n = 0 then 0 else ((cx.g.block.map fun b => tgetD b.snap n 0)).getD 0

/-- Completes with s(d) := v, with lookahead `la`. -/
def okWrite (cx : Cx) (d : Nat) (v : Word) (la : Nat) : Out :=
  let r := writeXla cx.g.th d v la
  { cx := withTh cx r.1, fate := .done, la := la, hid := r.2 }

/-- Completes with k(d) := v, with lookahead `la`. -/
def okWriteSeq (sx : Sx) (d : Nat) (v : Word) (la : Nat) : SOut :=
  let r := writeXla sx.q.th d v la
  { sx := withSeqTh sx r.1, fate := .done, la := la, hid := r.2 }

/-- How a failed resolution ends an instruction; `e` is the element. -/
def badFate (b : Bad) (e : Nat) : Fate :=
  match b with
  | .page va kind acc => .page va kind acc e
  | .trap c v => .trap c v

end Sys2Proof.Machine
end

