-- ==== Sys2Proof/Machine/Flags.lean ====
section
/-! DEFINITION. The arithmetic of the number formats (R31 to R58): decoding and rounding, IEEE 754 operations with their flags, narrowing, block scaling, the sums of the matrix units, and integer operations. Exact values are dyadic numbers; each result is rounded once. -/
namespace Sys2Proof.Machine

/-! ### Formats (R31, R34) -/

/-- Exponent bits, mantissa bits and bias of a floating-point format code. -/
def fpE : Nat → Nat | 0 => 8 | 1 => 5 | 2 => 8 | 3 => 4 | 4 => 5 | 5 => 3 | 6 => 2 | _ => 2
def fpM : Nat → Nat | 0 => 23 | 1 => 10 | 2 => 7 | 3 => 3 | 4 => 2 | 5 => 2 | 6 => 3 | _ => 1
def fpBias : Nat → Nat | 0 => 127 | 1 => 15 | 2 => 127 | 3 => 7 | 4 => 15 | 5 => 3 | 6 => 1 | _ => 1
/-- FP32, FP16, BF16 and E5M2 have infinities. -/
def fpHasInf (f : Nat) : Bool := f ≤ 2 || f == 4
/-- FP32, FP16, BF16, E4M3 and E5M2 have NaNs. -/
def fpHasNaN (f : Nat) : Bool := f ≤ 4
/-- The canonical NaN (R35). -/
def canonNaN : Nat → Nat | 0 => 0x7FC00000 | 1 => 0x7E00 | 2 => 0x7FC0 | 3 => 0x7F | 4 => 0x7E | _ => 0
/-- Width of a floating-point format. -/
def fpWidth (f : Nat) : Nat := 1 + fpE f + fpM f
/-- The code of the largest finite magnitude (R34). -/
def maxFiniteCode : Nat → Nat | 0 => 0x7F7FFFFF | 1 => 0x7BFF | 2 => 0x7F7F | 3 => 0x7E | 4 => 0x7B | 5 => 0x1F | 6 => 0x1F | _ => 7
/-- The code of +infinity, in the formats that have one. -/
def infCode (f : Nat) : Nat := (2 ^ fpE f - 1) * 2 ^ fpM f
/-- A magnitude code with a sign. -/
def withSign (f : Nat) (neg : Bool) (c : Nat) : Nat := if neg then c + 2 ^ (fpE f + fpM f) else c

/-- An exact value: NaN (signalling or not), an infinity, or (-1)^neg * m * 2^e. -/
inductive FV where
  | nan (signalling : Bool)
  | inf (neg : Bool)
  | num (neg : Bool) (m : Nat) (e : Int)
deriving DecidableEq, Repr

/-- FCSR flag bits at their places in FCSR (R36): NV, DZ, OF, UF, NX. -/
def flNV : Nat := 128
def flDZ : Nat := 64
def flOF : Nat := 32
def flUF : Nat := 16
def flNX : Nat := 8

/-- The value of a code (R34). -/
def decodeF (f c : Nat) : FV :=
  let mb := fpM f
  let neg := bit c (fpE f + mb)
  let ex := bits c mb (fpE f)
  let man := c % 2 ^ mb
  let top := 2 ^ fpE f - 1
  if ex = top ∧ f = 3 ∧ man = 7 then .nan false
  else if ex = top ∧ fpHasInf f then
    if man = 0 then .inf neg else .nan (decide (f ≤ 2) && !bit man (mb - 1))
  else if ex = 0 then .num neg man (1 - Int.ofNat (fpBias f) - Int.ofNat mb)
  else .num neg (man + 2 ^ mb) (Int.ofNat ex - Int.ofNat (fpBias f) - Int.ofNat mb)

/-- FTZ on an operand (R38): a subnormal reads as zero of its sign. -/
def flushIn (f : Nat) (ftz : Bool) (v : FV) : FV :=
  match v with
  | .num neg m e => if ftz ∧ m < 2 ^ fpM f then .num neg 0 e else v
  | _ => v

/-- Floor of the base-2 logarithm of a positive number of the form m * 2^e. -/
def floorLog2 (m : Nat) (e : Int) : Int := Int.ofNat (Nat.log2 m) + e

/-- Rounds m * 2^e to a whole multiple of 2^q in a mode (0 RNE, 1 RTZ, 2 RDN, 3 RUP): the multiple, and whether it is
exact. -/
def roundAt (neg : Bool) (m : Nat) (e q : Int) (mode : Nat) : Nat × Bool :=
  if q ≤ e then (m * 2 ^ (e - q).toNat, true)
  else
    let d := 2 ^ (q - e).toNat
    let n := m / d
    let r := m % d
    let up := if mode = 0 then decide (2 * r > d) || (decide (2 * r = d) && decide (n % 2 = 1))
      else if mode = 1 then false else if mode = 2 then decide (r ≠ 0) && neg else decide (r ≠ 0) && !neg
    (if up then n + 1 else n, decide (r = 0))

/-- The code of the magnitude n * 2^q, which the format holds exactly. -/
def encodeMag (f n : Nat) (q : Int) : Nat :=
  if n = 0 then 0
  else
    let l := floorLog2 n q
    let emin : Int := 1 - Int.ofNat (fpBias f)
    if l < emin then n * 2 ^ (q - (emin - Int.ofNat (fpM f))).toNat
    else
      let man := if Nat.log2 n ≤ fpM f then n * 2 ^ (fpM f - Nat.log2 n) else n / 2 ^ (Nat.log2 n - fpM f)
      (l + Int.ofNat (fpBias f)).toNat * 2 ^ fpM f + (man - 2 ^ fpM f)

/-- Whether n * 2^q exceeds the largest finite magnitude of a format. -/
def exceedsMax (f n : Nat) (q : Int) : Bool :=
  match decodeF f (maxFiniteCode f) with
  | .num _ m e => if q ≥ e then decide (n * 2 ^ (q - e).toNat > m) else decide (n > m * 2 ^ (e - q).toNat)
  | _ => false

/-- OverflowIEEE (R40): infinity or the largest finite value, by mode and sign. -/
def overflowIEEE (f : Nat) (neg : Bool) (mode : Nat) : Nat :=
  withSign f neg (if mode = 1 ∨ (mode = 2 ∧ !neg) ∨ (mode = 3 ∧ neg) then maxFiniteCode f else infCode f)

/-- Narrow (R40) of a value to a format: the code and the flags. A signalling NaN adds NV (R35). -/
def narrow (x : FV) (f mode : Nat) (sat : Bool) : Nat × Nat :=
  match x with
  | .nan s =>
    let nv := if s then flNV else 0
    if fpHasNaN f then (canonNaN f, nv) else (0, flNV)
  | .inf neg =>
    if fpHasInf f ∧ !sat then (withSign f neg (infCode f), 0)
    else if !fpHasInf f ∧ fpHasNaN f ∧ !sat then (canonNaN f, flOF)
    else (withSign f neg (maxFiniteCode f), flOF)
  | .num neg m e =>
    if m = 0 then (withSign f neg 0, 0)
    else
      let l := floorLog2 m e
      let emin : Int := 1 - Int.ofNat (fpBias f)
      let q := (if l < emin then emin else l) - Int.ofNat (fpM f)
      let (n, exact) := roundAt neg m e q mode
      if exceedsMax f n q then
        let fl := flOF + flNX
        if sat ∨ (!fpHasInf f ∧ !fpHasNaN f) then (withSign f neg (maxFiniteCode f), fl)
        else if fpHasInf f then (overflowIEEE f neg mode, fl)
        else (canonNaN f, fl)
      else
        let qu := l - Int.ofNat (fpM f)
        let (nu, _) := roundAt neg m e qu mode
        let tiny := decide (nu = 0) || decide (floorLog2 nu qu < emin)
        (withSign f neg (encodeMag f n q), if exact then 0 else if tiny then flNX + flUF else flNX)

/-- Rounds the exact result of an FP32, FP16 or BF16 operation (R37) and applies FTZ to it (R38). -/
def finishF (f mode : Nat) (ftz : Bool) (x : FV) (fl : Nat) : Nat × Nat :=
  let (c, fl') := narrow x f mode false
  let mag := c % 2 ^ (fpE f + fpM f)
  if ftz ∧ mag ≠ 0 ∧ mag < 2 ^ fpM f then (c - mag, fl ||| fl' ||| flUF ||| flNX) else (c, fl ||| fl')

/-! ### Exact operations (R37) -/

/-- NV when a signalling NaN is consumed (R35). -/
def snanFlag : FV → Nat
  | .nan true => flNV
  | _ => 0

def isNaN : FV → Bool
  | .nan _ => true
  | _ => false

def isZeroV : FV → Bool
  | .num _ 0 _ => true
  | _ => false

def signOf : FV → Bool
  | .nan _ => false
  | .inf n => n
  | .num n _ _ => n

/-- The signed mantissa at exponent `e0`, at most the number's own. -/
def mantAt (neg : Bool) (m : Nat) (e e0 : Int) : Int :=
  let v := Int.ofNat (m * 2 ^ (e - e0).toNat)
  if neg then -v else v

/-- An exact number from a signed mantissa. -/
def ofMant (v : Int) (e : Int) (zeroNeg : Bool) : FV := if v = 0 then .num zeroNeg 0 e else .num (decide (v < 0)) v.natAbs e

/-- Exact sum with the zero signs of IEEE 754 (R37). -/
def addF (mode : Nat) (x y : FV) : FV × Nat :=
  match x, y with
  | .nan s, .nan t => (.nan false, if s || t then flNV else 0)
  | .nan s, _ => (.nan false, if s then flNV else 0)
  | _, .nan s => (.nan false, if s then flNV else 0)
  | .inf a, .inf b => if a = b then (.inf a, 0) else (.nan false, flNV)
  | .inf a, _ => (.inf a, 0)
  | _, .inf b => (.inf b, 0)
  | .num a m e, .num b n d =>
    if m = 0 ∧ n = 0 then (.num (if a = b then a else decide (mode = 2)) 0 0, 0)
    else
      let e0 := if e ≤ d then e else d
      (ofMant (mantAt a m e e0 + mantAt b n d e0) e0 (decide (mode = 2)), 0)

def negF : FV → FV
  | .nan s => .nan s
  | .inf a => .inf !a
  | .num a m e => .num (!a) m e

/-- Exact product. -/
def mulF (x y : FV) : FV × Nat :=
  match x, y with
  | .nan s, .nan t => (.nan false, if s || t then flNV else 0)
  | .nan s, _ => (.nan false, if s then flNV else 0)
  | _, .nan s => (.nan false, if s then flNV else 0)
  | .inf a, .inf b => (.inf (a != b), 0)
  | .inf a, .num b m _ => if m = 0 then (.nan false, flNV) else (.inf (a != b), 0)
  | .num a m _, .inf b => if m = 0 then (.nan false, flNV) else (.inf (a != b), 0)
  | .num a m e, .num b n d => (.num (a != b) (m * n) (e + d), 0)

/-- Exact fused multiply-add; an infinity times a zero is invalid whatever the addend (R37). -/
def fmaF (mode : Nat) (x y z : FV) : FV × Nat :=
  let (p, f1) := mulF x y
  let (r, f2) := addF mode p z
  (r, f1 ||| f2)

/-- A quotient of positive numbers, exact or with its last bit sticky: enough bits for one rounding. -/
def divMag (m n : Nat) : Nat × Int :=
  let k := 80 + Nat.log2 n
  let q := m * 2 ^ k / n
  (2 * q + (if m * 2 ^ k % n = 0 then 0 else 1), -1 - Int.ofNat k)

/-- Quotient (R37): DZ for a finite non-zero over zero. -/
def divF (x y : FV) : FV × Nat :=
  match x, y with
  | .nan s, .nan t => (.nan false, if s || t then flNV else 0)
  | .nan s, _ => (.nan false, if s then flNV else 0)
  | _, .nan s => (.nan false, if s then flNV else 0)
  | .inf _, .inf _ => (.nan false, flNV)
  | .inf a, .num b _ _ => (.inf (a != b), 0)
  | .num a _ _, .inf b => (.num (a != b) 0 0, 0)
  | .num a m e, .num b n d =>
    if n = 0 then (if m = 0 then (.nan false, flNV) else (.inf (a != b), flDZ))
    else
      let (q, k) := divMag m n
      (.num (a != b) q (e - d + k), 0)

/-- Integer square root, `n` bits of it, from the highest. -/
def isqrt (x : Nat) : Nat → Nat → Nat
  | 0, r => r
  | n + 1, r => let c := r + 2 ^ n; isqrt x n (if c * c ≤ x then c else r)

/-- Square root of m * 2^e, m positive: exact or with its last bit sticky. -/
def sqrtMag (m : Nat) (e : Int) : Nat × Int :=
  let sh : Nat := if e % 2 = 0 then 80 else 81
  let x := m * 2 ^ sh
  let r := isqrt x (Nat.log2 x / 2 + 1) 0
  (2 * r + (if r * r = x then 0 else 1), (e - Int.ofNat sh) / 2 - 1)

def sqrtF (x : FV) : FV × Nat :=
  match x with
  | .nan s => (.nan false, if s then flNV else 0)
  | .inf neg => if neg then (.nan false, flNV) else (.inf false, 0)
  | .num neg m e =>
    if m = 0 then (.num neg 0 e, 0)
    else if neg then (.nan false, flNV)
    else let (r, k) := sqrtMag m e; (.num false r k, 0)

/-- 1 / sqrt x (R311). The root of m * 2^e carries 80 bits and more; the quotient is made of the exact square: 1/sqrt x =
sqrt (1/x), with the sticky bit of the root of the sticky quotient. -/
def rsqF (x : FV) : FV × Nat :=
  match x with
  | .nan s => (.nan false, if s then flNV else 0)
  | .inf neg => if neg then (.nan false, flNV) else (.num false 0 0, 0)
  | .num neg m e =>
    if m = 0 then (.inf neg, flDZ)
    else if neg then (.nan false, flNV)
    else
      let k := 200 + Nat.log2 m
      let k := if (e + Int.ofNat k) % 2 = 0 then k else k + 1
      let y := 2 ^ k / m
      let r := isqrt y (Nat.log2 y / 2 + 1) 0
      (.num false (2 * r + (if r * r = y ∧ 2 ^ k % m = 0 then 0 else 1)) ((-e - Int.ofNat k) / 2 - 1), 0)

/-! ### The transcendental functions of R311, in fixed point with `tP` bits below the point -/

/-- Bits below the point. -/
def tP : Nat := 512

/-- The sum of t^n / n! from n on, `fuel` terms. -/
def expSeries (t : Nat) : Nat → Nat → Nat → Nat
  | 0, _, _ => 0
  | fuel + 1, n, term => term + expSeries t fuel (n + 1) (term * t / 2 ^ tP / (n + 1))

/-- The sum of 1 / (k 2^k) from k on: ln 2. -/
def ln2Series : Nat → Nat → Nat
  | 0, _ => 0
  | fuel + 1, k => 2 ^ (tP + 16) / (k * 2 ^ k) + ln2Series fuel (k + 1)

def ln2Fix : Nat := ln2Series 540 1 / 2 ^ 16

/-- arctan (1/x): the alternating series, `pw` the power of 1/x. -/
def arctanInv (x : Nat) : Nat → Nat → Nat → Int
  | 0, _, _ => 0
  | fuel + 1, k, pw => (if k % 2 = 0 then Int.ofNat (pw / (2 * k + 1)) else -Int.ofNat (pw / (2 * k + 1))) + arctanInv x fuel (k + 1) (pw / (x * x))

/-- pi in fixed point, by Machin's sum. -/
def piFix : Nat :=
  ((16 * arctanInv 5 260 0 (2 ^ (tP + 16) / 5) - 4 * arctanInv 239 80 0 (2 ^ (tP + 16) / 239)).toNat) / 2 ^ 16

/-- The sine or cosine series of an angle below pi/2, from the term of degree n. -/
def trigSeries (t2 : Nat) : Nat → Nat → Nat → Bool → Int
  | 0, _, _, _ => 0
  | fuel + 1, n, term, minus =>
    (if minus then -Int.ofNat term else Int.ofNat term) + trigSeries t2 fuel (n + 2) (term * t2 / 2 ^ tP / ((n + 1) * (n + 2))) (!minus)

/-- sin (pi y) for y = f / 2^tP between 0 and 1/2. -/
def sinPi (f : Nat) : Nat :=
  let t := piFix * f / 2 ^ tP
  (trigSeries (t * t / 2 ^ tP) 130 1 t false).toNat

/-- cos (pi y) for y = f / 2^tP between 0 and 1/2. -/
def cosPi (f : Nat) : Nat :=
  let t := piFix * f / 2 ^ tP
  (trigSeries (t * t / 2 ^ tP) 130 0 (2 ^ tP) false).toNat

/-- An irrational magnitude known to tP bits: the last bit is sticky. -/
def irrational (neg : Bool) (v : Nat) : FV := .num neg (2 * v + 1) (-1 - Int.ofNat tP)

/-- 2^x (R311). Beyond |x| of 2^10 every format over- or underflows, which one rounding of a far value shows. -/
def exp2F (x : FV) : FV × Nat :=
  match x with
  | .nan s => (.nan false, if s then flNV else 0)
  | .inf neg => (if neg then .num false 0 0 else .inf false, 0)
  | .num neg m e =>
    if m = 0 then (.num false 1 0, 0)
    else if floorLog2 m e ≥ 10 then (.num false 3 (if neg then -1000 else 1000), 0)
    else
      let fx := mantAt neg m (e + Int.ofNat tP) 0
      let i := fx / Int.ofNat (2 ^ tP)
      let f := (fx % Int.ofNat (2 ^ tP)).toNat
      if f = 0 then (.num false 1 i, 0)
      else
        match irrational false (expSeries (f * ln2Fix / 2 ^ tP) 160 0 (2 ^ tP)) with
        | .num _ m' e' => (.num false m' (e' + i), 0)
        | v => (v, 0)

/-- Bits of log2 of a number in [1, 2), by repeated squaring. -/
def log2Bits : Nat → Nat → Nat → Nat
  | 0, _, acc => acc
  | n + 1, y, acc =>
    let y2 := y * y / 2 ^ tP
    if y2 ≥ 2 ^ (tP + 1) then log2Bits n (y2 / 2) (2 * acc + 1) else log2Bits n y2 (2 * acc)

/-- log2 x (R311). -/
def log2F (x : FV) : FV × Nat :=
  match x with
  | .nan s => (.nan false, if s then flNV else 0)
  | .inf neg => if neg then (.nan false, flNV) else (.inf false, 0)
  | .num neg m e =>
    if m = 0 then (.inf true, flDZ)
    else if neg then (.nan false, flNV)
    else
      let l := Nat.log2 m
      let i := Int.ofNat l + e
      if m = 2 ^ l then (ofMant i 0 false, 0)
      else
        let v := i * Int.ofNat (2 ^ 256) + Int.ofNat (log2Bits 256 (m * 2 ^ tP / 2 ^ l) 0)
        if v < 0 then (.num true (2 * v.natAbs - 1) (-257), 0) else (.num false (2 * v.natAbs + 1) (-257), 0)

/-- sin (pi x), or cos (pi x), of a finite x (R311): reduced exactly modulo 2, then by quadrant. -/
def trigF (cosine : Bool) (x : FV) : FV × Nat :=
  match x with
  | .nan s => (.nan false, if s then flNV else 0)
  | .inf _ => (.nan false, flNV)
  | .num neg m e =>
    let one := 2 ^ tP
    let r := if e + Int.ofNat tP ≥ 0 then (m * 2 ^ (e + Int.ofNat tP).toNat) % (2 * one) else 0
    let q := r / (one / 2)
    let f := r % (one / 2)
    if cosine then
      if f = 0 then (if q = 1 ∨ q = 3 then .num false 0 0 else .num (decide (q = 2)) 1 0, 0)
      else (irrational (decide (q = 1) || decide (q = 2)) (if q % 2 = 0 then (if 4 * f < one then cosPi f else sinPi (one / 2 - f)) else
        (if 4 * f < one then sinPi f else cosPi (one / 2 - f))), 0)
    else
      if f = 0 then (if q = 1 ∨ q = 3 then .num (neg != decide (q = 3)) 1 0 else .num neg 0 0, 0)
      else (irrational (neg != decide (q ≥ 2)) (if q % 2 = 0 then (if 4 * f < one then sinPi f else cosPi (one / 2 - f)) else
        (if 4 * f < one then cosPi f else sinPi (one / 2 - f))), 0)

/-! ### Operations on codes, with FCSR (R36 to R39) -/

def fcsrRM (fcsr : Word) : Nat := bits fcsr.toNat 0 3
def fcsrFTZ (fcsr : Word) : Bool := fcsr.getLsbD 8

/-- An operand of an arithmetic instruction (R38). -/
def operand (f : Nat) (fcsr : Word) (c : Nat) : FV := flushIn f (fcsrFTZ fcsr) (decodeF f (c % 2 ^ fpWidth f))

def fadd (f : Nat) (fcsr : Word) (a b : Nat) : Nat × Nat :=
  let r := addF (fcsrRM fcsr) (operand f fcsr a) (operand f fcsr b)
  finishF f (fcsrRM fcsr) (fcsrFTZ fcsr) r.1 r.2

def fsub (f : Nat) (fcsr : Word) (a b : Nat) : Nat × Nat :=
  let r := addF (fcsrRM fcsr) (operand f fcsr a) (negF (operand f fcsr b))
  finishF f (fcsrRM fcsr) (fcsrFTZ fcsr) r.1 r.2

def fmul (f : Nat) (fcsr : Word) (a b : Nat) : Nat × Nat :=
  let r := mulF (operand f fcsr a) (operand f fcsr b)
  finishF f (fcsrRM fcsr) (fcsrFTZ fcsr) r.1 r.2

def ffma (f : Nat) (fcsr : Word) (a b c : Nat) : Nat × Nat :=
  let r := fmaF (fcsrRM fcsr) (operand f fcsr a) (operand f fcsr b) (operand f fcsr c)
  finishF f (fcsrRM fcsr) (fcsrFTZ fcsr) r.1 r.2

def fdiv (f : Nat) (fcsr : Word) (a b : Nat) : Nat × Nat :=
  let r := divF (operand f fcsr a) (operand f fcsr b)
  finishF f (fcsrRM fcsr) (fcsrFTZ fcsr) r.1 r.2

/-- A one-operand function of R311. -/
def funary (g : FV → FV × Nat) (f : Nat) (fcsr : Word) (a : Nat) : Nat × Nat :=
  let r := g (operand f fcsr a)
  finishF f (fcsrRM fcsr) (fcsrFTZ fcsr) r.1 r.2

/-- Reciprocal (R311). -/
def rcpF (x : FV) : FV × Nat := divF (.num false 1 0) x

/-- A key that orders non-NaN codes, -0 below +0 (R39). -/
def orderKey (f c : Nat) : Int :=
  let mag := c % 2 ^ (fpE f + fpM f)
  if bit c (fpE f + fpM f) then -1 - Int.ofNat mag else Int.ofNat mag

/-- Minimum or maximum (R39): the codes stand bit for bit, FTZ does not apply. -/
def fminmax (maximum : Bool) (f a b : Nat) : Nat × Nat :=
  let a := a % 2 ^ fpWidth f
  let b := b % 2 ^ fpWidth f
  let x := decodeF f a
  let y := decodeF f b
  let fl := snanFlag x ||| snanFlag y
  if isNaN x ∧ isNaN y then (canonNaN f, fl)
  else if isNaN x then (b, fl)
  else if isNaN y then (a, fl)
  else (if (orderKey f a < orderKey f b) = maximum then b else a, fl)

/-- Compares exact numbers: the sign of x - y, infinities included; `none` when either is a NaN. -/
def compareF (x y : FV) : Option Int :=
  match x, y with
  | .nan _, _ => none
  | _, .nan _ => none
  | .inf a, .inf b => some (if a = b then 0 else if a then -1 else 1)
  | .inf a, _ => some (if a then -1 else 1)
  | _, .inf b => some (if b then 1 else -1)
  | .num a m e, .num b n d =>
    let e0 := if e ≤ d then e else d
    some (mantAt a m e e0 - mantAt b n d e0)

/-- Float to integer (R40, R289): `lo` and `hi` bound the target. -/
def toInteger (x : FV) (mode : Nat) (lo hi : Int) : Int × Nat :=
  match x with
  | .nan _ => (0, flNV)
  | .inf neg => (if neg then lo else hi, flNV)
  | .num neg m e =>
    let (n, exact) := roundAt neg m e 0 mode
    let t : Int := if neg then -Int.ofNat n else Int.ofNat n
    if t < lo then (lo, flNV) else if t > hi then (hi, flNV) else (t, if exact then 0 else flNX)

/-- Bounds of an integer target of `w` bits. -/
def intLo (w : Nat) (uns : Bool) : Int := if uns then 0 else -Int.ofNat (2 ^ (w - 1))
def intHi (w : Nat) (uns : Bool) : Int := if uns then Int.ofNat (2 ^ w) - 1 else Int.ofNat (2 ^ (w - 1)) - 1

/-- An integer as an exact number. -/
def ofInteger (i : Int) : FV := ofMant i 0 false

/-- The integer value of the low `w` bits. -/
def intValue (w : Nat) (uns : Bool) (x : Nat) : Int := if uns then Int.ofNat (x % 2 ^ w) else signed w x

/-! ### Block scaling (R41 to R43) -/

/-- Multiplies an exact value by a power of two. -/
def scaleF (k : Int) : FV → FV
  | .num n m e => .num n m (e + k)
  | v => v

/-- BlockValue (R42). -/
def blockValue (c hdr f : Nat) (xve : Bool) : FV :=
  if hdr % 256 = 0xFF then .nan false
  else
    let v := if xve ∧ f = 7 ∧ c = 8 then decodeF 3 (hdr / 256 % 256) else decodeF f c
    scaleF (Int.ofNat (hdr % 256) - 127) v

/-- Block size of a code (R41). -/
def blockSize : Nat → Nat | 1 => 16 | 2 => 32 | 3 => 64 | _ => 1

/-- EmaxOf (R43). -/
def emaxOf : Nat → Int | 3 => 8 | 4 => 15 | 5 => 4 | 6 => 2 | _ => 2

/-- The magnitude of a finite value. -/
def magF : FV → FV
  | .num _ m e => .num false m e
  | .inf _ => .inf false
  | v => v

/-- The larger magnitude so far (R43). -/
def maxMag (a x : FV) : FV :=
  match compareF (magF x) a with
  | some d => if d > 0 then magF x else a
  | none => a

/-- |x - y| of finite values. -/
def distF (x y : FV) : FV := magF (addF 0 x (negF y)).1

/-- The block's scale exponent field (R43). -/
def quantSE (amax : FV) (f : Nat) : Nat :=
  match amax with
  | .num _ m e => if m = 0 then 0 else
      let s := floorLog2 m e - emaxOf f + 127
      if s < 0 then 0 else if s > 254 then 254 else s.toNat
  | _ => 0

/-- The code of one element (R43). -/
def quantElem (x : FV) (se xv f : Nat) (xve : Bool) (mode : Nat) (sat : Bool) : Nat × Nat :=
  let y := scaleF (127 - Int.ofNat se) x
  let (q, fl) := narrow y f mode sat
  if xve ∧ f = 7 then
    match compareF (distF y (decodeF 3 xv)) (distF y (decodeF f q)) with
    | some d => (if d < 0 then 8 else q, fl)
    | none => (q, fl)
  else (q, fl)

/-- QuantBlock (R43) of the active elements of a block: header, codes, flags. -/
def quantBlock (xs : List FV) (f : Nat) (xve : Bool) (mode : Nat) (sat : Bool) : Nat × List Nat × Nat :=
  if xs.any fun x => match x with | .num .. => false | _ => true then (0x00FF, xs.map fun _ => 0, 0)
  else
    let amax := xs.foldl maxMag (.num false 0 0)
    let se := quantSE amax f
    let xv := if xve ∧ f = 7 then
        match xs.find? fun x => compareF (magF x) amax = some 0 with
        | some x => narrow (scaleF (127 - Int.ofNat se) x) 3 0 true
        | none => (0, 0)
      else (0, 0)
    let rs := xs.map fun x => quantElem x se xv.1 f xve mode sat
    (xv.1 * 256 + se, rs.map (·.1), rs.foldl (fun a r => a ||| r.2) xv.2)

/-! ### Matrix accumulation (R49 to R57) -/

def fwAF (w : BitVec 32) : Nat := bits w.toNat 0 4
def fwBF (w : BitVec 32) : Nat := bits w.toNat 4 4
def fwCF (w : BitVec 32) : Nat := bits w.toNat 8 4
def fwBLK (w : BitVec 32) : Nat := bits w.toNat 12 3
def fwXVE (w : BitVec 32) : Bool := w.getLsbD 15
def fwPINT (w : BitVec 32) : Nat := bits w.toNat 16 2
def fwORND (w : BitVec 32) : Nat := bits w.toNat 18 2
def fwSAT (w : BitVec 32) : Bool := w.getLsbD 20

/-- Operand class of a format (R50). -/
def operandClass : Nat → Nat | 1 => 1 | 2 => 1 | 3 => 2 | 4 => 2 | 5 => 2 | 6 => 2 | 7 => 3 | _ => 0

/-- CheckFormatWord (R50): whether the word is accepted; `xv` says the context holds the feature. -/
def formatWordOk (w : BitVec 32) (xv : Bool) : Bool :=
  let a := fwAF w
  let b := fwBF w
  decide (bits w.toNat 21 11 = 0) && decide (fwCF w = 0) && decide (1 ≤ a) && decide (a ≤ 7) && decide (1 ≤ b) && decide (b ≤ 7) &&
    decide (operandClass a = operandClass b) && decide (fwBLK w ≤ 3) && !(decide (fwBLK w ≠ 0) && decide (operandClass a = 1)) &&
    !(fwXVE w && (decide (a ≠ 7) || decide (b ≠ 7) || decide (fwBLK w = 0) || !xv)) && decide (fwPINT w ≠ 3) &&
    !(decide (fwPINT w ≠ 0) && !((decide (a = 3) || decide (a = 4)) && (decide (b = 3) || decide (b = 4))))

/-- The promotion interval (R50). -/
def promotionInterval (w : BitVec 32) : Nat :=
  if fwPINT w = 1 then 64 else if fwPINT w = 2 then 128 else if fwBLK w ≠ 0 then blockSize (fwBLK w) else 8

/-- DepthMul (R147). -/
def depthMul (af : Nat) : Nat := if operandClass af = 1 then 1 else if operandClass af = 2 then 2 else 4

/-- Whether a block is on the exact path (R52). -/
def exactPath (w : BitVec 32) : Bool := decide (5 ≤ fwAF w) && decide (5 ≤ fwBF w)

/-- Truncation toward zero of m * 2^e to a whole multiple of 2^q, as a signed count. -/
def truncAt (neg : Bool) (m : Nat) (e q : Int) : Int :=
  let n := if q ≤ e then m * 2 ^ (e - q).toNat else m / 2 ^ (q - e).toNat
  if neg then -Int.ofNat n else Int.ofNat n

/-- The sum of a block's products (R53, R54): the value and whether it saturated. -/
def alignedSum (ps : List FV) : FV × Bool :=
  if ps.any isNaN then (.nan false, false)
  else
    let infs := ps.filter fun p => match p with | .inf _ => true | _ => false
    if infs ≠ [] then
      (if infs.all (signOf · = true) then .inf true else if infs.all (signOf · = false) then .inf false else .nan false, false)
    else
      let nz := ps.filter fun p => !isZeroV p
      if nz = [] then (.num false 0 0, false)
      else
        let lg := nz.map fun p => match p with | .num _ m e => floorLog2 m e | _ => 0
        let E := lg.foldl (fun a b => if a ≥ b then a else b) (lg.headD 0)
        let u := E - 40
        let s := nz.foldl (fun a p => match p with | .num n m e => a + truncAt n m e u | _ => a) (0 : Int)
        let lim : Int := Int.ofNat (2 ^ 47) - 1
        if s > lim then (ofMant lim u false, true) else if s < -lim then (ofMant (-lim) u false, true) else (ofMant s u false, false)

/-- The exact sum of a block's products (R52), specials as R54. -/
def exactSum (ps : List FV) : FV :=
  if ps.any isNaN then .nan false
  else
    let infs := ps.filter fun p => match p with | .inf _ => true | _ => false
    if infs ≠ [] then
      (if infs.all (signOf · = true) then .inf true else if infs.all (signOf · = false) then .inf false else .nan false)
    else match ps.foldl (fun a p => (addF 0 a p).1) (.num false 0 0) with
      | .num _ 0 e => .num false 0 e
      | v => v

/-- Promotion of a block sum into an FP32 element (R55): one rounding, RNE, subnormals kept. -/
def promote (c : BitVec 32) (v : FV) : BitVec 32 :=
  BitVec.ofNat 32 (narrow (addF 0 (decodeF 0 c.toNat) v).1 0 0 false).1

/-- The sum of one promotion block (R52 to R54). The products carry their scales; on the exact path they are exact, so the
scaled exact sum is the scaled inner sum of R55. -/
def blockSum (fw : BitVec 32) (ps : List FV) : FV × Bool := if exactPath fw then (exactSum ps, false) else alignedSum ps

/-- Cuts the products from absolute `k` on into promotion blocks (R51, R56): `fuel` bounds the blocks. -/
def promoteBlocks (fw : BitVec 32) (interval : Nat) : Nat → Nat → List FV → BitVec 32 → BitVec 32 × Bool
  | 0, _, _, c => (c, false)
  | fuel + 1, k, ps, c =>
    if ps = [] then (c, false)
    else
      let n := interval - k % interval
      let (v, sat) := blockSum fw (ps.take n)
      let (c', sat') := promoteBlocks fw interval fuel (k + n) (ps.drop n) (promote c v)
      (c', sat || sat')

/-- Accumulates a row of products, the first at absolute `k`, into an element (R51 to R56); answers whether R53 saturated. -/
def accumulate (fw : BitVec 32) (k : Nat) (ps : List FV) (c : BitVec 32) : BitVec 32 × Bool :=
  promoteBlocks fw (promotionInterval fw) (ps.length + 1) k ps c

/-- A product of two operand values for the sums (R54): an infinity times zero is a NaN. -/
def productF (x y : FV) : FV := (mulF x y).1

/-! ### Integers (R32, R33) -/

/-- Division and remainder in `w` bits (R33). -/
def divS (w a b : Nat) : Nat :=
  let x := signed w a
  let y := signed w b
  if y = 0 then 2 ^ w - 1 else wrap w (Int.tdiv x y)
def divU (w a b : Nat) : Nat := if b % 2 ^ w = 0 then 2 ^ w - 1 else a % 2 ^ w / (b % 2 ^ w)
def remS (w a b : Nat) : Nat :=
  let x := signed w a
  let y := signed w b
  if y = 0 then a % 2 ^ w else wrap w (Int.tmod x y)
def remU (w a b : Nat) : Nat := if b % 2 ^ w = 0 then a % 2 ^ w else a % 2 ^ w % (b % 2 ^ w)

/-- A comparison of R256 major 0x0C and R318: 0 EQ, 1 NE, 2 LT, 3 GE, 4 LTU, 5 GEU on `w` bits; 6 ANY and 7 NONE of R184. -/
def condHolds (w code a b : Nat) : Bool :=
  let a := a % 2 ^ w
  let b := b % 2 ^ w
  match code with
  | 0 => decide (a = b)
  | 1 => decide (a ≠ b)
  | 2 => decide (signed w a < signed w b)
  | 3 => decide (signed w a ≥ signed w b)
  | 4 => decide (a < b)
  | 5 => decide (a ≥ b)
  | 6 => decide (a &&& b ≠ 0)
  | _ => decide (a &&& b = 0)

end Sys2Proof.Machine
end

