-- ==== Sys2Proof/Machine/Access.lean ====
section
/-! DEFINITION. One access of a group to memory or scratchpad: loads, stores and atomic read-modify-writes, inside a transaction (R187 to R190) or outside, with poison (R374). -/
namespace Sys2Proof.Machine

/-- Result of one access. -/
inductive Got where
  | val (cx : Cx) (v : Nat)
  /-- the access faults: how the instruction ends if it takes the fault -/
  | bad (cx : Cx) (f : Fate)
  /-- a later element on a no-speculation page (R200) -/
  | spec
deriving DecidableEq, Repr

/-- The transaction an access belongs to: that of the control thread. The accesses of a block are not the transaction's
(R187) (DEDUCED, log entry 77). -/
def cxTxn (cx : Cx) : Option Txn := if cx.vps.isNone then cx.g.txn else none

/-- Resolves an address for a group (R278); a transaction's store is not performed yet. -/
def resolveCx (cx : Cx) (va : Word) (n : Nat) (u : Use) (e : Nat) : Cx × Res :=
  let r := resolve cx.s (asker cx) va n (if (cxTxn cx).isSome ∧ u = .write then .stage else u) e
  ({ cx with s := r.1 }, r.2)

/-- Whether a page may be accessed in a transaction: global, CA 00 or 01, HS clear (R187). -/
def txnPage : Loc → Bool
  | .glob _ _ leaf => !leaf.getLsbD 5 && !leaf.getLsbD 11
  | _ => false

/-- The transaction with a line added to its line set, and the heap region it touches; `none` for a ninth line (R187, R189). -/
def txnTouch (x : Txn) (line : Nat) (w : Bool) (region : Option Nat) : Option Txn :=
  let x1 := { x with
    readLines := if w ∨ x.readLines.contains line then x.readLines else x.readLines ++ [line]
    writeLines := if !w ∨ x.writeLines.contains line then x.writeLines else x.writeLines ++ [line]
    regions := match region with
      | some r => if x.regions.contains r then x.regions else x.regions ++ [r]
      | none => x.regions }
  if (txnLines x1).length ≤ 8 then some x1 else none

/-- The bytes a transaction reads: its own writes over memory. -/
def txnBytes (x : Txn) (m : Memory) (pa : Nat) : Nat → List Byte
  | 0 => []
  | n + 1 => (tget x.writes pa).getD (readByte m pa) :: txnBytes x m (pa + 1) n

/-- Buffers the bytes of a transactional store. -/
def txnPut (t : Tbl Byte) (pa : Nat) : List Byte → Tbl Byte
  | [] => t
  | b :: r => txnPut (tput t pa b) (pa + 1) r

/-- The leaves a transaction's stores were translated through, with one more. -/
def stageLeaf (l : List TlbEntry) (e : Option TlbEntry) : List TlbEntry :=
  match e with
  | some e => if l.contains e then l else l ++ [e]
  | none => l

/-- The heap region a VA of the group's context lies in. -/
def cxRegion (cx : Cx) (va : Nat) : Option Nat := (getCtx cx.s cx.cn).bind fun c => regionOf c.heap va

/-- Puts the transaction of the group. -/
def withTxn (cx : Cx) (x : Txn) : Cx := { cx with g := { cx.g with txn := some x } }

/-- Reads `n` bytes at a place for the group; `va` is the address a poison trap names. -/
def loadAt (cx : Cx) (l : Loc) (va : Word) (n : Nat) : Got :=
  match cxTxn cx with
  | some x =>
    (match l with
      | .glob pa gva _ =>
        if !txnPage l then .bad cx (.abort 8 0)
        else if poisoned cx.s l n then .bad cx (.trap 0x10 va)
        else match txnTouch x (pa / 64) false (cxRegion cx gva) with
          | none => .bad cx (.abort 2 0)
          | some x1 => .val { withTxn cx x1 with s := snoop cx.s cx.k cx.i (pa / 64) false } (bytesNat (txnBytes x1 cx.s.mem pa n))
      | _ => .bad cx (.abort 8 0))
  | none =>
    if poisoned cx.s l n then .bad cx (.trap 0x10 va)
    else
      let r := locLoad cx.s l n
      .val { cx with s := r.1 } r.2

/-- One more than the physical address of a place in memory; 0 for scratchpad. -/
def storedAt : Loc → Nat
  | .glob pa _ _ => pa + 1
  | _ => 0

/-- Writes `n` bytes at a place for the group. `ref` says what a reference bit of the word becomes, where one is kept: a
plain store clears it (R215), a store of a reference sets it. -/
def storeAt (cx : Cx) (l : Loc) (n v : Nat) (ref : Bool) : Got :=
  match cxTxn cx with
  | some x =>
    (match l with
      | .glob pa gva _ =>
        if !txnPage l then .bad cx (.abort 8 0)
        else match txnTouch x (pa / 64) true (cxRegion cx gva) with
          | none => .bad cx (.abort 2 0)
          | some x1 =>
            .val { withTxn cx { x1 with
                     writes := txnPut x1.writes pa (natBytes v n), stores := x1.stores ++ [(pa, n, gva, ref)]
                     staged := stageLeaf x1.staged (cachedLeaf cx.s (coreOf cx.s cx.k) cx.cn gva) } with
                   s := snoop cx.s cx.k cx.i (pa / 64) true } 0
      | _ => .bad cx (.abort 8 0))
  | none =>
    let s1 := locWrite cx.s (asker cx) l n v
    .val { cx with s := match l with
      | .glob _ gva _ =>
        if ref then modCtx s1 cx.cn fun c => { c with heap := { c.heap with refBits := tput c.heap.refBits (gva / 8) true } } else s1
      | _ => s1 } (storedAt l)

/-- Where a load lands, before anything is read. -/
inductive Found where
  | at (cx : Cx) (l : Loc)
  | bad (cx : Cx) (f : Fate)
  /-- a later element on a no-speculation page (R200) -/
  | spec
deriving DecidableEq, Repr

/-- Whether a page is not read ahead: NS (R168, R200), and for a stream's engine an uncached page, never read speculatively (R127): only
elements that a waiting VSETVL needs. -/
def noAhead (cx : Cx) (leaf : BitVec 64) : Bool := leaf.getLsbD 4 || (cx.stream && leaf.getLsbD 11 && !cx.awaited)

/-- Finds the place of a load. `first` is false for an element that is not read ahead. -/
def findLoad (cx : Cx) (va : Word) (n e : Nat) (first : Bool) : Found :=
  match resolveCx cx va n .read e with
  | (cx1, .lost) => .bad cx1 .lost
  | (cx1, .bad b) => .bad cx1 (badFate b e)
  | (cx1, .at l) =>
    match l, first with
    | .glob _ _ leaf, false => if noAhead cx1 leaf then .spec else .at cx1 l
    | _, _ => .at cx1 l

/-- A load at an address. -/
def loadVa (cx : Cx) (va : Word) (n e : Nat) (first : Bool) : Got :=
  match findLoad cx va n e first with
  | .at cx1 l => loadAt cx1 l va n
  | .bad cx1 f => .bad cx1 f
  | .spec => .spec

/-- Performs a store whose address was translated ahead: its leaf gets D first (R195). -/
def storeStaged (cx : Cx) (l : Loc) (n v : Nat) : Got :=
  let s1 := match l with
    | .glob _ gva _ => dirtyAt cx.s (coreOf cx.s cx.k) cx.cn gva
    | _ => cx.s
  storeAt { cx with s := s1 } l n v false

/-- A store at an address. -/
def storeVa (cx : Cx) (va : Word) (n v e : Nat) : Got :=
  match resolveCx cx va n .write e with
  | (cx1, .lost) => .bad cx1 .lost
  | (cx1, .bad b) => .bad cx1 (badFate b e)
  | (cx1, .at l) => storeAt cx1 l n v false

/-- The new value of an atomic operation of R281 over `w` bits: ADD, AND, OR, XOR, MIN, MAX, MINU, MAXU, SWAP. -/
def atomNew (w op old x : Nat) : Nat :=
  let a := old % 2 ^ w
  let b := x % 2 ^ w
  match op with
  | 0 => (a + b) % 2 ^ w
  | 1 => a &&& b
  | 2 => a ||| b
  | 3 => a ^^^ b
  | 4 => if signed w a ≤ signed w b then a else b
  | 5 => if signed w a ≥ signed w b then a else b
  | 6 => if a ≤ b then a else b
  | 7 => if a ≥ b then a else b
  | _ => b

/-- One atomic read-modify-write at an address: `f` gives the new value from the old one, or `none` to write nothing (a
failing CAS performs a read only). Answers the old value. -/
def atomicVa (cx : Cx) (va : Word) (n e : Nat) (f : Nat → Option Nat) : Got :=
  match resolveCx cx va n .atomic e with
  | (cx1, .lost) => .bad cx1 .lost
  | (cx1, .bad b) => .bad cx1 (badFate b e)
  | (cx1, .at l) =>
    match loadAt cx1 l va n with
    | .val cx2 old =>
      (match f old with
        | some v => (match storeAt cx2 l n v false with
            | .val cx3 _ => .val cx3 old
            | r => r)
        | none => .val cx2 old)
    | r => r

/-- The outcome of an instruction that ends with a failed access. -/
def gotBad (cx : Cx) (f : Fate) : Out := { cx := cx, fate := f, stuck := cx.vps.getD [] }

/-- Goes on with the value an access gave. -/
def gotThen (r : Got) (k : Cx → Nat → Out) (cx : Cx) : Out :=
  match r with
  | .val cx1 v => k cx1 v
  | .bad cx1 f => gotBad cx1 f
  | .spec => gotBad cx .stay

end Sys2Proof.Machine
end

