-- ==== Sys2Proof/Machine/Operands.lean ====
section
/-! DEFINITION. The operand forms of scalar, vector and predicate instructions: predicate bits, vector elements, wide groups (R304), 64-bit address elements (R248), active elements (R302) and the writing of destinations under lookahead and stream slots. -/
namespace Sys2Proof.Machine

/-! ### Predicates (R247, R282, R283) -/

/-- Bits `0` to `n - 1`. -/
def lowMask (n : Nat) : Nat := 2 ^ n - 1

/-- The windows through which VP i of a block, or the control thread, reads. -/
def winsOf (cx : Cx) (i : Nat) : List Window :=
  match cx.vps with
  | none => cx.g.th.wins
  | some _ => ((vpOf cx.g i).map (·.wins)).getD []

/-- The image of a predicate register as VP i, or the control thread, reads it. -/
def predImage (cx : Cx) (n i : Nat) : Nat := if n = 0 then pOnes else hide (winsOf cx i) (.p n) (tgetD cx.g.p n 0)

/-- Bit i of a predicate register. -/
def predBit (cx : Cx) (n i : Nat) : Bool := bit (predImage cx n i) i

/-- A later write to some bits of a register, seen through every open window of the group and its VPs. -/
def pokeGroup (g : Group) (r : RegId) (mask v : Nat) : Group :=
  { g with
    th := { g.th with wins := poke g.th.wins r mask v }
    block := g.block.map fun b => { b with vps := tmap b.vps fun _ p => { p with wins := poke p.wins r mask v } } }

/-- Writes the bits of a predicate register under a mask; p0 discards writes. -/
def putPred (g : Group) (n mask v : Nat) : Group :=
  if n = 0 then g else pokeGroup { g with p := tputD g.p n (merge (tgetD g.p n 0) mask v) 0 } (.p n) mask v

/-- VLMAX of the group that acts (R105). -/
def cxVlmax (cx : Cx) : Nat := vlmax cx.kn cx.g

/-- VLEN as the control thread reads it: a trimming load hides its write from its window (R305). -/
def readVlen (cx : Cx) : Nat := hide cx.g.th.wins .vlen cx.g.vlen.toNat

/-- Writes VLEN. -/
def putVlen (g : Group) (n : Nat) : Group := pokeGroup { g with vlen := BitVec.ofNat 64 n } .vlen allOnes n

/-- Writes the same bit to VPs 0 to VLMAX - 1 of a predicate (R247). -/
def putPredAll (cx : Cx) (n : Nat) (b : Bool) : Cx :=
  { cx with g := putPred cx.g n (lowMask (cxVlmax cx)) (if b then lowMask (cxVlmax cx) else 0) }

/-! ### Active elements (R302, R113) -/

/-- VMASK's predicate number. -/
def vmaskPred (g : Group) : Nat := bits g.vmask.toNat 0 7

/-- Whether VMASK admits element i in the control thread. -/
def maskBit (cx : Cx) (i : Nat) : Bool := vmaskPred cx.g = 0 || predBit cx (vmaskPred cx.g) i

/-- The active elements, ascending: those of R302, or in a block the VPs that issue. -/
def active (cx : Cx) : List Nat :=
  match cx.vps with
  | some l => l
  | none => (upFrom 0 (readVlen cx)).filter (maskBit cx)

/-! ### Vector registers (R247, R303) -/

/-- The image of a vector register as element i's reader sees it. -/
def vecImage (cx : Cx) (n i : Nat) : Nat := hide (winsOf cx i) (.v n) (tgetD cx.g.v n 0)

/-- Element i of a register, as a `w`-bit image. -/
def elem (cx : Cx) (n w i : Nat) : Nat := bits (vecImage cx n i) (i * w) w

/-- Bits of one register's image: VLMAX elements of the VTYPE width. -/
def imageBits (cx : Cx) : Nat := cxVlmax cx * elemWidth cx.g

/-- 64-bit element i of the concatenated images of registers from `b` on (R248). -/
def elem64 (cx : Cx) (b i : Nat) : Nat :=
  let z := imageBits cx
  let r := 64 * i / z
  let lo := bits (vecImage cx (b + r) i) (64 * i % z) (z - 64 * i % z)
  (lo + vecImage cx (b + r + 1) i * 2 ^ (z - 64 * i % z)) % 2 ^ 64

/-- Whether a vector register is named by the configuration (R106). -/
def vReadOk (g : Group) (n : Nat) : Bool := decide (n < nvCount g)

/-- Whether a register is bound to a READ slot. -/
def boundRead (g : Group) (n : Nat) : Bool := g.slots.any fun q => decide (q.st = .read) && decide (q.vd = n)

/-- Whether a vector register may be written (R106, R303). -/
def vWriteOk (g : Group) (n : Nat) : Bool := vReadOk g n && !boundRead g n

/-- How many registers hold 64-bit addresses for the elements (R248). -/
def addrRegs (g : Group) : Nat := 64 / elemWidth g

/-- Whether `b` is a legal base of address elements (R248). -/
def addrOk (g : Group) (b : Nat) : Bool := decide (b % addrRegs g = 0) && decide (b + addrRegs g ≤ nvCount g)

/-- Registers of a wide operand of `wt`-bit elements (R304). -/
def wideCount (cx : Cx) (wt : Nat) : Nat := ceilDiv (cxVlmax cx) (capElems cx.kn cx.g wt)

/-- Element i of the wide operand at `d` (R304). -/
def wideElem (cx : Cx) (d wt i : Nat) : Nat :=
  let c := capElems cx.kn cx.g wt
  bits (vecImage cx (d + i / c) i) (i % c * wt) wt

/-- A stream slot in no stream mode. -/
def idleSlot : Slot :=
  { st := .idle, vd := 0, base := 0, len := 0, pos := 0, slen := 0, ahead := [], written := 0, spare := 0, blocked := none, wanted := false, need := 0, pc := 0, multicast := false, ended := false
    desc := { fmt := 0, boff := 0, dir := 0, ndim := 0, gate := false, full := false, chan := 0, mask := 0, ofs := 0, counts := [], strides := [] } }

/-- The written bits of a WRITE slot after the bits under `mask` of its register were written (R166). -/
def markSlot (n mask : Nat) (q : Slot) : Slot :=
  if q.st = .write ∧ q.vd = n then
    let w := fmtWidth q.desc.fmt
    { q with written := (upFrom 0 q.slen).foldl (fun a e => if bits mask (e * w) w = 0 then a else setBit a e true) q.written }
  else q

/-- Writes the bits under a mask of a vector register. -/
def putVec (g : Group) (n mask v : Nat) : Group :=
  pokeGroup { g with v := tputD g.v n (merge (tgetD g.v n 0) mask v) 0, slots := g.slots.map (markSlot n mask) } (.v n) mask v

/-- A write in a block is hidden by windows of its own VP alone: the windows of the control thread let it through, and another VP's hide that
VP's own element alone (R266). -/
def pokeCtl (g : Group) (blk : Bool) (r : RegId) (mask v : Nat) : Group :=
  if blk then { g with th := { g.th with wins := poke g.th.wins r mask v } } else g

/-- Writes the bits under a mask of a register as the destination of an instruction with lookahead `la`; `blk` says that the
instruction runs in a block. -/
def putVecLa (g : Group) (blk : Bool) (n mask v la : Nat) : Group × List Hidden :=
  if la = 0 then (putVec g n mask v, [])
  else
    let old := tgetD g.v n 0
    (pokeCtl { g with v := tputD g.v n (merge old mask v) 0, slots := g.slots.map (markSlot n mask) } blk (.v n) mask v,
      [{ reg := .v n, old := old, mask := mask, new := v }])

/-- The mask and the image of elements of width `w`. -/
def packElems (w : Nat) (rs : List (Nat × Nat)) : Nat × Nat :=
  rs.foldl (fun a r => (a.1 ||| (2 ^ w - 1) <<< (r.1 * w), a.2 ||| (r.2 % 2 ^ w) <<< (r.1 * w))) (0, 0)

/-- Raises FCSR flags (R36). -/
def raise (g : Group) (fl : Nat) : Group := { g with fcsr := g.fcsr ||| BitVec.ofNat 64 fl }

/-- Completes with elements of register `d` written, with flags and lookahead. -/
def okElems (cx : Cx) (d w la fl : Nat) (rs : List (Nat × Nat)) : Out :=
  let pm := packElems w rs
  let r := putVecLa (raise cx.g fl) cx.vps.isSome d pm.1 pm.2 la
  { cx := { cx with g := r.1 }, fate := .done, la := la, hid := r.2, ew := w }

/-- Completes with d[i] := f i for the active elements. -/
def okMap (cx : Cx) (d w la : Nat) (f : Nat → Nat × Nat) : Out :=
  let rs := (active cx).map fun i => (i, f i)
  okElems cx d w la (rs.foldl (fun a r => a ||| r.2.2) 0) (rs.map fun r => (r.1, r.2.1))

/-- Writes elements of the wide operand at `d` (R304), no lookahead. -/
def putWide (cx : Cx) (d wt : Nat) (rs : List (Nat × Nat)) : Group :=
  let c := capElems cx.kn cx.g wt
  (upFrom 0 (wideCount cx wt)).foldl (fun g k =>
    let mine := rs.filter fun r => r.1 / c = k
    if mine = [] then g
    else let pm := packElems wt (mine.map fun r => (r.1 % c, r.2)); putVec g (d + k) pm.1 pm.2) cx.g

/-- Completes with predicate bits of `pd` written for the active elements. -/
def okPred (cx : Cx) (pd fl : Nat) (f : Nat → Bool) : Out :=
  let act := active cx
  let mask := act.foldl (fun a i => setBit a i true) 0
  let v := act.foldl (fun a i => if f i then setBit a i true else a) 0
  { cx := { cx with g := putPred (raise cx.g fl) pd mask v }, fate := .done }

/-! ### Formats (R301) -/

def integerFmt (g : Group) : Bool := decide (elemWidth g ≥ 8)
def floatFmt (g : Group) : Bool := decide (vtFmt g ≤ 2)

/-- An operand s(b) as a `w`-bit element (R303). -/
def scalarElem (cx : Cx) (b w : Nat) : Nat := (readS cx b).toNat % 2 ^ w

/-! ### Running the accesses of a vector instruction (R199 to R201, R113, R375) -/

/-- How far the elements of a memory instruction have come. -/
structure Sweep where
  cx : Cx
  /-- the values obtained, in the order of the elements -/
  vals : List (Nat × Nat)
  stuck : List Nat
  /-- the element whose fault or trap is taken -/
  bad : Option (Nat × Fate)
  /-- the element at which a load is trimmed -/
  trim : Option Nat
deriving DecidableEq, Repr

/-- A fault of one element that trims a fault-only-first load: not poison, and no uncontained error. -/
def isElementFault : Fate → Bool
  | .trap c _ => decide (c ≠ 0x10)
  | .page .. => true
  | _ => false

/-- Whether a fate is the poison trap. -/
def isPoison : Fate → Bool
  | .trap c _ => decide (c = 0x10)
  | _ => false

/-- Performs elements one by one. `trims` marks a fault-only-first load of the control thread; `f` performs one access,
told whether it is the lowest active one. In a block a failing VP is stuck and the others go on; a VP that only waits in
the load barrier is stuck with no failure (R216). Elsewhere the first failure ends the sweep. -/
def sweep (trims : Bool) (f : Cx → Nat → Bool → Got) : List Nat → Bool → Sweep → Sweep
  | [], _, w => w
  | i :: r, first, w =>
    match f w.cx i first with
    | .val cx v => sweep trims f r cx.vps.isSome { w with cx := cx, vals := w.vals ++ [(i, v)] }
    | .spec => { w with trim := some i }
    | .bad cx fate =>
      if cx.vps.isSome ∧ fate ≠ .lost then
        sweep trims f r true { w with cx := cx, stuck := w.stuck ++ [i], bad := if fate = .stay then w.bad else w.bad.orElse fun _ => some (i, fate) }
      else if trims && !first && isElementFault fate then
        { w with trim := some i }
      else { w with cx := cx, bad := some (i, fate) }

/-- The elements still to perform: from RIDX on in the control thread (R201, R325). -/
def pending (cx : Cx) : List Nat :=
  match cx.vps with
  | some l => l
  | none => (active cx).filter fun i => decide (cx.g.ridx.toNat ≤ i)

/-- A sweep over the elements still to perform. In the control thread the lowest active element is the first one even when the
sweep resumes above it (R199, R375). -/
def sweepAll (cx : Cx) (trims : Bool) (f : Cx → Nat → Bool → Got) : Sweep :=
  sweep trims f (pending cx) (cx.vps.isSome || decide ((pending cx).head? = (active cx).head?)) { cx := cx, vals := [], stuck := [], bad := none, trim := none }

/-- How an instruction ends after its sweep: RIDX names the element a precise fault was taken at. -/
def sweepFate (w : Sweep) : Fate := match w.bad with | some (_, f) => f | none => .done

/-- The group with RIDX set when the control thread's sweep ended in a failure. -/
def sweepGroup (w : Sweep) : Group :=
  match w.bad, w.cx.vps with
  | some (i, _), none => { w.cx.g with ridx := BitVec.ofNat 64 i }
  | _, _ => w.cx.g

/-- Ends a store or an atomic with no destination. -/
def okSweep (w : Sweep) : Out := { cx := { w.cx with g := sweepGroup w }, fate := sweepFate w, stuck := w.stuck }

/-- Ends a load into `wd`-bit elements of register `d`. A fault on the lowest active element leaves everything as it was;
poison leaves the elements below written and RIDX at it (R375); a trim sets VLEN. A control thread's load that waits in
the load barrier writes nothing and is issued again. -/
def okLoad (w : Sweep) (d wd la : Nat) : Out :=
  if sweepFate w = .stay then { cx := w.cx, fate := .stay, stuck := w.stuck } else
  let pm := packElems wd w.vals
  let g0 := if isPoison (sweepFate w) then sweepGroup w else w.cx.g
  let hv : List Hidden := match w.trim with
    | some _ => if la = 0 then [] else [{ reg := .vlen, old := g0.vlen.toNat, mask := allOnes, new := (w.trim.getD 0) }]
    | none => []
  let r := putVecLa g0 w.cx.vps.isSome d pm.1 pm.2 (if w.bad.isSome ∧ w.cx.vps.isNone then 0 else la)
  let g1 := match w.trim with
    | some j => if la = 0 then putVlen r.1 j else { r.1 with vlen := BitVec.ofNat 64 j }
    | none => r.1
  { cx := { w.cx with g := g1 }, fate := sweepFate w, la := la, hid := r.2 ++ hv, ew := wd, stuck := w.stuck }

end Sys2Proof.Machine
end

