-- ==== Sys2Proof/Machine/Replay.lean ====
section
/-! DEFINITION. Replaying the teams a device fault struck (R387, R388). -/
namespace Sys2Proof.Machine

/-- Whether a kernel has a KFLAGS bit (R68): 0 `.migrate`, 1 `.coresident`, 2 `.replayable`, 3 `.sig on`. -/
def kflag (kn : Kernel) (b : Nat) : Bool := kn.kflags.getLsbD b

/-- Whether a team may be replayed (R388). -/
def mayReplay (s : State) (k : Nat) : Bool :=
  match getTeam s k, invOf s k, ctxOf s k with
  | some t, some iv, some c => kflag iv.kernel 2 && hasFeature c 11 && decide (tgetD iv.replays t.tidx 0 < 3)
  | _, _, _ => false

/-- The team indices replayed with a team: its gang, or the whole co-resident grid (DEDUCED, log entry 28). -/
def replaySet (iv : Invoc) (tidx : Nat) : List Nat :=
  if kflag iv.kernel 1 then upFrom 0 iv.teams else upFrom (tidx / iv.gang * iv.gang) iv.gang

/-- Inserts a number in a rising list. -/
def insertNat (n : Nat) : List Nat → List Nat
  | [] => [n]
  | a :: r => if n < a then n :: a :: r else if n = a then a :: r else a :: insertNat n r

/-- A stray-signal record in the sender's error queue (R182, R417). -/
def strayRecord (s : State) (g : Signal) : State :=
  errorRecord s g.fromCtx 0x08 g.bell g.fromInv g.fromTidx g.r0.toNat g.r1.toNat

/-- Whether a signal goes to one of the teams. -/
def signalFor (num ctx : Nat) (l : List Nat) (g : Signal) : Bool := decide (g.ctx = ctx) && decide (g.inv = num) && l.contains g.tidx

/-- Replays the teams of a list (R388): every state of theirs is discarded, and they wait in PLACING to start again (DEDUCED, log entry 28). The
invocation changes its state once the Timetable's root is no longer being rebuilt (R390). -/
def replayTeams (s : State) (ik : Nat) (l : List Nat) : State :=
  let s1 := l.foldl (fun s t => discardTeam s (teamKey ik t)) s
  let s2 := modInv s1 ik fun iv =>
    { iv with
      st := if s.hub.rebuilding then iv.st else .placing
      again := l.foldl (fun a t => if t < iv.nextTeam then insertNat t a else a) iv.again
      replays := l.foldl (fun r t => tput r t (tgetD r t 0 + 1)) iv.replays }
  let stray := fun g => signalFor (invNum ik) (((getInv s ik).map (·.ctx)).getD 0) l g
  (s2.signals.filter stray).foldl strayRecord { s2 with signals := s2.signals.filter fun g => !stray g }

/-- A device fault strikes a team (R387, R388): replay, or the invocation ends with LOST (DEDUCED, log entry 28). -/
def strikeTeam (s : State) (k : Nat) : State :=
  match getTeam s k, invOf s k with
  | some t, some iv => if mayReplay s k then replayTeams s t.inv (replaySet iv t.tidx) else markInvocation s t.inv 7 t.tidx 0 0
  | _, _ => s

end Sys2Proof.Machine
end

