-- ==== Sys2Proof/Machine/Scalar.lean ====
section
/-! DEFINITION. Scalar integer and floating-point instructions, scalar memory access and atomics, predicates, branches, CSR access (R273 to R290). -/
namespace Sys2Proof.Machine

/-! ### Integer operations (R275 to R277) -/

/-- Permitted in a transaction (R187). -/
def inTxn : Rules := { txn := true }

/-- Whether every 6-bit field names a k register (R248). -/
def kOk (l : List (BitVec 6)) : Bool := l.all fun n => decide (n.toNat < 32)

/-- An instruction d := f(a, b), on s registers or, in the matrix stream, on k registers. -/
def runAlu (i : Instr) (d a b : BitVec 6) (la : Nat) (f : Word → Word → Word) (s : State) : Host.Outcome State Fault Refusal :=
  runBoth inTxn i (fun cx => okWrite cx d.toNat (f (readS cx a.toNat) (readS cx b.toNat)) la)
    (fun sx => if kOk [d, a, b] then okWriteSeq sx d.toNat (f (readX sx.q.th a.toNat) (readX sx.q.th b.toNat)) la
      else illegalSeq sx (encode i)) s

/-- An instruction d := f(a). -/
def runAlu1 (i : Instr) (d a : BitVec 6) (f : Word → Word) (s : State) : Host.Outcome State Fault Refusal :=
  runBoth inTxn i (fun cx => okWrite cx d.toNat (f (readS cx a.toNat)) 0)
    (fun sx => if kOk [d, a] then okWriteSeq sx d.toNat (f (readX sx.q.th a.toNat)) 0 else illegalSeq sx (encode i)) s

/-- An instruction d := f(PC). -/
def runPc (i : Instr) (d : BitVec 6) (f : Word → Word) (s : State) : Host.Outcome State Fault Refusal :=
  runBoth inTxn i (fun cx => okWrite cx d.toNat (f cx.g.th.pc) 0)
    (fun sx => if kOk [d] then okWriteSeq sx d.toNat (f sx.q.th.pc) 0 else illegalSeq sx (encode i)) s

/-- 1 or 0. -/
def flag (b : Bool) : Word := if b then 1 else 0

/-- Number of set bits (R275). -/
def popc64 (x : Word) : Word := BitVec.ofNat 64 (popcount x.toNat 64)

/-- Zero bits above the highest set bit; 64 for 0. -/
def clz64 (x : Word) : Word := if x = 0 then 64 else BitVec.ofNat 64 (63 - Nat.log2 x.toNat)

/-- Zero bits below the lowest set bit; 64 for 0. -/
def ctz64 (x : Word) : Word := if x = 0 then 64 else BitVec.ofNat 64 (Nat.log2 (x &&& (0 - x)).toNat)

/-- Bit i of the result is bit 63 - i of x. -/
def brev64 (x : Word) : Word := x.reverse

/-- The shift amount y[5:0]. -/
def sh (y : Word) : Nat := y.toNat % 64

/-- imm19 sign-extended, shifted left by 12. -/
def hi19 (i : BitVec 19) : Word := i.signExtend 64 <<< 12

/-- High 64 bits of the signed product. -/
def mulhs (x y : Word) : Word := BitVec.ofInt 64 (x.toInt * y.toInt / 2 ^ 64)

/-- High 64 bits of the unsigned product. -/
def mulhu (x y : Word) : Word := BitVec.ofNat 64 (x.toNat * y.toNat / 2 ^ 64)

/-- ADD (R275). -/
def execAdd (d a b : BitVec 6) (s : State) : Host.Outcome State Fault Refusal := runAlu (.add d a b) d a b 0 (fun x y => x + y) s

/-- SUB (R275). -/
def execSub (d a b : BitVec 6) (s : State) : Host.Outcome State Fault Refusal := runAlu (.sub d a b) d a b 0 (fun x y => x - y) s

/-- AND (R275). -/
def execAnd (d a b : BitVec 6) (s : State) : Host.Outcome State Fault Refusal := runAlu (.and d a b) d a b 0 (fun x y => x &&& y) s

/-- OR (R275). -/
def execOr (d a b : BitVec 6) (s : State) : Host.Outcome State Fault Refusal := runAlu (.or d a b) d a b 0 (fun x y => x ||| y) s

/-- XOR (R275). -/
def execXor (d a b : BitVec 6) (s : State) : Host.Outcome State Fault Refusal := runAlu (.xor d a b) d a b 0 (fun x y => x ^^^ y) s

/-- ANDN (R275). -/
def execAndn (d a b : BitVec 6) (s : State) : Host.Outcome State Fault Refusal := runAlu (.andn d a b) d a b 0 (fun x y => x &&& ~~~y) s

/-- SLL (R275). -/
def execSll (d a b : BitVec 6) (s : State) : Host.Outcome State Fault Refusal := runAlu (.sll d a b) d a b 0 (fun x y => x <<< sh y) s

/-- SRL (R275). -/
def execSrl (d a b : BitVec 6) (s : State) : Host.Outcome State Fault Refusal := runAlu (.srl d a b) d a b 0 (fun x y => x >>> sh y) s

/-- SRA (R275). -/
def execSra (d a b : BitVec 6) (s : State) : Host.Outcome State Fault Refusal := runAlu (.sra d a b) d a b 0 (fun x y => x.sshiftRight (sh y)) s

/-- SLT (R275). -/
def execSlt (d a b : BitVec 6) (s : State) : Host.Outcome State Fault Refusal := runAlu (.slt d a b) d a b 0 (fun x y => flag (x.slt y)) s

/-- SLTU (R275). -/
def execSltu (d a b : BitVec 6) (s : State) : Host.Outcome State Fault Refusal := runAlu (.sltu d a b) d a b 0 (fun x y => flag (x.ult y)) s

/-- MIN (R275). -/
def execMin (d a b : BitVec 6) (s : State) : Host.Outcome State Fault Refusal := runAlu (.min d a b) d a b 0 (fun x y => if x.slt y then x else y) s

/-- MAX (R275). -/
def execMax (d a b : BitVec 6) (s : State) : Host.Outcome State Fault Refusal := runAlu (.max d a b) d a b 0 (fun x y => if x.slt y then y else x) s

/-- MINU (R275). -/
def execMinu (d a b : BitVec 6) (s : State) : Host.Outcome State Fault Refusal := runAlu (.minu d a b) d a b 0 (fun x y => if x.ult y then x else y) s

/-- MAXU (R275). -/
def execMaxu (d a b : BitVec 6) (s : State) : Host.Outcome State Fault Refusal := runAlu (.maxu d a b) d a b 0 (fun x y => if x.ult y then y else x) s

/-- POPC (R275). -/
def execPopc (d a : BitVec 6) (s : State) : Host.Outcome State Fault Refusal := runAlu1 (.popc d a) d a popc64 s

/-- CLZ (R275). -/
def execClz (d a : BitVec 6) (s : State) : Host.Outcome State Fault Refusal := runAlu1 (.clz d a) d a clz64 s

/-- CTZ (R275). -/
def execCtz (d a : BitVec 6) (s : State) : Host.Outcome State Fault Refusal := runAlu1 (.ctz d a) d a ctz64 s

/-- BREV (R275). -/
def execBrev (d a : BitVec 6) (s : State) : Host.Outcome State Fault Refusal := runAlu1 (.brev d a) d a brev64 s

/-- ADDI (R276). -/
def execAddi (d a : BitVec 6) (i : BitVec 14) (s : State) : Host.Outcome State Fault Refusal := runAlu1 (.addi d a i) d a (fun x => x + i.signExtend 64) s

/-- ANDI (R276). -/
def execAndi (d a : BitVec 6) (i : BitVec 12) (s : State) : Host.Outcome State Fault Refusal := runAlu1 (.andi d a i) d a (fun x => x &&& i.setWidth 64) s

/-- ORI (R276). -/
def execOri (d a : BitVec 6) (i : BitVec 12) (s : State) : Host.Outcome State Fault Refusal := runAlu1 (.ori d a i) d a (fun x => x ||| i.setWidth 64) s

/-- XORI (R276). -/
def execXori (d a : BitVec 6) (i : BitVec 12) (s : State) : Host.Outcome State Fault Refusal := runAlu1 (.xori d a i) d a (fun x => x ^^^ i.setWidth 64) s

/-- SLTI (R276). -/
def execSlti (d a : BitVec 6) (i : BitVec 12) (s : State) : Host.Outcome State Fault Refusal := runAlu1 (.slti d a i) d a (fun x => flag (x.slt (i.signExtend 64))) s

/-- SLLI (R276). -/
def execSlli (d a n : BitVec 6) (s : State) : Host.Outcome State Fault Refusal := runAlu1 (.slli d a n) d a (fun x => x <<< n.toNat) s

/-- SRLI (R276). -/
def execSrli (d a n : BitVec 6) (s : State) : Host.Outcome State Fault Refusal := runAlu1 (.srli d a n) d a (fun x => x >>> n.toNat) s

/-- SRAI (R276). -/
def execSrai (d a n : BitVec 6) (s : State) : Host.Outcome State Fault Refusal := runAlu1 (.srai d a n) d a (fun x => x.sshiftRight n.toNat) s

/-- LDHI (R276). -/
def execLdhi (d : BitVec 6) (i : BitVec 19) (s : State) : Host.Outcome State Fault Refusal := runPc (.ldhi d i) d (fun _ => hi19 i) s

/-- ADDPC (R276). -/
def execAddpc (d : BitVec 6) (i : BitVec 19) (s : State) : Host.Outcome State Fault Refusal := runPc (.addpc d i) d (fun pc => pc + hi19 i) s

/-- MUL (R277, R33). -/
def execMul (d a b : BitVec 6) (l : BitVec 4) (s : State) : Host.Outcome State Fault Refusal :=
  runAlu (.mul d a b l) d a b l.toNat (fun x y => x * y) s

/-- MULH (R277, R33). -/
def execMulh (d a b : BitVec 6) (l : BitVec 4) (s : State) : Host.Outcome State Fault Refusal :=
  runAlu (.mulh d a b l) d a b l.toNat (fun x y => mulhs x y) s

/-- MULHU (R277, R33). -/
def execMulhu (d a b : BitVec 6) (l : BitVec 4) (s : State) : Host.Outcome State Fault Refusal :=
  runAlu (.mulhu d a b l) d a b l.toNat (fun x y => mulhu x y) s

/-- DIV (R277, R33). -/
def execDiv (d a b : BitVec 6) (l : BitVec 4) (s : State) : Host.Outcome State Fault Refusal :=
  runAlu (.div d a b l) d a b l.toNat (fun x y => BitVec.ofNat 64 (divS 64 x.toNat y.toNat)) s

/-- DIVU (R277, R33). -/
def execDivu (d a b : BitVec 6) (l : BitVec 4) (s : State) : Host.Outcome State Fault Refusal :=
  runAlu (.divu d a b l) d a b l.toNat (fun x y => BitVec.ofNat 64 (divU 64 x.toNat y.toNat)) s

/-- REM (R277, R33). -/
def execRem (d a b : BitVec 6) (l : BitVec 4) (s : State) : Host.Outcome State Fault Refusal :=
  runAlu (.rem d a b l) d a b l.toNat (fun x y => BitVec.ofNat 64 (remS 64 x.toNat y.toNat)) s

/-- REMU (R277, R33). -/
def execRemu (d a b : BitVec 6) (l : BitVec 4) (s : State) : Host.Outcome State Fault Refusal :=
  runAlu (.remu d a b l) d a b l.toNat (fun x y => BitVec.ofNat 64 (remU 64 x.toNat y.toNat)) s

/-! ### Loads, stores and atomics (R278 to R281) -/

/-- A scalar load of `n` bytes at s(a) + imm7 * n, extended by `ext` (R279). -/
def runLoad (i : Instr) (d a : BitVec 6) (im : BitVec 7) (l : BitVec 4) (n : Nat) (ext : Nat → Word) (s : State) :
    Host.Outcome State Fault Refusal :=
  runGroup inTxn i (fun cx => gotThen (loadVa cx (readS cx a.toNat + im.signExtend 64 * BitVec.ofNat 64 n) n 0 true)
    (fun cx1 v => okWrite cx1 d.toNat (ext v) l.toNat) cx) s

/-- `8 * n` bits sign-extended. -/
def sext (n v : Nat) : Word := BitVec.ofInt 64 (signed (8 * n) v)

/-- LDB (R279). -/
def execLdb (d a : BitVec 6) (i : BitVec 7) (l : BitVec 4) (s : State) : Host.Outcome State Fault Refusal :=
  runLoad (.ldb d a i l) d a i l 1 (sext 1) s

/-- LDBU (R279). -/
def execLdbu (d a : BitVec 6) (i : BitVec 7) (l : BitVec 4) (s : State) : Host.Outcome State Fault Refusal :=
  runLoad (.ldbu d a i l) d a i l 1 (BitVec.ofNat 64) s

/-- LDH (R279). -/
def execLdh (d a : BitVec 6) (i : BitVec 7) (l : BitVec 4) (s : State) : Host.Outcome State Fault Refusal :=
  runLoad (.ldh d a i l) d a i l 2 (sext 2) s

/-- LDHU (R279). -/
def execLdhu (d a : BitVec 6) (i : BitVec 7) (l : BitVec 4) (s : State) : Host.Outcome State Fault Refusal :=
  runLoad (.ldhu d a i l) d a i l 2 (BitVec.ofNat 64) s

/-- LDW (R279). -/
def execLdw (d a : BitVec 6) (i : BitVec 7) (l : BitVec 4) (s : State) : Host.Outcome State Fault Refusal :=
  runLoad (.ldw d a i l) d a i l 4 (sext 4) s

/-- LDWU (R279). -/
def execLdwu (d a : BitVec 6) (i : BitVec 7) (l : BitVec 4) (s : State) : Host.Outcome State Fault Refusal :=
  runLoad (.ldwu d a i l) d a i l 4 (BitVec.ofNat 64) s

/-- LDD (R279). -/
def execLdd (d a : BitVec 6) (i : BitVec 7) (l : BitVec 4) (s : State) : Host.Outcome State Fault Refusal :=
  runLoad (.ldd d a i l) d a i l 8 (BitVec.ofNat 64) s

/-- A scalar store of the low `n` bytes of s(d) at s(a) + imm11 * n (R280). -/
def runStore (i : Instr) (d a : BitVec 6) (im : BitVec 11) (n : Nat) (s : State) : Host.Outcome State Fault Refusal :=
  runGroup inTxn i (fun cx => gotThen
    (storeVa cx (readS cx a.toNat + im.signExtend 64 * BitVec.ofNat 64 n) n ((readS cx d.toNat).toNat % 2 ^ (8 * n)) 0)
    (fun cx1 _ => ok cx1) cx) s

/-- STB (R280). -/
def execStb (d a : BitVec 6) (i : BitVec 11) (s : State) : Host.Outcome State Fault Refusal := runStore (.stb d a i) d a i 1 s

/-- STH (R280). -/
def execSth (d a : BitVec 6) (i : BitVec 11) (s : State) : Host.Outcome State Fault Refusal := runStore (.sth d a i) d a i 2 s

/-- STW (R280). -/
def execStw (d a : BitVec 6) (i : BitVec 11) (s : State) : Host.Outcome State Fault Refusal := runStore (.stw d a i) d a i 4 s

/-- STD (R280). -/
def execStd (d a : BitVec 6) (i : BitVec 11) (s : State) : Host.Outcome State Fault Refusal := runStore (.std d a i) d a i 8 s

/-- Bytes of an atomic's size field. -/
def atomBytes (z : BitVec 1) : Nat := if z = 0 then 4 else 8

/-- ATOM (R281). The ordering code has no effect in a machine that performs every access in order. -/
def execAtom (d a : BitVec 6) (z : BitVec 1) (o p l : BitVec 4) (s : State) : Host.Outcome State Fault Refusal :=
  runGroup {} (.atom d a z o p l) (fun cx =>
    if p.toNat > 8 then illegal cx (encode (.atom d a z o p l))
    else gotThen (atomicVa cx (readS cx a.toNat) (atomBytes z) 0 fun old => some (atomNew (8 * atomBytes z) p.toNat old (readS cx d.toNat).toNat))
      (fun cx1 old => okWrite cx1 d.toNat (sext (atomBytes z) old) l.toNat) cx) s

/-- CAS (R281): the pair d, d + 1 with d even and not 0. -/
def execCas (d a : BitVec 6) (z : BitVec 1) (o l : BitVec 4) (s : State) : Host.Outcome State Fault Refusal :=
  runGroup {} (.cas d a z o l) (fun cx =>
    let w := 8 * atomBytes z
    if d.toNat = 0 ∨ d.toNat % 2 = 1 then illegal cx (encode (.cas d a z o l))
    else gotThen (atomicVa cx (readS cx a.toNat) (atomBytes z) 0 fun old =>
        if old = (readS cx d.toNat).toNat % 2 ^ w then some ((readS cx (d.toNat + 1)).toNat % 2 ^ w) else none)
      (fun cx1 old => okWrite cx1 d.toNat (sext (atomBytes z) old) l.toNat) cx) s

/-! ### Predicates (R282, R283) -/

/-- Reads or writes a predicate: permitted in a transaction, waits for a block (R273). -/
def predRules : Rules := { txn := true, wait := true }

/-- PCMP (R282). -/
def execPcmp (p : BitVec 7) (a b : BitVec 6) (c : BitVec 3) (s : State) : Host.Outcome State Fault Refusal :=
  runGroup predRules (.pcmp p a b c) (fun cx =>
    if c.toNat > 5 then illegal cx (encode (.pcmp p a b c))
    else ok (putPredAll cx p.toNat (condHolds 64 c.toNat (readS cx a.toNat).toNat (readS cx b.toNat).toNat))) s

/-- PCMPI (R282). -/
def execPcmpi (p : BitVec 7) (a i : BitVec 6) (c : BitVec 3) (s : State) : Host.Outcome State Fault Refusal :=
  runGroup predRules (.pcmpi p a i c) (fun cx =>
    if c.toNat > 5 then illegal cx (encode (.pcmpi p a i c))
    else ok (putPredAll cx p.toNat (condHolds 64 c.toNat (readS cx a.toNat).toNat (i.signExtend 64).toNat))) s

/-- Predicate logic (R283): on every bit up to VLMAX - 1 in the control thread, on the VP's own bit in a block. -/
def runLogic (i : Instr) (d a b : BitVec 7) (f : Nat → Nat → Nat) (s : State) : Host.Outcome State Fault Refusal :=
  runVector predRules i (fun cx =>
    match cx.vps with
    | none => ok { cx with g := putPred cx.g d.toNat (lowMask (cxVlmax cx)) (f (predImage cx a.toNat 0) (predImage cx b.toNat 0) % 2 ^ cxVlmax cx) }
    | some _ => okPred cx d.toNat 0 fun i => bit (f (if predBit cx a.toNat i then pOnes else 0) (if predBit cx b.toNat i then pOnes else 0) % 2) 0) s

/-- PANY and PALL in the control thread: over the active elements (R283); in a block pd := pa. -/
def runQuant (i : Instr) (d a : BitVec 7) (f : Cx → Bool) (s : State) : Host.Outcome State Fault Refusal :=
  runVector predRules i (fun cx =>
    match cx.vps with
    | none => ok (putPredAll cx d.toNat (f cx))
    | some _ => okPred cx d.toNat 0 (predBit cx a.toNat)) s

/-- PAND (R283). -/
def execPand (d a b : BitVec 7) (s : State) : Host.Outcome State Fault Refusal := runLogic (.pand d a b) d a b (· &&& ·) s

/-- POR (R283). -/
def execPor (d a b : BitVec 7) (s : State) : Host.Outcome State Fault Refusal := runLogic (.por d a b) d a b (· ||| ·) s

/-- PXOR (R283). -/
def execPxor (d a b : BitVec 7) (s : State) : Host.Outcome State Fault Refusal := runLogic (.pxor d a b) d a b (· ^^^ ·) s

/-- PNOT (R283). -/
def execPnot (d a : BitVec 7) (s : State) : Host.Outcome State Fault Refusal := runLogic (.pnot d a) d a a (fun x _ => x ^^^ pOnes) s

/-- PMOV (R283). -/
def execPmov (d a : BitVec 7) (s : State) : Host.Outcome State Fault Refusal := runLogic (.pmov d a) d a a (fun x _ => x) s

/-- PANY (R283). -/
def execPany (d a : BitVec 7) (s : State) : Host.Outcome State Fault Refusal :=
  runQuant (.pany d a) d a (fun cx => (active cx).any (predBit cx a.toNat)) s

/-- PALL (R283). -/
def execPall (d a : BitVec 7) (s : State) : Host.Outcome State Fault Refusal :=
  runQuant (.pall d a) d a (fun cx => (active cx).all (predBit cx a.toNat)) s

/-! ### Branches and calls (R284 to R287) -/

/-- The target of a word offset. -/
def target {n : Nat} (pc : Word) (o : BitVec n) : Word := pc + o.signExtend 64 * 4

def goSeq (sx : Sx) (t : Word) : SOut := { sx := sx, fate := .go t }

def goCtl (cx : Cx) (t : Word) : Out := { cx := cx, fate := .go t }

/-- BRA (R285). -/
def execBra (o : BitVec 23) (s : State) : Host.Outcome State Fault Refusal :=
  runBoth inTxn (.bra o) (fun cx => goCtl cx (target cx.g.th.pc o)) (fun sx => goSeq sx (target sx.q.th.pc o)) s

/-- BP and BNP (R285): on VP 0's bit of the predicate, or in the matrix stream on k(c[4:0]) being non-zero. -/
def runBranch (i : Instr) (c : BitVec 7) (o : BitVec 16) (want : Bool) (s : State) : Host.Outcome State Fault Refusal :=
  runBoth predRules i
    (fun cx => if predBit cx c.toNat 0 = want then goCtl cx (target cx.g.th.pc o) else ok cx)
    (fun sx =>
      if c.toNat ≥ 32 then illegalSeq sx (encode i)
      else if decide (readX sx.q.th c.toNat ≠ 0) = want then goSeq sx (target sx.q.th.pc o) else okSeq sx) s

/-- BP (R285). -/
def execBp (c : BitVec 7) (o : BitVec 16) (s : State) : Host.Outcome State Fault Refusal := runBranch (.bp c o) c o true s

/-- BNP (R285). -/
def execBnp (c : BitVec 7) (o : BitVec 16) (s : State) : Host.Outcome State Fault Refusal := runBranch (.bnp c o) c o false s

/-- LOOP (R286). -/
def execLoop (c : BitVec 6) (o : BitVec 16) (s : State) : Host.Outcome State Fault Refusal :=
  runBoth inTxn (.loop c o)
    (fun cx =>
      let n := readS cx c.toNat
      if c = 0 then illegal cx (encode (.loop c o))
      else if n = 0 then ok cx
      else
        let cx1 := withTh cx (writeX cx.g.th c.toNat (n - 1))
        if n = 1 then ok cx1 else goCtl cx1 (target cx.g.th.pc o))
    (fun sx =>
      let n := readX sx.q.th c.toNat
      if c = 0 ∨ !kOk [c] then illegalSeq sx (encode (.loop c o))
      else if n = 0 then okSeq sx
      else
        let sx1 := withSeqTh sx (writeX sx.q.th c.toNat (n - 1))
        if n = 1 then okSeq sx1 else goSeq sx1 (target sx.q.th.pc o)) s

/-- JMP (R285). -/
def execJmp (o : BitVec 23) (s : State) : Host.Outcome State Fault Refusal :=
  runGroup inTxn (.jmp o) (fun cx => goCtl cx (target cx.g.th.pc o)) s

/-- CALL (R285): the link goes to s63. -/
def execCall (o : BitVec 23) (s : State) : Host.Outcome State Fault Refusal :=
  runGroup inTxn (.call o) (fun cx => goCtl (withTh cx (writeX cx.g.th 63 (cx.g.th.pc + 4))) (target cx.g.th.pc o)) s

/-- A jump to a register target: a target that is no word address traps at the jump, with no link written (R284). -/
def jumpTo (cx : Cx) (t : Word) (link : Option Nat) : Out :=
  if t.toNat % 4 ≠ 0 then { cx := cx, fate := .trap 4 t }
  else match link with
    | some d => goCtl (withTh cx (writeX cx.g.th d (cx.g.th.pc + 4))) t
    | none => goCtl cx t

/-- JR (R287). -/
def execJr (a : BitVec 6) (s : State) : Host.Outcome State Fault Refusal :=
  runGroup inTxn (.jr a) (fun cx => jumpTo cx (readS cx a.toNat) none) s

/-- CALLR (R287): the target is read before the link is written. -/
def execCallr (d a : BitVec 6) (s : State) : Host.Outcome State Fault Refusal :=
  runGroup inTxn (.callr d a) (fun cx => jumpTo cx (readS cx a.toNat) (some d.toNat)) s

/-- RET (R287). -/
def execRet (s : State) : Host.Outcome State Fault Refusal := runGroup inTxn .ret (fun cx => jumpTo cx (readS cx 63) none) s

/-! ### Scalar floating point (R288, R289) -/

/-- Completes with a code and its flags written to s(d). -/
def okFloat (cx : Cx) (d : Nat) (r : Nat × Nat) : Out :=
  okWrite { cx with g := raise cx.g r.2 } d (BitVec.ofNat 64 r.1) 0

/-- A scalar floating-point operation in format `f` (R288): codes 3 to 15 are illegal. -/
def runFp (i : Instr) (d : BitVec 6) (f : BitVec 4) (op : Cx → Nat × Nat) (s : State) : Host.Outcome State Fault Refusal :=
  runGroup inTxn i (fun cx => if f.toNat > 2 then illegal cx (encode i) else okFloat cx d.toNat (op cx)) s

/-- FADD (R288). -/
def execFadd (d a b : BitVec 6) (f : BitVec 4) (s : State) : Host.Outcome State Fault Refusal :=
  runFp (.fadd d a b f) d f (fun cx => Machine.fadd f.toNat cx.g.fcsr (readS cx a.toNat).toNat (readS cx b.toNat).toNat) s

/-- FMUL (R288). -/
def execFmul (d a b : BitVec 6) (f : BitVec 4) (s : State) : Host.Outcome State Fault Refusal :=
  runFp (.fmul d a b f) d f (fun cx => Machine.fmul f.toNat cx.g.fcsr (readS cx a.toNat).toNat (readS cx b.toNat).toNat) s

/-- FFMA (R288): s(d) is the addend. -/
def execFfma (d a b : BitVec 6) (f : BitVec 4) (s : State) : Host.Outcome State Fault Refusal :=
  runFp (.ffma d a b f) d f
    (fun cx => Machine.ffma f.toNat cx.g.fcsr (readS cx a.toNat).toNat (readS cx b.toNat).toNat (readS cx d.toNat).toNat) s

/-- Whether a code names a floating format of R289. -/
def cvtFloat (f : Nat) : Bool := decide (f ≤ 2)

/-- Whether a code names an integer format of R289. -/
def cvtInt (f : Nat) : Bool := decide (8 ≤ f) && decide (f ≤ 11)

/-- Whether FCVT accepts a pair; `uns` asks for an integer side (R289). -/
def cvtOk (src t : Nat) (uns : Bool) : Bool :=
  (cvtFloat src || cvtInt src) && (cvtFloat t || cvtInt t) && !(cvtInt src && cvtInt t) && !(decide (src = t)) &&
    (!uns || cvtInt src || cvtInt t)

/-- Converts an element between formats (R289, R313, R314): the image, sign- or zero-extended to 64 bits for an integer
target, and the flags. FTZ does not apply. -/
def convert (x src t mode : Nat) (sat uns : Bool) : Nat × Nat :=
  let v := if src ≤ 7 then decodeF src (x % 2 ^ fmtWidth src) else ofInteger (intValue (fmtWidth src) uns x)
  if t ≤ 7 then narrow v t mode sat
  else
    let r := toInteger v mode (intLo (fmtWidth t) uns) (intHi (fmtWidth t) uns)
    (wrap 64 r.1, r.2)

/-- FCVT with a signed or unsigned integer side (R289). -/
def runFcvt (i : Instr) (d a : BitVec 6) (src t : BitVec 4) (r : BitVec 2) (uns : Bool) (s : State) : Host.Outcome State Fault Refusal :=
  runGroup inTxn i (fun cx =>
    if cvtOk src.toNat t.toNat uns then okFloat cx d.toNat (convert (readS cx a.toNat).toNat src.toNat t.toNat r.toNat false uns)
    else illegal cx (encode i)) s

/-- FCVT (R289). -/
def execFcvt (d a : BitVec 6) (f : BitVec 4) (r : BitVec 2) (t : BitVec 4) (s : State) : Host.Outcome State Fault Refusal :=
  runFcvt (.fcvt d a f r t) d a f t r false s

/-- FCVT.UNS (R289). -/
def execFcvtUns (d a : BitVec 6) (f : BitVec 4) (r : BitVec 2) (t : BitVec 4) (s : State) : Host.Outcome State Fault Refusal :=
  runFcvt (.fcvtUns d a f r t) d a f t r true s

/-! ### CSR access (R250 to R252, R290) -/

/-- TOKS (R171). -/
def toksWord (th : Thread) : Word := (th.err ++ th.pend).setWidth 64

/-- Code of a sharing mode (R109). -/
def modeCode : Sharing → Nat | .unshared => 0 | .half => 1 | .quarter => 2

/-- CLASS (R109). -/
def classWord (t : Target) : Word :=
  BitVec.ofNat 64 (clusterClass t.cluster + 2 * modeCode t.mode + 8 * t.share + 32 * t.core + 2 ^ 14 * t.cluster)

/-- GIDX (R109). -/
def gidxWord (kn : Kernel) (i : Nat) : Word := BitVec.ofNat 64 (i + if i < kn.prod then 0 else 16)

/-- TRAPC, TRAPV and EPC as a group reads them: a handler group reads those of the agent it handles (R378). -/
def trapCsrs (iv : Invoc) (th : Thread) : Word × Word × Word :=
  match iv.kind with
  | .handler _ _ _ c v e => (c.setWidth 64, v, e)
  | _ => (th.trapc.setWidth 64, th.trapv, th.epc)

/-- The value of a CSR as the control thread of a group reads it; `none` for a number with no entry (R250). -/
def csrGroup (cx : Cx) (t : Team) (iv : Invoc) (c : Ctx) (n : Nat) : Option Word :=
  let g := cx.g
  match n with
  | 0x000 => some (BitVec.ofNat 64 (readVlen cx))
  | 0x001 => some g.vtype
  | 0x002 => some g.vmask
  | 0x003 => some g.vstride
  | 0x004 => some g.ecar
  | 0x005 => some g.ridx
  | 0x006 => some g.fcsr
  | 0x007 => some g.siga
  | 0x008 => some g.txs
  | 0x009 => some (toksWord g.th)
  | 0x00A => some (BitVec.ofNat 64 cx.s.clk)
  | 0x010 => some 0
  | 0x011 => some (gidxWord cx.kn cx.i)
  | 0x012 => some (BitVec.ofNat 64 t.tidx)
  | 0x013 => some (BitVec.ofNat 64 (t.tidx % iv.gang))
  | 0x014 => some (classWord t.target)
  | 0x015 => some (BitVec.ofNat 64 t.target.gmaxm)
  | 0x016 => some (BitVec.ofNat 64 t.target.gmaxn)
  | 0x017 => some (BitVec.ofNat 64 t.target.gmaxk)
  | 0x018 => some (if c.heap.enabled then c.heap.hapva else 0)
  | 0x020 => some (trapCsrs iv g.th).1
  | 0x021 => some (trapCsrs iv g.th).2.1
  | 0x022 => some (epcWord (trapCsrs iv g.th).2.2)
  | _ => none

/-- FCSR with its RW fields written: RM 4 to 7 leaves RM (R36). -/
def fcsrPut (old v : Word) : Word :=
  BitVec.ofNat 64 (setBits (bits v.toNat 0 9) 0 3 (if bits v.toNat 0 3 < 4 then bits v.toNat 0 3 else bits old.toNat 0 3))

/-- VTYPE with its RW fields written (R251): FMT 12 to 15 and BLK 4 to 7 leave their fields, XVE needs the xv feature. -/
def vtypePut (old v : Word) (xv : Bool) : Word :=
  let fmt := if bits v.toNat 0 4 < 12 then bits v.toNat 0 4 else bits old.toNat 0 4
  let blk := if bits v.toNat 4 3 < 4 then bits v.toNat 4 3 else bits old.toNat 4 3
  let xve := if v.getLsbD 7 && !xv then old.getLsbD 7 else v.getLsbD 7
  BitVec.ofNat 64 (bits old.toNat 8 4 * 256 + (if xve then 128 else 0) + blk * 16 + fmt)

/-- Writes the value `v` to the RW fields of a CSR of the group; `clr` are the bits written 1 to W1C fields (R252). Writes
to read-only CSRs are ignored. -/
def csrPut (cx : Cx) (c : Ctx) (n : Nat) (v clr : Word) : Group :=
  let g := cx.g
  match n with
  | 0x000 => putVlen g (Nat.min v.toNat (cxVlmax cx))
  | 0x001 =>
    let g1 := { g with vtype := vtypePut g.vtype v (hasFeature c 12) }
    if vtFmt g1 = vtFmt g then g1 else putVlen g1 (Nat.min (readVlen cx) (vlmax cx.kn g1))
  | 0x002 => { g with vmask := BitVec.ofNat 64 (bits v.toNat 0 7) }
  | 0x003 => { g with vstride := v }
  | 0x004 => { g with ecar := BitVec.ofNat 64 (bits v.toNat 0 32) }
  | 0x006 => { g with fcsr := fcsrPut g.fcsr v }
  | 0x007 => { g with siga := v }
  | 0x009 => { g with th := { g.th with err := g.th.err &&& ~~~(BitVec.ofNat 8 (bits clr.toNat 8 8)) } }
  | _ => g

/-- Whether a write of a CSR waits for a block in progress (R273). -/
def csrWaits (n : Nat) : Bool := decide (n ≤ 4) || decide (n = 7)

/-- A CSR instruction: the old value goes to s(d), then `f old s(a)` to the RW fields (R252). -/
def runCsr (i : Instr) (d : BitVec 6) (n : BitVec 12) (a : Option (BitVec 6)) (f : Word → Word → Word) (w1c : Bool) (s : State) :
    Host.Outcome State Fault Refusal :=
  runGroup {} i (fun cx =>
    match getTeam cx.s cx.k, invOf cx.s cx.k, getCtx cx.s cx.cn with
    | some t, some iv, some c =>
      (match csrGroup cx t iv c n.toNat with
        | none => illegal cx (encode i)
        | some old =>
          match a with
          | none => okWrite cx d.toNat old 0
          | some a =>
            if csrWaits n.toNat ∧ cx.g.block.isSome then { cx := cx, fate := .stay }
            else
              let x := readS cx a.toNat
              let g := csrPut cx c n.toNat (f old x) (if w1c then x else 0)
              okWrite { cx with g := g } d.toNat old 0)
    | _, _, _ => illegal cx (encode i)) s

/-- CSRR (R290). -/
def execCsrr (d : BitVec 6) (c : BitVec 12) (s : State) : Host.Outcome State Fault Refusal :=
  runCsr (.csrr d c) d c none (fun old _ => old) false s

/-- CSRW (R252). -/
def execCsrw (d a : BitVec 6) (c : BitVec 12) (s : State) : Host.Outcome State Fault Refusal :=
  runCsr (.csrw d a c) d c (some a) (fun _ x => x) true s

/-- CSRS (R252). -/
def execCsrs (d a : BitVec 6) (c : BitVec 12) (s : State) : Host.Outcome State Fault Refusal :=
  runCsr (.csrs d a c) d c (some a) (fun old x => old ||| x) true s

/-- CSRC (R252). -/
def execCsrc (d a : BitVec 6) (c : BitVec 12) (s : State) : Host.Outcome State Fault Refusal :=
  runCsr (.csrc d a c) d c (some a) (fun old x => old &&& ~~~x) false s

end Sys2Proof.Machine
end

