-- ==== Sys2Proof/Machine/Frame.lean ====
section
/-! DEFINITION. The trap frame (R380): its bytes for a group and a sequencer, writing one at a VA, and the return from a trap, which applies a frame to an agent (R381). -/
namespace Sys2Proof.Machine

/-! ### Long accesses of the device itself -/

/-- Writes bytes at a VA of a context page by page; `none` when a page is not mapped with W. `fuel` bounds the pages. -/
def deviceWriteLong (cn : Nat) : Nat → State → Nat → List Byte → Option State
  | 0, s, _, _ => some s
  | fuel + 1, s, va, bs =>
    if bs = [] then some s
    else
      let n := 4096 - va % 4096
      (deviceWrite s cn va (bs.take n)).bind fun s1 => deviceWriteLong cn fuel s1 (va + n) (bs.drop n)

/-- Reads bytes at a VA of a context page by page: the bytes, or the address at which the read fails. -/
def deviceReadLong (cn : Nat) : Nat → State → Nat → Nat → State × (List Byte ⊕ Nat)
  | 0, s, _, _ => (s, .inl [])
  | fuel + 1, s, va, n =>
    if n = 0 then (s, .inl [])
    else
      let m := Nat.min n (4096 - va % 4096)
      match deviceRead s cn va m with
      | (s1, none) => (s1, .inr va)
      | (s1, some bs) =>
        match deviceReadLong cn fuel s1 (va + m) (n - m) with
        | (s2, .inl r) => (s2, .inl (bs ++ r))
        | (s2, .inr e) => (s2, .inr e)

/-! ### Sections (R380) -/

/-- Bytes of a frame slot: 512 KiB. -/
def frameSize : Nat := 2 ^ 19

/-- Bytes one register takes in the V section. -/
def vBytes (kn : Kernel) (g : Group) : Nat := 512 * kn.budget / nvCount g * lanes kn.width

/-- Bytes one predicate takes in the P section. -/
def pBytes (kn : Kernel) (g : Group) : Nat := ceilDiv (vlmax kn g) 64 * 8

/-- `n` words of 8 bytes each. -/
def wordsBytes (f : Nat → Word) (n : Nat) : List Byte := (upFrom 0 n).flatMap fun i => natBytes (f i).toNat 8

def sBytes (th : Thread) : List Byte := wordsBytes (fun i => if i = 0 then 0 else rawX th i) 64
def hBytes (g : Group) : List Byte := wordsBytes (fun i => tgetD g.h i 0) 16
def vSection (kn : Kernel) (g : Group) : List Byte := (upFrom 0 (nvCount g)).flatMap fun n => natBytes (tgetD g.v n 0) (vBytes kn g)
def pSection (kn : Kernel) (g : Group) : List Byte :=
  (upFrom 0 128).flatMap fun n => natBytes (if n = 0 then lowMask (vlmax kn g) else tgetD g.p n 0) (pBytes kn g)

/-- Code of a VP's condition. -/
def condCode : VpCond → Nat | .run => 1 | .join => 2 | .stop => 3

/-- The record of VP i in the VP section. -/
def vpRecord (b : Block) (i : Nat) : Nat :=
  match tget b.vps i with
  | some v => condCode v.cond * 2 ^ 62 + v.pc.toNat % 2 ^ 57
  | none => 0

def vpSection (kn : Kernel) (g : Group) : List Byte :=
  match g.block with
  | some b => wordsBytes (fun i => tgetD b.snap i 0) 64 ++ (upFrom 0 (vlmax kn g)).flatMap fun i => natBytes (vpRecord b i) 8
  | none => []

/-- MSTAT as TGET reads it (R161): the accumulators' states in ASTATE. -/
def mstatWord (q : Seq) : Word :=
  let st : AccState → Nat := fun a => match a with | .closed => 0 | .opened => 1 | .saved => 2
  BitVec.ofNat 64 (bits q.mstat.toNat 0 16 + packBits (fun n => ((lget q.accs n).map fun a => st a.st).getD 0) 2 0 4 * 2 ^ 16)

def kSection (q : Seq) : List Byte :=
  wordsBytes (fun i => if i = 0 then 0 else rawX q.th i) 32 ++ (upFrom 0 8).flatMap (fun i => natBytes (tgetD q.m i 0).toNat 32) ++
    natBytes q.gm 8 ++ natBytes q.gn 8 ++ natBytes q.gk 8 ++ natBytes q.fmt.toNat 8 ++ natBytes (mstatWord q).toNat 8

/-- The ENG section, whose layout the spec does not give (DESIGN CHOICE, log entry 11). -/
def engSection : List Byte := (upFrom 0 Config.engLen.toNat).map Config.engByte

/-- Offsets of sections that stand one behind the other from an offset on; 0 for an absent one (log entry 15). -/
def sectOffsets : Nat → List (List Byte) → List Nat
  | _, [] => []
  | o, b :: r => (if b = [] then 0 else o) :: sectOffsets (o + b.length) r

/-- What a frame's header says of its agent. -/
structure FrameHead where
  cause : Nat
  seqAgent : Bool
  block : Bool
  value : Word
  epc : Word
  seq : Nat
  tidx : Nat
  inv : Nat
  group : Nat
  vlmax : Nat
  csrs : List Word
  cls : Word
deriving DecidableEq, Repr

/-- The 256-byte header and the sections (DEDUCED, log entry 15). -/
def frameImage (kn : Kernel) (h : FrameHead) (sections : List (List Byte)) : List Byte :=
  natBytes 1 2 ++ natBytes h.cause 1 ++ natBytes (if h.seqAgent then 1 else 0) 1 ++
    natBytes ((if h.block then 1 else 0) + (if h.cause = 0x11 then 2 else 0)) 4 ++ natBytes h.value.toNat 8 ++ natBytes h.epc.toNat 8 ++
    natBytes h.seq 8 ++ natBytes h.tidx 6 ++ natBytes h.inv 2 ++ natBytes h.group 1 ++ natBytes kn.width 1 ++ natBytes kn.budget 1 ++
    natBytes 0 1 ++ natBytes h.vlmax 2 ++ natBytes 0 18 ++ (h.csrs.flatMap fun c => natBytes c.toNat 8) ++ natBytes h.cls.toNat 8 ++
    natBytes 0 8 ++ ((sectOffsets 0x100 sections).flatMap fun o => natBytes o 8) ++ natBytes 0 40 ++ sections.flatten

/-- The CSRS block of a group. -/
def groupCsrs (g : Group) : List Word :=
  [g.vlen, g.vtype, g.vmask, g.vstride, g.ecar, g.ridx, g.fcsr, g.siga, g.txs, toksWord g.th]

/-- A section as the frame of a trap holds it: under cause 0x11 the sections of register files that could not be read hold zero
(R376). Which these are is open: a free value (DESIGN CHOICE, log entry 80). -/
def heldSection (draw cause j : Nat) (bs : List Byte) : List Byte :=
  if cause = 0x11 ∧ (Config.freeWord draw (2 ^ 21 + j)).getLsbD 0 then List.replicate bs.length 0 else bs

/-- The frame of group `i` (R380). -/
def groupFrame (draw : Nat) (kn : Kernel) (t : Team) (i : Nat) (g : Group) (cause seq : Nat) (value epc : Word) : List Byte :=
  frameImage kn { cause := cause, seqAgent := false, block := g.block.isSome, value := value, epc := epc, seq := seq, tidx := t.tidx,
                  inv := invNum t.inv, group := i, vlmax := vlmax kn g, csrs := groupCsrs g, cls := classWord t.target }
    [heldSection draw cause 0 (sBytes g.th), heldSection draw cause 1 (hBytes g), heldSection draw cause 2 (vSection kn g),
      heldSection draw cause 3 (pSection kn g), heldSection draw cause 4 (vpSection kn g), [], engSection]

/-- The frame of the sequencer. -/
def seqFrame (draw : Nat) (kn : Kernel) (t : Team) (q : Seq) (cause seq : Nat) (value epc : Word) : List Byte :=
  frameImage kn { cause := cause, seqAgent := true, block := false, value := value, epc := epc, seq := seq, tidx := t.tidx,
                  inv := invNum t.inv, group := 0, vlmax := 0, csrs := [0, 0, 0, 0, 0, 0, 0, 0, 0, toksWord q.th], cls := classWord t.target }
    [[], [], [], [], [], heldSection draw cause 5 (kSection q), engSection]

/-- The frame of an agent of a team. -/
def agentFrame (s : State) (k a cause seq : Nat) (value epc : Word) : Option (List Byte) :=
  match getTeam s k, invOf s k with
  | some t, some iv =>
    if a = 16 then t.seq.map fun q => seqFrame s.draws iv.kernel t q cause seq value epc
    else (lget t.groups a).map fun g => groupFrame s.draws iv.kernel t a g cause seq value epc
  | _, _ => none

/-! ### Applying a frame (R381) -/

/-- The number at an offset of a frame. -/
def frameNat (bs : List Byte) (off n : Nat) : Nat := bytesNat ((bs.drop off).take n)

def frameWord (bs : List Byte) (off : Nat) : Word := BitVec.ofNat 64 (frameNat bs off 8)

/-- The word in memory at an address of a context, where it is mapped. -/
def peekWord (s : State) (cn va : Nat) : Option IWord :=
  (getCtx s cn).bind fun c => (peek (tables s) c.root va).map fun r => BitVec.ofNat 32 (readNat s.mem r.1 4)

/-- Whether a word is a vector store, scatter or vector atomic. -/
def isVectorStore (w : IWord) : Bool :=
  match decode w with
  | some (.vst ..) => true | some (.vsts ..) => true | some (.vstx ..) => true | some (.vstxSx ..) => true
  | some (.vamo ..) => true | some (.vredm ..) => true | some (.vcas ..) => true | some (.vhstd ..) => true
  | _ => false

/-- Whether a word is a vector load. -/
def isVectorLoad (w : IWord) : Bool :=
  match decode w with
  | some (.vld ..) => true | some (.vlds ..) => true | some (.vldx ..) => true | some (.vldxSx ..) => true
  | some (.vhld ..) => true | some (.vhldd ..) => true
  | _ => false

/-- Registers 1 to n - 1 from a section. -/
def applyRegs (old : Tbl Word) (bs : List Byte) (off n : Nat) : Tbl Word :=
  (upFrom 1 (n - 1)).foldl (fun t i => tputD t i (frameWord bs (off + 8 * i)) 0) old

/-- The program counter of VP i in the VP section. -/
def frameVpPc (bs : List Byte) (off i : Nat) : Word := BitVec.ofNat 64 (frameNat bs (off + 512 + 8 * i) 8 % 2 ^ 57)

/-- The VPs with the program counters of the VP section. Where the trap or fault was taken in the block, at `took`, an EPC that the
frame changes is the program counter of the VPs that took it (DEDUCED, log entry 95). -/
def applyVps (b : Block) (bs : List Byte) (off : Nat) (took : Option Word) (epc : Word) : Block :=
  { b with vps := tmap b.vps fun i v =>
      { v with pc := if v.cond = .run ∧ took = some v.pc ∧ epc ≠ v.pc then epc else frameVpPc bs off i } }

/-- CSRS but RIDX, TXS and TOKS, written under their field rules; the windows stand as they are. -/
def applyCsrs (cx : Cx) (c : Ctx) (bs : List Byte) : Group :=
  let w := fun (cx : Cx) (n off : Nat) => { cx with g := csrPut cx c n (frameWord bs off) 0 }
  let cx1 := w (w (w (w (w (w (w cx 0 0x40) 1 0x48) 2 0x50) 3 0x58) 4 0x60) 6 0x70) 7 0x78
  { cx1.g with th := { cx1.g.th with wins := cx.g.th.wins }, block := cx.g.block }

/-- Where the V section of a group's frame begins. -/
def oV : Nat := 0x100 + 512 + 128

/-- Where its P section begins. -/
def oP (kn : Kernel) (g : Group) : Nat := oV + vBytes kn g * nvCount g

/-- Where its VP section begins. -/
def oVp (kn : Kernel) (g : Group) : Nat := oP kn g + pBytes kn g * 128

/-- The writable parts of a group's frame, as offsets and lengths: EPC, CSRS up to SIGA, the sections S to P, the VPs' program
counters (R380). -/
def groupParts (kn : Kernel) (g : Group) : List (Nat × Nat) :=
  [(0x10, 8), (0x40, 64), (0x100, oVp kn g - 0x100)] ++ (if g.block.isSome then [(oVp kn g + 512, 8 * vlmax kn g)] else [])

/-- The writable parts of a sequencer's frame: EPC, k and m. -/
def seqParts : List (Nat × Nat) := [(0x10, 8), (0x100, 512)]

/-- Whether the instruction at the EPC of a frame is a load that consumed poison, so that it resumes at RIDX (R375, R381): a vector
load, the one the agent's poison trap was taken at and not its fetch (whose TRAPV is its own address), not completed since. -/
def poisonedLoad (s : State) (cn : Nat) (g : Group) (epc : Word) : Bool :=
  ((peekWord s cn epc.toNat).map isVectorLoad).getD false && decide (g.th.trapc = 0x10) && decide (epc = g.th.epc) &&
    decide (g.th.trapv ≠ epc) && (decide (g.th.run = .parkedFault) || decide (g.ridx ≠ 0))

/-- A control thread with the s registers and the EPC of a frame; a convoy does not go on at another address (R111). The EPC of a trap
taken in a block is not the control thread's (DEDUCED, log entry 95). -/
def frameThread (th : Thread) (bs : List Byte) (epc : Word) : Thread :=
  let pc := if th.inBlock.isSome then th.pc else epc
  { th with x := applyRegs th.x bs 0x100 64, pc := pc, convoy := if pc = th.pc then th.convoy else 0 }

/-- Applies the writable parts of a frame to a group. -/
def applyGroup (s : State) (k i : Nat) (g : Group) (kn : Kernel) (cn : Nat) (c : Ctx) (bs : List Byte) : Group :=
  let g1 := applyCsrs { s := s, k := k, i := i, g := g, vps := none, kn := kn, cn := cn } c bs
  let epc := frameWord bs 0x10
  let ridx := frameNat bs 0x68 8 % 2 ^ 13
  let keep := poisonedLoad s cn g epc || ((peekWord s cn epc.toNat).map isVectorStore).getD false
  { g1 with
    h := (upFrom 0 16).foldl (fun t j => tputD t j (frameWord bs (0x300 + 8 * j)) 0) g1.h
    v := (upFrom 0 (nvCount g)).foldl (fun t j => tputD t j (frameNat bs (oV + vBytes kn g * j) (vBytes kn g)) 0) g1.v
    p := (upFrom 1 127).foldl (fun t j => tputD t j (merge (tgetD t j 0) (lowMask (8 * pBytes kn g)) (frameNat bs (oP kn g + pBytes kn g * j) (pBytes kn g))) 0) g1.p
    ridx := if keep then BitVec.ofNat 64 ridx else 0
    block := g1.block.map fun b => applyVps b bs (oVp kn g) g.th.inBlock epc
    th := frameThread g1.th bs epc }

/-- Applies the writable parts of a frame to a sequencer: k and m registers. Its resumption is an acquire, which empties the scale
cache (R155, R381). -/
def applySeq (q : Seq) (bs : List Byte) : Seq :=
  let o := 0x100
  { q with
    cache := []
    m := (upFrom 0 8).foldl (fun t j => tputD t j (BitVec.ofNat 256 (frameNat bs (o + 256 + 32 * j) 32)) 0) q.m
    th := { q.th with x := applyRegs q.th.x bs o 32, pc := frameWord bs 0x10 } }

/-- The state a thread goes back to when what parked it is resolved: the wait that was set aside, a watch with an evaluation due, else
READY, or that is its recorded state (R120); a sequencer has no READY state (R121) (DEDUCED, log entry 94). -/
def resumedRun (a : Nat) (th : Thread) : Run :=
  match th.aside with
  | some (.waitMem w) => .waitMem { w with due := true }
  | some r => r
  | none => if a = 16 then .running else .ready

/-- The thread of agent `a` after a trap or fault is resolved (R120, R121). -/
def resumeThread (a : Nat) (th : Thread) : Thread := { th with run := resumedRun a th, park := .none, inBlock := none, aside := none }

/-- Applies a frame to an agent of a team, resident or saved. -/
def applyFrame (s : State) (k a : Nat) (bs : List Byte) : State :=
  match getTeam s k, invOf s k, ctxOf s k with
  | some t, some iv, some c =>
    if a = 16 then (match t.seq with | some q => putSeq s k (applySeq q bs) | none => s)
    else match lget t.groups a with
      | some g => putGroup s k a (applyGroup s k a g iv.kernel iv.ctx c bs)
      | none => s
  | _, _, _ => s

/-- Pages a frame meets at most. -/
def framePages : Nat := 130

/-- The parts of a frame that are written back (R380). -/
def frameParts (s : State) (k a : Nat) : List (Nat × Nat) :=
  if a = 16 then seqParts
  else match getGroup s k a, invOf s k with
    | some g, some iv => groupParts iv.kernel g
    | _, _ => []

/-- Reads parts of a frame at a VA, in ascending order from offset `o` on, what lies between them as zero: the bytes, or the
address at which a read fails. -/
def readParts (cn : Nat) (base : Nat) : State → Nat → List (Nat × Nat) → State × (List Byte ⊕ Nat)
  | s, _, [] => (s, .inl [])
  | s, o, (off, n) :: r =>
    match deviceReadLong cn framePages s (base + off) n with
    | (s1, .inr va) => (s1, .inr va)
    | (s1, .inl bs) =>
      match readParts cn base s1 (off + n) r with
      | (s2, .inl more) => (s2, .inl (List.replicate (off - o) 0 ++ bs ++ more))
      | (s2, .inr va) => (s2, .inr va)

/-- Reads what is written back of a frame of an agent at a VA (R381). -/
def readFrame (s : State) (cn base k a : Nat) : State × (List Byte ⊕ Nat) := readParts cn base s 0 (frameParts s k a)

end Sys2Proof.Machine
end

