-- ==== Sys2Proof/Machine/Trace.lean ====
section
/-! DEFINITION. The trace of a context (R402 to R405) and the register checksums at bells (R407). -/
namespace Sys2Proof.Machine

/-- Unsigned LEB128 (R403), at most 10 bytes. -/
def varint : Nat → Nat → List Byte
  | 0, _ => []
  | n + 1, x => if x < 128 then [BitVec.ofNat 8 x] else BitVec.ofNat 8 (x % 128 + 128) :: varint n (x / 128)

def leb (x : Nat) : List Byte := varint 10 x

/-- Zigzag value of a signed number (R403). -/
def zigzag (x : Int) : Nat := if x < 0 then (-2 * x - 1).toNat else (2 * x).toNat

/-- Word offset of an address from a block's start. -/
def wordOff (start pc : Word) : Int := signed 64 (pc - start).toNat / 4

/-- Mask bytes of a set of VPs below n. -/
def maskBytes (l : List Nat) (n : Nat) : List Byte := natBytes (l.foldl (fun a i => setBit a i true) 0) (ceilDiv n 8)

/-- A SYNC packet (R403). -/
def syncPacket (clk inv tidx a : Nat) : List Byte :=
  0x10#8 :: (natBytes clk 8 ++ natBytes inv 2 ++ natBytes tidx 6 ++ natBytes a 1)

/-- Whether byte `x` of the ring and the `n` after it can be written; else the first VA that cannot. -/
def ringBad (s : State) (cn base size : Nat) : Nat → Nat → Option Nat
  | _, 0 => none
  | x, n + 1 =>
    let va := base + x % size
    if !(deviceMay s cn va).2 then some va else ringBad s cn base size (x + 1) n

/-- Writes bytes into the ring from free-running byte index `x` on. -/
def ringPut (cn base size : Nat) : State → Nat → List Byte → State
  | s, _, [] => s
  | s, x, b :: r => ringPut cn base size ((deviceWrite s cn (base + x % size) [b]).getD s) (x + 1) r

/-- What a packet of an agent writes: the SYNC and TS it needs, and itself; with the packets since the last SYNC and the
source's last timestamp afterwards (R404). -/
def packetBytes (t : Trace) (clk : Nat) (last : Option Nat) (inv tidx k a : Nat) (body : List Byte) : List Byte × Nat × Nat :=
  let sync := syncPacket clk inv tidx a
  let first := decide (t.source ≠ some (k, a)) || decide (t.since ≥ 255) || decide (t.dropped ≠ 0) || last.isNone
  let b1 := if first then sync else []
  let since1 := if first then 0 else t.since
  let last1 := if first then clk else last.getD clk
  let ts := decide (last1 ≠ clk)
  let b2 := if ts then 0x20#8 :: leb (clk - last1) else []
  let since2 := if ts then since1 + 1 else since1
  let again := decide (since2 ≥ 255)
  (b1 ++ b2 ++ (if again then sync else []) ++ body, (if again then 0 else since2) + 1, clk)

/-- Drops a packet and counts it (R405). -/
def traceDrop (s : State) (cn : Nat) : State := modCtx s cn fun c => { c with trace := { c.trace with dropped := c.trace.dropped + 1 } }

/-- Writes a packet of an agent of a team, with what must precede it, or drops it (R403 to R405). -/
def tracePacket (s : State) (k a : Nat) (body : List Byte) : State :=
  match getTeam s k, invOf s k, getThread s k a with
  | some tm, some iv, some th =>
    (match getCtx s iv.ctx with
      | none => s
      | some c =>
        let t := c.trace
        let size := 2 ^ bits t.cfg.toNat 0 5
        let (bs, since, last) := packetBytes t s.clk th.lastTs (invNum tm.inv) tm.tidx k a body
        let used := (t.tail - t.head).toNat
        if used + bs.length > size - 16 then traceDrop s iv.ctx
        else
          let loss := if t.dropped = 0 then [] else 0xF0#8 :: leb t.dropped
          let all := loss ++ bs
          match ringBad s iv.ctx t.base.toNat size t.tail.toNat all.length with
          | some va =>
            let s1 := traceDrop s iv.ctx
            if t.reported then s1
            else modCtx (errorRecord s1 iv.ctx 0x0D 0 (invNum tm.inv) va 0 0) iv.ctx fun c => { c with trace := { c.trace with reported := true } }
          | none =>
            let s1 := arbTick (ringPut iv.ctx t.base.toNat size s t.tail.toNat all)
            let s2 := modCtx s1 iv.ctx fun c => { c with trace := { c.trace with
              tail := c.trace.tail + BitVec.ofNat 32 all.length, dropped := 0, source := some (k, a), since := since } }
            modThread s2 k a fun th => { th with lastTs := some last })
  | _, _, _ => s

/-- Whether a team's context writes packets under a TRCFG bit: 8 BLK, 9 CRC. -/
def traceOn (s : State) (k b : Nat) : Bool := ((ctxOf s k).map fun c => c.trace.cfg.getLsbD b).getD false

/-- A BLK, DIV or JOIN packet of a group, where TRCFG.BLK asks for it. -/
def traceBlock (s : State) (k i : Nat) (body : List Byte) : State := if traceOn s k 8 then tracePacket s k i body else s

/-- A BLK packet (R403). -/
def blkBody (start : Word) (n : Nat) (l : List Nat) : List Byte := 0x30#8 :: (natBytes start.toNat 8 ++ leb n ++ maskBytes l n)

/-- A DIV packet. -/
def divBody (start pc t : Word) (n : Nat) (l : List Nat) : List Byte :=
  0x40#8 :: (leb (zigzag (wordOff start pc)) ++ leb (zigzag (wordOff start t)) ++ maskBytes l n)

/-- A JOIN packet. -/
def joinBody (start pc : Word) (n : Nat) (l : List Nat) : List Byte := 0x50#8 :: (leb (zigzag (wordOff start pc)) ++ maskBytes l n)

/-! ### Register checksums (R407) -/

/-- CRC-64 over the bits of a byte, most significant first. -/
def crcBits (b : Nat) : Nat → Nat → Nat
  | 0, c => c
  | n + 1, c =>
    let top := bit c 63 != bit b n
    crcBits b n ((c * 2 % 2 ^ 64) ^^^ (if top then 0x42F0E1EBA9EA3693 else 0))

def crc64 (bs : List Byte) : Nat := (bs.foldl (fun c b => crcBits b.toNat 8 c) (2 ^ 64 - 1)) ^^^ (2 ^ 64 - 1)

/-- The bytes a group folds. -/
def groupFold (kn : Kernel) (g : Group) : List Byte :=
  wordsBytes (fun i => rawX g.th (i + 1)) 63 ++ hBytes g ++ [g.vlen, g.vtype, g.vmask, g.ecar, g.fcsr].flatMap (fun c => natBytes c.toNat 8) ++
    (pSection kn g).drop (pBytes kn g) ++ vSection kn g

/-- The 64-byte header of an accumulator image (R160). KPOS wraps in its 4 bytes (DEDUCED, log entry 112). -/
def imageHead (q : Seq) (c : BitVec 2) (ac : Acc) : List Byte :=
  natBytes 1 2 ++ natBytes q.gm 2 ++ natBytes q.gn 2 ++ natBytes 0 2 ++ natBytes ac.fmt.toNat 4 ++ natBytes ac.kpos 4 ++
    natBytes (if q.mstat.getLsbD (8 + c.toNat) then 1 else 0) 4 ++ natBytes 0 44

/-- The image of an OPEN accumulator (R160). -/
def accImage (q : Seq) (c : BitVec 2) (ac : Acc) : List Byte :=
  imageHead q c ac ++ (upFrom 0 (q.gm * q.gn)).flatMap fun n => natBytes (tgetD ac.data n 0).toNat 4

/-- The bytes a sequencer folds. -/
def seqFold (q : Seq) : List Byte :=
  wordsBytes (fun i => rawX q.th (i + 1)) 31 ++ natBytes q.gm 8 ++ natBytes q.gn 8 ++ natBytes q.gk 8 ++ natBytes q.fmt.toNat 8 ++
    (upFrom 0 4).flatMap fun n => match lget q.accs n with
      | some a => if a.st = .opened then accImage q (BitVec.ofNat 2 n) a else []
      | none => []

/-- The CRC packet of an agent whose BWAIT or BSYNC on a bell completes, where TRCFG.CRC asks for it. -/
def traceCrc (s : State) (k a bell : Nat) (ph : BitVec 16) : State :=
  if traceOn s k 9 then
    match getTeam s k, invOf s k with
    | some t, some iv =>
      let fold := if a = 16 then (t.seq.map seqFold).getD [] else ((lget t.groups a).map (groupFold iv.kernel)).getD []
      tracePacket s k a (0x60#8 :: (natBytes bell 1 ++ natBytes ph.toNat 2 ++ natBytes (crc64 fold) 8))
    | _, _ => s
  else s

end Sys2Proof.Machine
end

