-- ==== Sys2Proof/Machine/System.lean ====
section
/-! DEFINITION. System instructions (R291 to R300), return from a trap (R293, R381), transactions (R187 to R190), extension and hint words (R262, R263) and illegal words (R261). -/
namespace Sys2Proof.Machine

/-- NOP (R291): legal in every stream and in a block. -/
def execNop (s : State) : Host.Outcome State Fault Refusal := runInstr inTxn .nop (some ok) (some ok) (some okSeq) s

/-- The group retired (R119, R224): its hall passes are unpinned; its stream slots stand until its team retires (R166). -/
def retired (g : Group) (w : IWord) : Group :=
  let g1 := groupNext g (g.th.pc + 4) false w 0 []
  { g1 with th := { g1.th with run := .retired }, pins := [] }

/-- Retires the group that acts. -/
def retireGroup (cx : Cx) (w : IWord) : State :=
  putGroup (unpinAll cx.s cx.cn cx.g) cx.k cx.i (retired cx.g w)

/-- A handler that ends without ERET ends the handled team and frees the frame (R379). -/
def handlerEnds (s : State) (cn : Nat) (iv : Invoc) : State :=
  match iv.kind with
  | .handler hk ha slot cause _ _ => freeFrame (endHandled s hk ha slot 0 cause) cn slot
  | _ => s

/-- TRAP (R292): code 0 retires the group once a block has completed; another code raises a software trap. -/
def execTrap (c : BitVec 18) (s : State) : Host.Outcome State Fault Refusal :=
  runGroup {} (.trap c) (fun cx =>
    if c ≠ 0 then { cx := cx, fate := .trap 9 (c.setWidth 64) }
    else if cx.g.block.isSome then { cx := cx, fate := .stay }
    else
      let s1 := retireGroup cx (encode (.trap c))
      { cx := { cx with s := match invOf cx.s cx.k with
          | some iv => handlerEnds s1 cx.cn iv
          | none => s1 }, fate := .moved }) s

/-- RETURN FROM A TRAP (R293, R379, R381): the frame is read as the handler's own loads would read it, applied to the
handled agent, which resumes at its EPC, and the slot is freed. A frame with LOSTREG ends the team (R376). A handler
whose team is gone has no further effect. -/
def returnFromTrap (s : State) (cn : Nat) (c : Ctx) (hk ha slot : Nat) (cause : BitVec 8) : State × Option Word :=
  if frameStands s hk ha slot then
    if cause = 0x11 then (freeFrame (endHandled s hk ha slot 0 cause) cn slot, none)
    else
      match readFrame s cn (c.tfbase.toNat + slot * frameSize) hk ha with
      | (s1, .inr va) => (s1, some (BitVec.ofNat 64 va))
      | (s1, .inl bs) => (freeFrame (modThread (applyFrame s1 hk ha bs) hk ha (resumeThread ha)) cn slot, none)
  else (freeFrame s cn slot, none)

/-- The first doubleword from an address to the end of its page that lies in a poisoned line. -/
def poisonFrom (s : State) (pa va : Nat) : Nat :=
  (((upFrom 0 ((4096 - va % 4096) / 8)).find? fun j => poisonIn s (pa + 8 * j) 8).map fun j => va + 8 * j).getD va

/-- How a read of the frame fails at an address: a fault of the page, raw access to a heap page, or the poison it consumed. -/
def frameFate (s : State) (c : Ctx) (va : Word) : Fate :=
  match walk (tables s) c.root va.toNat with
  | .bad k l => .page va k (1 + 16 * l) 0
  | .leaf pv size _ leaf =>
    if permits leaf .read then
      (match rawPage 0 leaf with
        | some v => .trap 6 v
        | none => .trap 0x10 (BitVec.ofNat 64 (poisonFrom s (leafPhys leaf pv va.toNat) va.toNat)))
    else .page va 1 (1 + 16 * (if size = 2 ^ 30 then 2 else if size = 2 ^ 21 then 1 else 0)) 0

/-- ERET (R293): legal only in a group of a trap-handler invocation; the group then retires as TRAP 0 would, for which it waits for a block
first (DEDUCED, log entry 98). -/
def execEret (s : State) : Host.Outcome State Fault Refusal :=
  runGroup {} .eret (fun cx =>
    match invOf cx.s cx.k, getCtx cx.s cx.cn with
    | some iv, some c =>
      (match iv.kind with
        | .handler hk ha slot cause _ _ =>
          if cx.g.block.isSome then { cx := cx, fate := .stay } else
          (match returnFromTrap cx.s cx.cn c hk ha slot cause with
            | (s1, none) => { cx := { cx with s := retireGroup { cx with s := s1 } (encode .eret) }, fate := .moved }
            | (s1, some va) =>
              { cx := { cx with s := s1 }, fate := frameFate s1 c va })
        | _ => illegal cx (encode .eret))
    | _, _ => illegal cx (encode .eret)) s

/-- Completes the instruction of the group that acts and leaves its thread as `f` makes it. -/
def doneWith (cx : Cx) (w : IWord) (f : Thread → Thread) : Out :=
  let g := groupNext cx.g (cx.g.th.pc + 4) false w 0 []
  { cx := { cx with s := putGroup cx.s cx.k cx.i { g with th := f g.th } }, fate := .moved }

/-- YIELD (R294): RUNNING to READY. -/
def execYield (s : State) : Host.Outcome State Fault Refusal :=
  runGroup {} .yield (fun cx => doneWith cx (encode .yield) fun th => { th with run := .ready }) s

/-- CLOCK (R295): every earlier instruction of the stream has completed when it issues here (DESIGN CHOICE, log entry 7). -/
def execClock (d : BitVec 6) (s : State) : Host.Outcome State Fault Refusal :=
  runGroup {} (.clock d) (fun cx => okWrite cx d.toNat (BitVec.ofNat 64 cx.s.clk) 0) s

/-- FENCE (R296): accesses are performed in order here, so it orders nothing further; code 0 is illegal (DESIGN CHOICE, log entry 2). -/
def execFence (o : BitVec 4) (s : State) : Host.Outcome State Fault Refusal :=
  runGroup {} (.fence o) (fun cx => if o = 0 then illegal cx (encode (.fence o)) else ok cx) s

/-- ICSYNC (R297): fetches read memory as it stands, so it changes nothing; scopes 5 to 7 are illegal. It waits for a block. -/
def execIcsync (c : BitVec 3) (s : State) : Host.Outcome State Fault Refusal :=
  runGroup {} (.icsync c) (fun cx =>
    if c.toNat > 4 then illegal cx (encode (.icsync c)) else if cx.g.block.isSome then { cx := cx, fate := .stay } else ok cx) s

/-- PREFI (R298): writes no state. -/
def execPrefi (a : BitVec 6) (s : State) : Host.Outcome State Fault Refusal := runGroup {} (.prefi a) ok s

/-- The fold of SIGA that SIGCHK compares (R300). -/
def sigFold (siga : Word) : Nat := bits siga.toNat 0 24 ^^^ bits siga.toNat 24 24 ^^^ bits siga.toNat 48 16

/-- SIGCHK (R300, R393). It writes SIGA, so where it checks it waits for a block (R273). -/
def execSigchk (v : BitVec 24) (s : State) : Host.Outcome State Fault Refusal :=
  runInstr { feat := some 9 } (.sigchk v)
    (some fun cx =>
      if kflag cx.kn 3 then
        if cx.g.block.isSome then { cx := cx, fate := .stay }
        else if sigFold cx.g.siga = v.toNat then ok { cx with g := { cx.g with siga := 0 } }
        else if mayReplay cx.s cx.k then { cx := { cx with s := strikeTeam cx.s cx.k }, fate := .moved }
        else { cx := cx, fate := .trap 7 (BitVec.ofNat 64 (sigFold cx.g.siga * 2 ^ 24 + v.toNat)) }
      else ok cx)
    (some ok) none s

/-- BRK (R299, R397): under BRKON the group stops at the BRK, and goes on behind it when it is resumed; else no effect (DEDUCED, log entry 64). -/
def execBrk (c : BitVec 24) (s : State) : Host.Outcome State Fault Refusal :=
  runGroup {} (.brk c) (fun cx =>
    if ((getCtx cx.s cx.cn).map (·.brkOn)).getD false then
      { cx := { cx with s := putGroup cx.s cx.k cx.i { cx.g with th := { cx.g.th with
          run := .ready, halted := true, haltReq := false, epc := cx.g.th.pc, word := encode (.brk c) } } }, fate := .moved }
    else ok cx) s

/-! ### Transactions (R187 to R190) -/

/-- TXB (R187): NESTED inside a transaction. -/
def execTxb (o : BitVec 24) (s : State) : Host.Outcome State Fault Refusal :=
  runGroup { feat := some 5, txn := true } (.txb o) (fun cx =>
    if cx.g.txn.isSome then { cx := cx, fate := .abort 9 0 }
    else ok { cx with g := { cx.g with
      txs := 1
      txn := some { abort := target cx.g.th.pc o, wins := cx.g.th.wins, x := cx.g.th.x, h := cx.g.h, fcsr := cx.g.fcsr, readLines := [], writeLines := [],
                    writes := [], stores := [], regions := [], staged := [] } } }) s

/-- What one store of a transaction does to the reference bits: the bits of the words it meets are cleared, at whatever address they lie,
and the store of a reference sets its word's (R215). -/
def commitRef (cn : Nat) (s : State) (e : Nat × Nat × Nat × Bool) : State :=
  let s1 := clearRefsAt (clearRefs s cn e.2.2.1 e.2.1) e.1 e.2.1
  if e.2.2.2 then modCtx s1 cn fun c => { c with heap := { c.heap with refBits := tput c.heap.refBits (e.2.2.1 / 8) true } } else s1

/-- TXE (R190): every write of the set becomes visible (DEDUCED, log entry 73). -/
def execTxe (s : State) : Host.Outcome State Fault Refusal :=
  runGroup { feat := some 5, txn := true } .txe (fun cx =>
    match cx.g.txn with
    | none => illegal cx (encode .txe)
    | some x =>
      let s0 := x.staged.foldl dirtyLeaf cx.s
      let s1 := x.writes.foldl (fun s e => { wake s (fun l => l = e.1 / 64) with mem := writeByte s.mem e.1 e.2 }) s0
      let s2 := x.stores.foldl (commitRef cx.cn) s1
      ok { cx with s := s2, g := { cx.g with txn := none, txs := txsWord 0 (txnLines x).length 0 } }) s

/-- TXA (R187): aborts with a code. -/
def execTxa (c : BitVec 8) (s : State) : Host.Outcome State Fault Refusal :=
  runGroup { feat := some 5, txn := true } (.txa c) (fun cx =>
    if cx.g.txn.isSome then { cx := cx, fate := .abort 7 c.toNat } else illegal cx (encode (.txa c))) s

/-! ### Extension, hint and illegal words -/

/-- Reads the bytes an extension loads, in order. -/
def extLoads : List Word → List Byte → Cx → Except (Cx × Fate) (Cx × List Byte)
  | [], bs, cx => .ok (cx, bs)
  | va :: r, bs, cx =>
    match loadVa cx va 1 0 true with
    | .val cx1 v => extLoads r (bs ++ [BitVec.ofNat 8 v]) cx1
    | .bad cx1 f => .error (cx1, f)
    | .spec => .error (cx, .stay)

/-- Finds the places of the bytes an extension stores, before any is written: the effect is precise (R262). -/
def extPlaces : List (Word × Byte) → List (Loc × Byte) → Cx → Except (Cx × Fate) (Cx × List (Loc × Byte))
  | [], ls, cx => .ok (cx, ls)
  | (va, b) :: r, ls, cx =>
    match resolveCx cx va 1 .stage 0 with
    | (cx1, .at l) => extPlaces r (ls ++ [(l, b)]) cx1
    | (cx1, .bad e) => .error (cx1, badFate e 0)
    | (cx1, .lost) => .error (cx1, .lost)

/-- Performs the bytes an extension stores. -/
def extStores : List (Loc × Byte) → Cx → Got
  | [], cx => .val cx 0
  | (l, b) :: r, cx =>
    match storeStaged cx l 1 b.toNat with
    | .val cx1 _ => extStores r cx1
    | e => e

/-- The effect of an extension word on the group (R262), from a microcode object or the firmware: its loads, its trap, its stores,
s(d) and flags. It is precise (DESIGN CHOICE, log entry 9). -/
def extEffect (obj : BitVec 512) (m : BitVec 2) (d a b : BitVec 6) (f : BitVec 8) (cx : Cx) : Out :=
  let n := cx.s.draws
  let x := (readS cx a.toNat, readS cx b.toNat, readS cx d.toNat)
  match extLoads (Config.extensionLoads obj m f n x) [] cx with
  | .error (cx1, fate) => gotBad cx1 fate
  | .ok (cx1, bs) =>
    match Config.extensionTrap obj m f n bs x with
    | some (c, v) => { cx := cx1, fate := .trap (BitVec.ofNat 8 (c.val + 1)) v }
    | none =>
      match extPlaces (Config.extensionStores obj m f n bs x) [] cx1 with
      | .error (cx2, fate) => gotBad cx2 fate
      | .ok (cx2, ls) => gotThen (extStores ls cx2)
          (fun cx3 _ => okWrite { cx3 with g := raise cx3.g ((Config.extensionFlags obj m f n bs x).toNat * 8) } d.toNat
            (Config.extension obj m f n bs x) 0) cx2

/-- An extension word (R66, R262): run from the microcode store, or parked for the Prefect. -/
def execExtensionOpcode (m : BitVec 2) (d a b : BitVec 6) (f : BitVec 8) (s : State) : Host.Outcome State Fault Refusal :=
  let i := Instr.extensionOpcode m d a b f
  runGroup {} i (fun cx =>
    if cx.s.hub.microcodeMode then
      match cx.s.hub.microcode with
      | some obj => if featureOk cx.s cx.cn { feat := some 1 } ∧ cx.s.hub.store.contains (m, f) then extEffect obj m d a b f cx else illegal cx (encode i)
      | none => illegal cx (encode i)
    else if featureOk cx.s cx.cn { feat := some 2 } ∧ Config.emulates m f then { cx := cx, fate := .park (.parkedEmul (encode i)) }
    else illegal cx (encode i)) s

/-- HINT.PREFD (R263): no architected effect, and no trap, in any stream. -/
def execHintPrefd (p : BitVec 6) (a : BitVec 16) (s : State) : Host.Outcome State Fault Refusal :=
  runInstr inTxn (.hintPrefd p a) (some ok) (some ok) (some okSeq) s

/-- HINT.BRLIKELY (R263). -/
def execHintBrlikely (a : BitVec 16) (s : State) : Host.Outcome State Fault Refusal :=
  runInstr inTxn (.hintBrlikely a) (some ok) (some ok) (some okSeq) s

/-- Hint kinds 2 to 15, and words of kind 1 with a payload (R263). -/
def execHint (p : BitVec 6) (k : BitVec 4) (a : BitVec 16) (s : State) : Host.Outcome State Fault Refusal :=
  runInstr inTxn (.hint p k a) (some ok) (some ok) (some okSeq) s

/-- A strided load or store with a non-zero BOFF code, which is an illegal format and no illegal instruction (R257, R322) (DEDUCED, log entry 69). -/
def stridedOffset (w : IWord) : Bool :=
  (decide (fld w 26 6 = 0x19) || (decide (fld w 26 6 = 0x1A) && decide (fld w 0 4 = 0))) && w.getLsbD 13 && decide (fld w 11 2 ≠ 0)

/-- Whether the vector register that a strided load or store names may be used as it uses it (R303), which is checked before the
format (R373). -/
def stridedRegs (g : Group) (w : IWord) : Bool :=
  let d := (fld w 20 6 : BitVec 6).toNat
  if fld w 26 6 = 0x19 then vWriteOk g d else vReadOk g d

/-- A word that stands for no instruction (R254, R256, R261): illegal-instruction, but for the strided forms of R257 (DEDUCED, log entry 69). -/
def execIllegalInstruction (w : BitVec 32) (s : State) : Host.Outcome State Fault Refusal :=
  let f (cx : Cx) : Out :=
    if !stridedOffset w then illegal cx w
    else if cx.vps.isNone ∧ cx.g.txn.isSome then { cx := cx, fate := .abort 8 0 }
    else if cx.vps.isNone ∧ cx.g.block.isSome then { cx := cx, fate := .stay }
    else if stridedRegs cx.g w then illegalFormat cx w else illegal cx w
  runVector inTxn (.illegalInstruction w) f s

end Sys2Proof.Machine
end

