-- ==== Sys2Proof/Machine/Fetch.lean ====
section
/-! DEFINITION. Fetching an instruction and choosing the stream that issues: the word at a program counter (R284), the points at which a stream stops for a pre-emption (R123) or a debugger (R397, R399), and the bytes of an instruction placed where a stream fetches. -/
namespace Sys2Proof.Machine

/-- Whether the next word of a control thread continues its present convoy (R111). -/
def insideConvoy (s : State) (cn : Nat) (th : Thread) : Bool :=
  decide (0 < th.convoy) && decide (th.convoy < 8) && ((peekWord s cn th.pc.toNat).map isVectorWord).getD false

/-- Whether issue in the cluster of a team is stopped by a scheduler rebuild (R390) (DEDUCED, log entry 45). -/
def clusterStopped (s : State) (t : Team) : Bool := ((tget s.clusters t.target.cluster).map (·.rebuilding)).getD false

/-- Whether the next word of a sequencer is TSET, before which it stops for a pre-emption (R123). -/
def beforeTset (s : State) (cn : Nat) (th : Thread) : Bool :=
  match (peekWord s cn th.pc.toNat).bind decode with
  | some (.tset _) => true
  | _ => false

/-- Whether a control thread that may issue stands where it stops for a halt or a pre-emption (R123, R397): a convoy
boundary, outside a transaction for a pre-emption, never at an MSEND that waits for its interface (R237). -/
def ctlStops (s : State) (t : Team) (cx : Cx) : Bool :=
  (cx.g.th.haltReq || (t.preempt && cx.g.txn.isNone)) && !cx.g.th.stalled && !insideConvoy s cx.cn cx.g.th

/-- Whether a block stands where it stops: at any instruction for a halt, at its own point for a pre-emption. -/
def blkStops (t : Team) (g : Group) : Bool :=
  g.th.haltReq || (t.preempt && (g.block.map fun b => b.atPoint || b.forced).getD false)

/-- Whether a team retires now (R119): every group has retired and every engine operation has completed; its sequencer then stops
at its next instruction boundary (DEDUCED, log entry 38). -/
def teamDone (t : Team) : Bool := decide (t.ops = []) && t.groups.all fun (g : Group) => decide (g.th.run = .retired)

/-- Whether a sequencer that may issue stands where it stops: where its team retires (R119), for a halt, or for a pre-emption. -/
def seqStops (s : State) (t : Team) (sx : Sx) : Bool :=
  teamDone t || sx.q.th.haltReq || (t.preempt && beforeTset s sx.cn sx.q.th)

/-- Whether a stream issues its next instruction when its turn comes. -/
def mayIssue (s : State) (r : StreamRef) : Bool :=
  match r with
  | .ctl k i => (match openCtl s k i, getTeam s k with
      | some cx, some t => !clusterStopped s t && !ctlStops s t cx
      | _, _ => false)
  | .blk k i v => (match openBlk s k i v, getTeam s k with
      | some (cx, _, _), some t => !clusterStopped s t && !blkStops t cx.g
      | _, _ => false)
  | .seq k => (match openSeq s k, getTeam s k with
      | some sx, some t => !clusterStopped s t && !seqStops s t sx
      | _, _ => false)

/-- The word at a program counter for an asker, or how the fetch fails: an access like any other that addresses global memory alone (R223,
R225, R284, R373), a read for other agents' transactions (R189), and poison is never reported as a value (R386) (DEDUCED, log entry 18;
DEDUCED, log entry 72; DEDUCED, log entry 82). -/
def fetchWord (s : State) (q : Asker) (pc : Word) : State × (IWord ⊕ Fate) :=
  match resolve s { q with glob := true } pc 4 .fetch 0 with
  | (s1, .lost) => (s1, .inr .lost)
  | (s1, .bad b) => (s1, .inr (badFate b 0))
  | (s1, .at l) =>
    if poisoned s1 l 4 then (s1, .inr (.trap 0x10 pc))
    else let r := locLoad s1 l 4; (r.1, .inl (BitVec.ofNat 32 r.2))

/-- The instruction a word stands for; a word that no row of the opcode map defines is ILLEGAL_INSTRUCTION (R261). -/
def instrOf (w : IWord) : Instr := (decode w).getD (.illegalInstruction w)

/-- A control thread's own fetch is no access of another agent to its transaction (R189). -/
def keepTxn (s : State) (k i : Nat) (g : Group) : State := if g.txn.isSome then putGroup s k i g else s

/-- What a stream fetches: the state after the translation and the instruction, or the state after the fault of the fetch
was taken; none when the stream may not issue. -/
def fetchStream (s : State) (r : StreamRef) : Option (State × Option Instr) :=
  if !mayIssue s r then none else
  match r with
  | .ctl k i => (openCtl s k i).map fun cx =>
      match fetchWord s (asker cx) cx.g.th.pc with
      | (s1, .inl w) => ({ keepTxn s1 k i cx.g with cur := some r }, some (instrOf w))
      | (s1, .inr f) => (finishCtl 0 { cx := { cx with s := s1 }, fate := f }, none)
  | .blk k i v => (openBlk s k i v).map fun (cx, bs, pc) =>
      match fetchWord s (asker cx) pc with
      | (s1, .inl w) => ({ s1 with cur := some r }, some (instrOf w))
      | (s1, .inr f) => (finishBlk pc bs { cx := { cx with s := s1 }, fate := f, stuck := bs }, none)
  | .seq k => (openSeq s k).map fun sx =>
      match fetchWord s (seqAsker sx) sx.q.th.pc with
      | (s1, .inl w) => ({ s1 with cur := some r }, some (instrOf w))
      | (s1, .inr f) => (finishSeq 0 { sx := { sx with s := s1 }, fate := f }, none)

/-- The streams of a team: each group's control thread, the VPs of its block, the sequencer. -/
def streamsOf (k : Nat) (t : Team) : List StreamRef :=
  ((upFrom 0 t.groups.length).flatMap fun i => .ctl k i :: (((lget t.groups i).bind (·.block)).map fun b => b.vps.map fun v => StreamRef.blk k i v.1).getD []) ++
    (if t.seq.isSome then [.seq k] else [])

/-- Every stream of the device. -/
def allStreams (s : State) : List StreamRef := s.teams.flatMap fun e => streamsOf e.1 e.2

/-- The stream that issues when the schedule names none: the present one if it can, else the first that can (log entry 6). -/
def nextStream (s : State) : Option StreamRef :=
  match s.cur with
  | some r => if mayIssue s r then some r else (allStreams s).find? (mayIssue s)
  | none => (allStreams s).find? (mayIssue s)

/-- The program counter of a stream. -/
def streamPc (s : State) (r : StreamRef) : Option Word :=
  match r with
  | .ctl k i => (getGroup s k i).map fun g => g.th.pc
  | .blk k i v => (getGroup s k i).bind fun g => (vpOf g v).map fun p => p.pc
  | .seq k => (getSeq s k).map fun q => q.th.pc

/-- Whether a group has gone back to READY (R294). -/
def gaveWay (s : State) (r : StreamRef) : Bool :=
  match r with
  | .ctl k i => ((getGroup s k i).map fun g => decide (g.th.run = .ready)).getD false
  | _ => false

/-- The turn after a stream's: where its instruction waits, gives way or loops on itself, the next stream in turn that can
issue (log entry 6); else the stream keeps it. `s` is the state before the instruction. -/
def passTurn (r : StreamRef) (s t : State) : State :=
  if streamPc t r = streamPc s r ∨ gaveWay t r then
    { t with cur := (((allStreams t).dropWhile fun q => decide (q ≠ r)).drop 1 ++ allStreams t).find? (mayIssue t) }
  else t

/-- The physical address an asker fetches from at a program counter. -/
def fetchAt (s : State) (q : Asker) (pc : Word) : Option Nat :=
  match (resolve s { q with glob := true } pc 4 .fetch 0).2 with
  | .at (.glob pa _ _) => some pa
  | _ => none

/-- The physical address a stream fetches its next instruction from (DEDUCED, log entry 74). -/
def fetchPhys (s : State) (r : StreamRef) : Option Nat :=
  match r with
  | .ctl k i => (openCtl s k i).bind fun cx => fetchAt s (asker cx) cx.g.th.pc
  | .blk k i v => (openBlk s k i v).bind fun (cx, _, pc) => fetchAt s (asker cx) pc
  | .seq k => (openSeq s k).bind fun sx => fetchAt s (seqAsker sx) sx.q.th.pc

/-- The clock and the draw counter after a step: how much time an instruction takes is open (DESIGN CHOICE, log entry 5; DESIGN CHOICE, log entry 7). -/
def tickClock (s : State) : State := { s with clk := s.clk + Config.clocks s.draws, draws := s.draws + 1 }

/-- Whether a row of the opcode table is an event or an operation of the device, not an instruction word. -/
def isEvent (i : Instr) : Bool :=
  !isEncoded i && (match i with | .illegalInstruction _ => false | _ => true)

/-- A turn of the host or of a kill: the ATS Enable bit (R65), a write to memory, the size of the PF's window (R24), or CloseJobs
(R72). -/
def hostTurn (s : State) (t : Turn) : State :=
  match t with
  | .ats fn on => modPage s fn fun p => { p with ats := on }
  | .hostWrite pa bs => clearRefsAt (hostBytes s pa bs) pa bs.length
  | .closeJobs ctx => closeJobs s ctx
  | .pfWindow n => if n ≤ 9 then { s with hub := { s.hub with pfWindow := 2 ^ (30 + n) } } else s
  | .event _ => s
  | .issue _ => s
  | .command .. => s

/-- The contexts in which an uncontained machine error was found begin their kill (R222). -/
def killBroken (s : State) : State :=
  if s.ctxs.any fun e => e.2.broken then ((s.ctxs.filter fun e => e.2.broken).map (·.1)).foldl beginKill s else s

/-! ### A program from outside (log entry 17) -/

/-- The stream that may fetch an instruction: the sequencer for those of the matrix stream alone, a block for VBR to VSTOP,
else a control thread. -/
def homeStream (k : Nat) (i : Instr) : StreamRef :=
  match i with
  | .tset .. | .tsetM .. | .tget .. | .trec .. | .tmm .. | .tmms .. | .tld .. | .tst .. | .tstC .. | .tzero .. | .tsave .. | .trestore .. |
    .tcvt .. | .tcvtC .. => .seq k
  | .vbr .. | .vjr .. | .vjoin | .vstop => .blk k 0 0
  | _ => .ctl k 0

/-- A thread ready to run at an address. -/
def freshThread (pc : Word) : Thread :=
  { pc := pc, x := [], wins := [], pend := 0, err := 0, run := .ready, park := .none, word := 0, rewatch := none, halted := false,
    haltReq := false, byCmd := false, stalled := false, convoy := 0, trapc := 0, trapv := 0, epc := 0, inBlock := none, aside := none, lastTs := none, owed := none }

/-- Code of a descriptor's NV or GRP value (R68): log2 of NV / 8, log2 of GRP. -/
def vtypeAtStart (kn : Kernel) : Word := BitVec.ofNat 64 (256 * Nat.log2 (kn.nv / 8) + 1024 * Nat.log2 kn.grp)

/-- A group as R108 starts it. -/
def freshGroup (kn : Kernel) (pc : Word) : Group :=
  { th := freshThread pc, parts := [0], h := [], v := [], p := [], vlen := 0, vtype := vtypeAtStart kn, vmask := 0, vstride := 0, ecar := 0, ridx := 0, fcsr := 0,
    siga := 0, txs := 0, txn := none, block := none, slots := [idleSlot, idleSlot, idleSlot, idleSlot], pins := [] }

/-- A CLOSED accumulator. -/
def closedAcc : Acc := { st := .closed, fmt := 0, kpos := 0, data := [] }

/-- A sequencer as R108 starts it. -/
def freshSeq (pc : Word) : Seq :=
  { th := { freshThread pc with run := .running }, m := [], gm := 0, gn := 0, gk := 0, fmt := 0, mstat := 0,
    accs := [closedAcc, closedAcc, closedAcc, closedAcc], cache := [] }

/-- An IDLE bell. -/
def idleBell : Bell := { counting := false, ph := 0, exp := 0, arr := 0, by' := [], last := 0 }

/-- A team as R108 starts it. -/
def freshTeam (ik tidx prio : Nat) (target : Target) (groups : List Group) (seq : Option Seq) : Team :=
  { inv := ik, tidx := tidx, saved := false, target := target, prio := prio, preempt := false, groups := groups, seq := seq, beforeTset := false,
    bells := List.replicate 16 idleBell, spad := [], spadPoison := [], tags := [], ops := [] }

/-- The kernel of a program loaded from outside. -/
def loadedKernel : Kernel :=
  { entry := 0, mentry := 0, aentry := 0, groups := 1, prod := 1, width := 1, budget := 8, nv := 32, grp := 1, cls := 0, kflags := 0, descs := [] }

/-- The context it runs in: RUNNING, holding every feature, its tree rooted at 0x1000. -/
def loadedCtx : Ctx :=
  { st := .running, owner := 0, part := 0, asid := 0, pasid := 0, root := 0x1000, features := BitVec.allOnes 128
    fq := { base := 0, logn := 0, head := 0, tail := 0, waiting := [], pri := [], unresolved := [] }
    eq := { base := 0, logn := 0, head := 0, tail := 0, dropped := 0, closed := false }
    objs := [], handler := none, msgTable := 0, queues := [], nextQ := 0, tracked := []
    heap := { enabled := false, heapva := 0, heapn := 0, hroot := 0, hrootn := 0, hapva := 0, hlive := 0, hstat := 0, hrsel := 0, regions := [], alloc := none, refBits := [] }
    tfbase := 0, tfslots := 0, frames := []
    trace := { trbase := 0, trcfg := 12, head := 0, tail := 0, base := 0, cfg := 0, dropped := 0, source := none, since := 0, reported := false }
    brkOn := false, broken := false, stalls := [] }

/-- Its invocation. -/
def loadedInv : Invoc :=
  { ctx := 0, kind := .launch, st := .running, obj := 0, kidx := 0, kernel := loadedKernel, code := 0, gang := 1, job := 0, spad := 1, gx := 1, gy := 1, gz := 1,
    tile := false, tbase := 0, teams := 1, inputs := [], results := [], held := [], asked := [], reserved := 0, refs := [], argp := 0, arg0 := 0, ccell := 0,
    ctag := 0, cpref := 0, prio := 0, aged := 0, order := 0, nextTeam := 1, again := [], replays := [], mark := none, badTile := false }

/-- The address its streams fetch from. -/
def loadedPc : Word := 0x10000

/-- Its team, on core 0. -/
def loadedTeam (i : Instr) : Team :=
  let g := freshGroup loadedKernel loadedPc
  let b : Block := { start := loadedPc, n := 1, snap := [], vps := [(0, { cond := .run, pc := loadedPc, wins := [] })], atPoint := false, forced := false }
  let isBlk := match homeStream 0 i with | .blk .. => true | _ => false
  freshTeam 0 0 0 { cluster := 0, core := 0, share := 0, mode := .unshared, gmaxm := 128, gmaxn := 256, gmaxk := 64 }
    [{ g with block := if isBlk then some b else none }] (some (freshSeq loadedPc))

/-- A state in which an instruction is loaded and fetched next: an identity map of the first GiB with R, W and X, a context,
an invocation and a team (DESIGN CHOICE, log entry 17). -/
def loadProgram (s : State) (w : IWord) : State :=
  let m1 := writeNat s.mem 0x1000 8 0x2001
  let m2 := writeNat m1 0x2000 8 0x3001
  let m3 := writeNat m2 0x3000 8 (2 ^ 53 + 0xF)
  { s with
    mem := writeNat m3 loadedPc.toNat 4 w.toNat
    tlb := []
    ctxs := tput s.ctxs 0 loadedCtx
    invs := tput s.invs 0 loadedInv
    teams := tput s.teams 0 (loadedTeam (instrOf w))
    cur := some (homeStream 0 (instrOf w))
    agenda := [] }

/-- Whether a stream fetches, and would run what it fetches. -/
def canFetch (s : State) (r : StreamRef) : Bool :=
  match fetchStream s r with
  | some (_, some _) => (fetchPhys s r).isSome
  | _ => false

/-- The state with a word stored where the next instruction is fetched: at the program counter of the stream that issues
next, if it can fetch, else with the word loaded as a program (DESIGN CHOICE, log entry 17; DEDUCED, log entry 74). -/
def placeWord (s : State) (w : IWord) : State :=
  match nextStream (tickClock s) with
  | some r =>
    if canFetch (tickClock s) r then
      { s with mem := writeNat s.mem ((fetchPhys s r).getD 0) 4 w.toNat, agenda := [], cur := some r }
    else loadProgram s w
  | none => loadProgram s w

end Sys2Proof.Machine
end

