-- ==== Sys2Proof/Machine/Vector.lean ====
section
/-! DEFINITION. Vector arithmetic, conversions, compares, permutes and reductions: majors 0x11 to 0x18 (R301 to R321). -/
namespace Sys2Proof.Machine

/-- A vector instruction waits for a block in progress (R116). -/
def vecRules : Rules := { wait := true }

/-- Checks registers, then the format, then goes on (R373: illegal-instruction before illegal-format). -/
def vecChecks (i : Instr) (reads writes : List Nat) (fmtOk : Bool) (f : Cx → Out) (cx : Cx) : Out :=
  if !(reads.all (vReadOk cx.g) && writes.all (vWriteOk cx.g)) then illegal cx (encode i)
  else if !fmtOk then illegalFormat cx (encode i)
  else f cx

/-- The second operand y of element i: b[i], or the low w bits of s(b) (R308, R310). -/
def yElem (cx : Cx) (sc : BitVec 1) (b : BitVec 6) (w i : Nat) : Nat :=
  if sc = 0 then elem cx b.toNat w i else scalarElem cx b.toNat w

/-- The vector registers a second operand reads. -/
def yRegs (sc : BitVec 1) (b : BitVec 6) : List Nat := if sc = 0 then [b.toNat] else []

/-- An integer instruction d[i] := f w a[i] y (R308). -/
def runVInt (i : Instr) (d a b : BitVec 6) (sc : BitVec 1) (f : Nat → Nat → Nat → Nat) (s : State) : Host.Outcome State Fault Refusal :=
  runVector vecRules i (fun cx =>
    let w := elemWidth cx.g
    vecChecks i (a.toNat :: yRegs sc b) [d.toNat] (integerFmt cx.g)
      (fun cx => okMap cx d.toNat w 0 fun j => (f w (elem cx a.toNat w j) (yElem cx sc b w j), 0)) cx) s

/-- VADDI (R308). -/
def execVaddi (d a i : BitVec 6) (s : State) : Host.Outcome State Fault Refusal :=
  runVector vecRules (.vaddi d a i) (fun cx =>
    let w := elemWidth cx.g
    vecChecks (.vaddi d a i) [a.toNat] [d.toNat] (integerFmt cx.g)
      (fun cx => okMap cx d.toNat w 0 fun j => (wrap w (Int.ofNat (elem cx a.toNat w j) + i.toInt), 0)) cx) s

/-- High w bits of the signed 2w-bit product. -/
def mulHigh (w x y : Nat) : Nat := wrap w (signed w x * signed w y / Int.ofNat (2 ^ w))

/-- Arithmetic shift right of w bits. -/
def sraW (w x n : Nat) : Nat := wrap w (signed w x / Int.ofNat (2 ^ n))

/-- VADD (R308). -/
def execVadd (d a b : BitVec 6) (s' : BitVec 1) (s : State) : Host.Outcome State Fault Refusal :=
  runVInt (.vadd d a b s') d a b s' (fun w x y => (x + y) % 2 ^ w) s

/-- VSUB (R308). -/
def execVsub (d a b : BitVec 6) (s' : BitVec 1) (s : State) : Host.Outcome State Fault Refusal :=
  runVInt (.vsub d a b s') d a b s' (fun w x y => wrap w (Int.ofNat x - Int.ofNat y)) s

/-- VMUL (R308). -/
def execVmul (d a b : BitVec 6) (s' : BitVec 1) (s : State) : Host.Outcome State Fault Refusal :=
  runVInt (.vmul d a b s') d a b s' (fun w x y => (x * y) % 2 ^ w) s

/-- VMULH (R308). -/
def execVmulh (d a b : BitVec 6) (s' : BitVec 1) (s : State) : Host.Outcome State Fault Refusal :=
  runVInt (.vmulh d a b s') d a b s' (fun w x y => mulHigh w x y) s

/-- VAND (R308). -/
def execVand (d a b : BitVec 6) (s' : BitVec 1) (s : State) : Host.Outcome State Fault Refusal :=
  runVInt (.vand d a b s') d a b s' (fun _ x y => x &&& y) s

/-- VOR (R308). -/
def execVor (d a b : BitVec 6) (s' : BitVec 1) (s : State) : Host.Outcome State Fault Refusal :=
  runVInt (.vor d a b s') d a b s' (fun _ x y => x ||| y) s

/-- VXOR (R308). -/
def execVxor (d a b : BitVec 6) (s' : BitVec 1) (s : State) : Host.Outcome State Fault Refusal :=
  runVInt (.vxor d a b s') d a b s' (fun _ x y => x ^^^ y) s

/-- VSLL (R308). -/
def execVsll (d a b : BitVec 6) (s' : BitVec 1) (s : State) : Host.Outcome State Fault Refusal :=
  runVInt (.vsll d a b s') d a b s' (fun w x y => (x <<< (y % w)) % 2 ^ w) s

/-- VSRL (R308). -/
def execVsrl (d a b : BitVec 6) (s' : BitVec 1) (s : State) : Host.Outcome State Fault Refusal :=
  runVInt (.vsrl d a b s') d a b s' (fun w x y => x >>> (y % w)) s

/-- VSRA (R308). -/
def execVsra (d a b : BitVec 6) (s' : BitVec 1) (s : State) : Host.Outcome State Fault Refusal :=
  runVInt (.vsra d a b s') d a b s' (fun w x y => sraW w x (y % w)) s

/-- VMIN (R308). -/
def execVmin (d a b : BitVec 6) (s' : BitVec 1) (s : State) : Host.Outcome State Fault Refusal :=
  runVInt (.vmin d a b s') d a b s' (fun w x y => if signed w x ≤ signed w y then x else y) s

/-- VMAX (R308). -/
def execVmax (d a b : BitVec 6) (s' : BitVec 1) (s : State) : Host.Outcome State Fault Refusal :=
  runVInt (.vmax d a b s') d a b s' (fun w x y => if signed w x ≥ signed w y then x else y) s

/-- VMINU (R308). -/
def execVminu (d a b : BitVec 6) (s' : BitVec 1) (s : State) : Host.Outcome State Fault Refusal :=
  runVInt (.vminu d a b s') d a b s' (fun _ x y => if x ≤ y then x else y) s

/-- VMAXU (R308). -/
def execVmaxu (d a b : BitVec 6) (s' : BitVec 1) (s : State) : Host.Outcome State Fault Refusal :=
  runVInt (.vmaxu d a b s') d a b s' (fun _ x y => if x ≥ y then x else y) s

/-- VSEL (R309): the VMASK predicate selects; every i below VLEN is written. In a block VMASK does not apply. -/
def execVsel (d a b : BitVec 6) (s : State) : Host.Outcome State Fault Refusal :=
  runVector vecRules (.vsel d a b) (fun cx =>
    let w := elemWidth cx.g
    vecChecks (.vsel d a b) [a.toNat, b.toNat] [d.toNat] (integerFmt cx.g)
      (fun cx =>
        let all := match cx.vps with | some l => l | none => upFrom 0 (readVlen cx)
        okElems cx d.toNat w 0 0 (all.map fun j =>
          (j, if cx.vps.isSome || maskBit cx j then elem cx a.toNat w j else elem cx b.toNat w j))) cx) s

/-- VBCS (R309). -/
def execVbcs (d a : BitVec 6) (s : State) : Host.Outcome State Fault Refusal :=
  runVector vecRules (.vbcs d a) (fun cx =>
    let w := elemWidth cx.g
    vecChecks (.vbcs d a) [] [d.toNat] (integerFmt cx.g) (fun cx => okMap cx d.toNat w 0 fun _ => (scalarElem cx a.toNat w, 0)) cx) s

/-- VID (R309). -/
def execVid (d : BitVec 6) (s : State) : Host.Outcome State Fault Refusal :=
  runVector vecRules (.vid d) (fun cx =>
    let w := elemWidth cx.g
    vecChecks (.vid d) [] [d.toNat] (integerFmt cx.g) (fun cx => okMap cx d.toNat w 0 fun j => (j % 2 ^ w, 0)) cx) s

/-- VPOPC (R309). -/
def execVpopc (d a : BitVec 6) (s : State) : Host.Outcome State Fault Refusal :=
  runVector vecRules (.vpopc d a) (fun cx =>
    let w := elemWidth cx.g
    vecChecks (.vpopc d a) [a.toNat] [d.toNat] (integerFmt cx.g)
      (fun cx => okMap cx d.toNat w 0 fun j => (popcount (elem cx a.toNat w j) w, 0)) cx) s

/-! ### Floating point (R310, R311) -/

/-- A floating instruction d[i] := f fmt FCSR a[i] y d[i], with its flags. -/
def runVFp (i : Instr) (d a b : BitVec 6) (sc : BitVec 1) (f : Nat → Word → Nat → Nat → Nat → Nat × Nat) (s : State) :
    Host.Outcome State Fault Refusal :=
  runVector vecRules i (fun cx =>
    let w := elemWidth cx.g
    vecChecks i (a.toNat :: yRegs sc b) [d.toNat] (floatFmt cx.g)
      (fun cx => okMap cx d.toNat w 0 fun j =>
        f (vtFmt cx.g) cx.g.fcsr (elem cx a.toNat w j) (yElem cx sc b w j) (elem cx d.toNat w j)) cx) s

/-- The sign bit of a code. -/
def signBit (f c : Nat) : Bool := bit c (fpWidth f - 1)

/-- Magnitude of x with a sign; a NaN gives the canonical NaN (R310). -/
def signInject (f x : Nat) (neg : Bool) : Nat :=
  if isNaN (decodeF f x) then canonNaN f else withSign f neg (x % 2 ^ (fpWidth f - 1))

/-- VFADD (R310). -/
def execVfadd (d a b : BitVec 6) (s' : BitVec 1) (s : State) : Host.Outcome State Fault Refusal :=
  runVFp (.vfadd d a b s') d a b s' (fun f c x y _ => fadd f c x y) s

/-- VFSUB (R310). -/
def execVfsub (d a b : BitVec 6) (s' : BitVec 1) (s : State) : Host.Outcome State Fault Refusal :=
  runVFp (.vfsub d a b s') d a b s' (fun f c x y _ => fsub f c x y) s

/-- VFMUL (R310). -/
def execVfmul (d a b : BitVec 6) (s' : BitVec 1) (s : State) : Host.Outcome State Fault Refusal :=
  runVFp (.vfmul d a b s') d a b s' (fun f c x y _ => fmul f c x y) s

/-- VFFMA (R310). -/
def execVffma (d a b : BitVec 6) (s' : BitVec 1) (s : State) : Host.Outcome State Fault Refusal :=
  runVFp (.vffma d a b s') d a b s' (fun f c x y z => ffma f c x y z) s

/-- VFMIN (R310). -/
def execVfmin (d a b : BitVec 6) (s' : BitVec 1) (s : State) : Host.Outcome State Fault Refusal :=
  runVFp (.vfmin d a b s') d a b s' (fun f _ x y _ => fminmax false f x y) s

/-- VFMAX (R310). -/
def execVfmax (d a b : BitVec 6) (s' : BitVec 1) (s : State) : Host.Outcome State Fault Refusal :=
  runVFp (.vfmax d a b s') d a b s' (fun f _ x y _ => fminmax true f x y) s

/-- VFSGN (R310). -/
def execVfsgn (d a b : BitVec 6) (s' : BitVec 1) (s : State) : Host.Outcome State Fault Refusal :=
  runVFp (.vfsgn d a b s') d a b s' (fun f _ x y _ => (signInject f x (signBit f y), 0)) s

/-- VFSGN_N (R310). -/
def execVfsgnN (d a b : BitVec 6) (s' : BitVec 1) (s : State) : Host.Outcome State Fault Refusal :=
  runVFp (.vfsgnN d a b s') d a b s' (fun f _ x y _ => (signInject f x (!signBit f y), 0)) s

/-- VFSGN_X (R310). -/
def execVfsgnX (d a b : BitVec 6) (s' : BitVec 1) (s : State) : Host.Outcome State Fault Refusal :=
  runVFp (.vfsgnX d a b s') d a b s' (fun f _ x y _ => (signInject f x (signBit f x != signBit f y), 0)) s

/-- A long-latency floating instruction of major 0x14: d[i] := f fmt FCSR a[i] (R311). -/
def runVFun (i : Instr) (d a : BitVec 6) (l : BitVec 4) (g : FV → FV × Nat) (s : State) : Host.Outcome State Fault Refusal :=
  runVector vecRules i (fun cx =>
    let w := elemWidth cx.g
    vecChecks i [a.toNat] [d.toNat] (floatFmt cx.g)
      (fun cx => okMap cx d.toNat w l.toNat fun j => funary g (vtFmt cx.g) cx.g.fcsr (elem cx a.toNat w j)) cx) s

/-- VFDIV (R311). -/
def execVfdiv (d a b : BitVec 6) (l : BitVec 4) (s : State) : Host.Outcome State Fault Refusal :=
  runVector vecRules (.vfdiv d a b l) (fun cx =>
    let w := elemWidth cx.g
    vecChecks (.vfdiv d a b l) [a.toNat, b.toNat] [d.toNat] (floatFmt cx.g)
      (fun cx => okMap cx d.toNat w l.toNat fun j =>
        fdiv (vtFmt cx.g) cx.g.fcsr (elem cx a.toNat w j) (elem cx b.toNat w j)) cx) s

/-- VFSQRT (R311). -/
def execVfsqrt (d a : BitVec 6) (l : BitVec 4) (s : State) : Host.Outcome State Fault Refusal := runVFun (.vfsqrt d a l) d a l sqrtF s

/-- VFUN_RCP (R311). -/
def execVfunRcp (d a : BitVec 6) (l : BitVec 4) (s : State) : Host.Outcome State Fault Refusal := runVFun (.vfunRcp d a l) d a l rcpF s

/-- VFUN_RSQ (R311). -/
def execVfunRsq (d a : BitVec 6) (l : BitVec 4) (s : State) : Host.Outcome State Fault Refusal := runVFun (.vfunRsq d a l) d a l rsqF s

/-- VFUN_EXP2 (R311). -/
def execVfunExp2 (d a : BitVec 6) (l : BitVec 4) (s : State) : Host.Outcome State Fault Refusal := runVFun (.vfunExp2 d a l) d a l exp2F s

/-- VFUN_LOG2 (R311). -/
def execVfunLog2 (d a : BitVec 6) (l : BitVec 4) (s : State) : Host.Outcome State Fault Refusal := runVFun (.vfunLog2 d a l) d a l log2F s

/-- VFUN_SIN (R311). -/
def execVfunSin (d a : BitVec 6) (l : BitVec 4) (s : State) : Host.Outcome State Fault Refusal := runVFun (.vfunSin d a l) d a l (trigF false) s

/-- VFUN_COS (R311). -/
def execVfunCos (d a : BitVec 6) (l : BitVec 4) (s : State) : Host.Outcome State Fault Refusal := runVFun (.vfunCos d a l) d a l (trigF true) s

/-! ### Conversions (R312 to R317) -/

/-- The rounding mode of a conversion: code 5 is FCSR.RM. -/
def cvtMode (g : Group) (m : BitVec 3) : Nat := if m = 5 then fcsrRM g.fcsr else m.toNat

def isIntFmt (f : Nat) : Bool := decide (8 ≤ f) && decide (f ≤ 11)

/-- Pairs VCVT accepts (R313). -/
def vcvtPair (src t : Nat) : Bool :=
  [(0, 10), (10, 0), (1, 9), (9, 1), (2, 9), (9, 2), (1, 2), (2, 1)].contains (src, t)

/-- Pairs VNARW accepts (R314). -/
def vnarwPair (src t : Nat) : Bool :=
  match src with
  | 0 => [1, 2, 3, 4, 5, 6, 7, 9, 8].contains t
  | 1 => [3, 4, 5, 6, 7, 8].contains t
  | 2 => [3, 4, 5, 6, 7, 8].contains t
  | 11 => [10, 9, 8, 0, 1, 2].contains t
  | 10 => [9, 8, 1, 2].contains t
  | 9 => decide (t = 8)
  | _ => false

/-- Whether the pair uses the SAT and UNS bits that are set (R312): UNS is for an integer side, and where `satInt` is false SAT is
for float to float. An unused bit is a combination the row does not list: illegal-format. -/
def bitsOk (src t : Nat) (sat uns : Bool) (satInt : Bool) : Bool :=
  !(sat && !satInt && (isIntFmt src || isIntFmt t)) && !(uns && !isIntFmt src && !isIntFmt t)

/-- One element through VCVT or VNARW (R313, R314): a narrowed integer clamps under SAT and else wraps, with no flag. -/
def convertElem (x src t mode : Nat) (sat uns : Bool) : Nat × Nat :=
  if isIntFmt src && isIntFmt t then
    let v := intValue (fmtWidth src) uns x
    let lo := intLo (fmtWidth t) uns
    let hi := intHi (fmtWidth t) uns
    (wrap (fmtWidth t) (if sat then (if v < lo then lo else if v > hi then hi else v) else v), 0)
  else
    let r := convert x src t mode sat uns
    (r.1 % 2 ^ fmtWidth t, r.2)

/-- VCVT (R312, R313). -/
def execVcvt (d a : BitVec 6) (t : BitVec 4) (m : BitVec 3) (sat uns : BitVec 1) (s : State) : Host.Outcome State Fault Refusal :=
  let i := Instr.vcvt d a t m sat uns
  runVector vecRules i (fun cx =>
    let f := vtFmt cx.g
    if m.toNat > 5 then illegal cx (encode i)
    else vecChecks i [a.toNat] [d.toNat] (vcvtPair f t.toNat && decide (m ≠ 4) && bitsOk f t.toNat (sat = 1) (uns = 1) false)
      (fun cx => okMap cx d.toNat (elemWidth cx.g) 0 fun j =>
        convertElem (elem cx a.toNat (elemWidth cx.g) j) f t.toNat (cvtMode cx.g m) (sat = 1) (uns = 1)) cx) s

/-- One link of the error-feedback chain (R46): the carry as FP32, the codes so far and the flags. A signalling element sets NV
where Narrow meets it; a signalling carry sets no flag, since the sum makes it quiet (DESIGN CHOICE, log entry 79). -/
def efStep (cx : Cx) (a src t : Nat) (sat : Bool) (acc : Nat × List (Nat × Nat) × Nat) (i : Nat) : Nat × List (Nat × Nat) × Nat :=
  let x := decodeF src (elem cx a (fmtWidth src) i)
  let v := if isNaN x then x else (addF 0 x (decodeF 0 acc.1)).1
  let y := narrow v t 0 sat
  let c := match v, decodeF t y.1 with
    | .num .., .num n m e => (narrow (addF 0 v (.num (!n) m e)).1 0 0 false).1
    | _, _ => 0
  (c, acc.2.1 ++ [(i, y.1)], acc.2.2 ||| y.2)

/-- VNARW (R312, R314); mode EF runs the chain of R46 and writes ECAR (R47), and is illegal in a block (DEDUCED, log entry 29). -/
def execVnarw (d a : BitVec 6) (t : BitVec 4) (m : BitVec 3) (sat uns : BitVec 1) (s : State) : Host.Outcome State Fault Refusal :=
  let i := Instr.vnarw d a t m sat uns
  runVector vecRules i (fun cx =>
    let f := vtFmt cx.g
    let ef := decide (m = 4)
    if m.toNat > 5 ∨ (ef ∧ cx.vps.isSome) then illegal cx (encode i)
    else vecChecks i [a.toNat] [d.toNat]
      (vnarwPair f t.toNat && !(ef && (isIntFmt f || isIntFmt t.toNat)) && bitsOk f t.toNat (sat = 1) (uns = 1) true)
      (fun cx =>
        if ef then
          let r := (active cx).foldl (efStep cx a.toNat f t.toNat (sat = 1)) (cx.g.ecar.toNat % 2 ^ 32, [], 0)
          okElems { cx with g := { cx.g with ecar := BitVec.ofNat 64 r.1 } } d.toNat (fmtWidth t.toNat) 0 r.2.2 r.2.1
        else okMap cx d.toNat (fmtWidth t.toNat) 0 fun j =>
          convertElem (elem cx a.toNat (elemWidth cx.g) j) f t.toNat (cvtMode cx.g m) (sat = 1) (uns = 1)) cx) s

/-- Pairs VWIDE accepts (R315). -/
def vwidePair (src t : Nat) : Bool :=
  decide (t ≤ 11) && decide (fmtWidth t > fmtWidth src) &&
    ((decide (src ≤ 7) && decide (t ≤ 7)) || (isIntFmt src && (isIntFmt t || decide (t ≤ 2))))

/-- Whether the registers of a wide destination may be written (R304). -/
def wideWriteOk (cx : Cx) (d wt : Nat) : Bool := (upFrom d (wideCount cx wt)).all (vWriteOk cx.g)

/-- Whether the registers of a wide source are named. -/
def wideReadOk (cx : Cx) (d wt : Nat) : Bool := (upFrom d (wideCount cx wt)).all (vReadOk cx.g)

/-- Completes with elements of the wide destination at `d` written. -/
def okWide (cx : Cx) (d wt fl : Nat) (rs : List (Nat × Nat)) : Out := ok { cx with g := raise (putWide cx d wt rs) fl }

/-- One widened element: image, flags, and whether the value has an exact image in the target. E2M3 holds values that
E5M2 does not; the spec states no result for them (log entry 16). -/
def widenElem (x src t : Nat) (uns : Bool) : Nat × Nat × Bool :=
  if isIntFmt src && isIntFmt t then (wrap (fmtWidth t) (intValue (fmtWidth src) uns x), 0, true)
  else
    let r := convert x src t 0 false uns
    (r.1, r.2 &&& flNV, decide (r.2 &&& flNX = 0))

/-- VWIDE (R315): exact (DESIGN CHOICE, log entry 16). -/
def execVwide (d a : BitVec 6) (t : BitVec 4) (uns : BitVec 1) (s : State) : Host.Outcome State Fault Refusal :=
  let i := Instr.vwide d a t uns
  runVector vecRules i (fun cx =>
    let f := vtFmt cx.g
    let wt := fmtWidth t.toNat
    if !(vReadOk cx.g a.toNat && (if t.toNat ≤ 11 then wideWriteOk cx d.toNat wt else vWriteOk cx.g d.toNat)) then illegal cx (encode i)
    else if !vwidePair f t.toNat ∨ (uns = 1 ∧ !isIntFmt f) then illegalFormat cx (encode i)
    else
      let rs := (active cx).map fun j => (j, widenElem (elem cx a.toNat (elemWidth cx.g) j) f t.toNat (uns = 1))
      okWide cx d.toNat wt (rs.foldl (fun a r => a ||| r.2.2.1) 0)
        (rs.map fun r => (r.1, if r.2.2.2 then r.2.1 else (Config.freeWord cx.s.draws r.1).toNat % 2 ^ wt))) s

/-- Formats of block-scaled elements with a block size (R316). -/
def blockFmt (g : Group) : Bool := decide (3 ≤ vtFmt g) && decide (vtFmt g ≤ 7) && decide (vtBlk g ≠ 0)

/-- VBSCL (R316): headers are 16-bit elements of v(b). -/
def execVbscl (d a b : BitVec 6) (m : BitVec 3) (sat : BitVec 1) (s : State) : Host.Outcome State Fault Refusal :=
  let i := Instr.vbscl d a b m sat
  runVector vecRules i (fun cx =>
    if m.toNat > 5 ∨ !(vReadOk cx.g a.toNat && vReadOk cx.g b.toNat && wideWriteOk cx d.toNat 32) then illegal cx (encode i)
    else if m = 4 ∨ !blockFmt cx.g then illegalFormat cx (encode i)
    else
      let w := elemWidth cx.g
      let z := blockSize (vtBlk cx.g)
      let rs := (active cx).map fun j =>
        (j, narrow (blockValue (elem cx a.toNat w j) (bits (vecImage cx b.toNat j) (j / z * 16) 16) (vtFmt cx.g) (vtXve cx.g)) 0
          (cvtMode cx.g m) (sat = 1))
      okWide cx d.toNat 32 (rs.foldl (fun a r => a ||| r.2.2) 0) (rs.map fun r => (r.1, r.2.1))) s

/-- Blocks of VQUANT (R317): header, codes and flags of block j. -/
def quantOne (cx : Cx) (a z mode : Nat) (sat : Bool) (act : List Nat) (j : Nat) : Nat × List (Nat × Nat) × Nat :=
  let mine := act.filter fun i => i / z = j
  let r := quantBlock (mine.map fun i => decodeF 0 (wideElem cx a 32 i)) (vtFmt cx.g) (vtXve cx.g) mode sat
  (r.1, mine.zip r.2.1, r.2.2)

/-- VQUANT (R317): inactive elements below VLEN receive +0 codes; illegal in a block. -/
def execVquant (d a b : BitVec 6) (m : BitVec 3) (sat : BitVec 1) (s : State) : Host.Outcome State Fault Refusal :=
  let i := Instr.vquant d a b m sat
  runGroup vecRules i (fun cx =>
    if m.toNat > 5 ∨ !(wideReadOk cx a.toNat 32 && vWriteOk cx.g d.toNat && vWriteOk cx.g b.toNat) ∨ d = b ∨
        (a.toNat ≤ d.toNat ∧ d.toNat < a.toNat + wideCount cx 32) then illegal cx (encode i)
    else if m = 4 ∨ !blockFmt cx.g then illegalFormat cx (encode i)
    else
      let n := readVlen cx
      let z := blockSize (vtBlk cx.g)
      let blocks := upFrom 0 (ceilDiv n z)
      let act := active cx
      let rs := blocks.map fun j => (j, quantOne cx a.toNat z (cvtMode cx.g m) (sat = 1) act j)
      let codes := rs.flatMap fun r => r.2.2.1
      let zeros := ((upFrom 0 n).filter fun j => !maskBit cx j).map fun j => (j, 0)
      let hm := packElems 16 (rs.map fun r => (r.1, r.2.1))
      okElems { cx with g := putVec cx.g b.toNat hm.1 hm.2 } d.toNat (elemWidth cx.g) 0 (rs.foldl (fun a r => a ||| r.2.2.2) 0) (codes ++ zeros)) s

/-! ### Compares (R318, R319) -/

/-- VCMP (R318). -/
def execVcmp (p : BitVec 7) (a b : BitVec 6) (s' : BitVec 1) (c : BitVec 3) (s : State) : Host.Outcome State Fault Refusal :=
  let i := Instr.vcmp p a b s' c
  runVector vecRules i (fun cx =>
    let w := elemWidth cx.g
    if c.toNat > 5 then illegal cx (encode i)
    else vecChecks i (a.toNat :: yRegs s' b) [] (integerFmt cx.g)
      (fun cx => okPred cx p.toNat 0 fun j => condHolds w c.toNat (elem cx a.toNat w j) (yElem cx s' b w j)) cx) s

/-- One floating compare (R318): EQ, NE, LT, LE, UNORD, with the flag. -/
def fcompare (f c x y : Nat) : Bool × Nat :=
  let u := decodeF f x
  let v := decodeF f y
  let nv := if c = 2 ∨ c = 3 then (if isNaN u ∨ isNaN v then flNV else 0) else snanFlag u ||| snanFlag v
  match compareF u v with
  | none => (decide (c = 1) || decide (c = 4), nv)
  | some d =>
    (match c with
      | 0 => decide (d = 0)
      | 1 => decide (d ≠ 0)
      | 2 => decide (d < 0)
      | 3 => decide (d ≤ 0)
      | _ => false, nv)

/-- VFCMP (R318). -/
def execVfcmp (p : BitVec 7) (a b : BitVec 6) (s' : BitVec 1) (c : BitVec 3) (s : State) : Host.Outcome State Fault Refusal :=
  let i := Instr.vfcmp p a b s' c
  runVector vecRules i (fun cx =>
    let w := elemWidth cx.g
    if c.toNat > 4 then illegal cx (encode i)
    else vecChecks i (a.toNat :: yRegs s' b) [] (floatFmt cx.g)
      (fun cx =>
        let r := fun j => fcompare (vtFmt cx.g) c.toNat (elem cx a.toNat w j) (yElem cx s' b w j)
        okPred cx p.toNat ((active cx).foldl (fun a j => a ||| (r j).2) 0) fun j => (r j).1) cx) s

/-- Kind of an element (R319): bit 0 NaN, 1 infinity, 2 normal, 3 subnormal, 4 zero. -/
def classOf (f c : Nat) : Nat :=
  match decodeF f c with
  | .nan _ => 1
  | .inf _ => 2
  | .num _ m _ => if m = 0 then 16 else if m < 2 ^ fpM f then 8 else 4

/-- VCLASS (R319). -/
def execVclass (p : BitVec 7) (a m : BitVec 6) (s : State) : Host.Outcome State Fault Refusal :=
  runVector vecRules (.vclass p a m) (fun cx =>
    let w := elemWidth cx.g
    vecChecks (.vclass p a m) [a.toNat] [] (floatFmt cx.g)
      (fun cx => okPred cx p.toNat 0 fun j =>
        let x := elem cx a.toNat w j
        decide (classOf (vtFmt cx.g) x &&& (m.toNat % 32) ≠ 0) && (!m.getLsbD 5 || signBit (vtFmt cx.g) x)) cx) s

/-! ### Permutes (R320), illegal in a block -/

/-- Element j of a register if j is below VLEN, else 0. -/
def elemBelow (cx : Cx) (a w j : Nat) : Nat := if j < readVlen cx then elem cx a w j else 0

/-- A permute. -/
def runPerm (i : Instr) (reads writes : List Nat) (f : Cx → Nat → Out) (s : State) : Host.Outcome State Fault Refusal :=
  runGroup vecRules i (fun cx => vecChecks i reads writes (integerFmt cx.g) (fun cx => f cx (elemWidth cx.g)) cx) s

/-- VSLUP. -/
def execVslup (d a b : BitVec 6) (s : State) : Host.Outcome State Fault Refusal :=
  runPerm (.vslup d a b) [a.toNat] [d.toNat] (fun cx w =>
    let k := (readS cx b.toNat).toNat
    okElems cx d.toNat w 0 0 (((active cx).filter fun i => decide (k ≤ i)).map fun i => (i, elem cx a.toNat w (i - k)))) s

/-- VSLDN. -/
def execVsldn (d a b : BitVec 6) (s : State) : Host.Outcome State Fault Refusal :=
  runPerm (.vsldn d a b) [a.toNat] [d.toNat] (fun cx w =>
    let k := (readS cx b.toNat).toNat
    okMap cx d.toNat w 0 fun i => (elemBelow cx a.toNat w (i + k), 0)) s

/-- VRGATH. -/
def execVrgath (d a b : BitVec 6) (s : State) : Host.Outcome State Fault Refusal :=
  runPerm (.vrgath d a b) [a.toNat, b.toNat] [d.toNat] (fun cx w =>
    okMap cx d.toNat w 0 fun i => (elemBelow cx a.toNat w (elem cx b.toNat w i), 0)) s

/-- VCOMPR: s(b) receives the count. -/
def execVcompr (d a b : BitVec 6) (s : State) : Host.Outcome State Fault Refusal :=
  runPerm (.vcompr d a b) [a.toNat] [d.toNat] (fun cx w =>
    let act := active cx
    let rs := (upFrom 0 act.length).zip (act.map fun i => elem cx a.toNat w i)
    okElems (withTh cx (writeX cx.g.th b.toNat (BitVec.ofNat 64 act.length))) d.toNat w 0 0 rs) s

/-- VEXPND. -/
def execVexpnd (d a : BitVec 6) (s : State) : Host.Outcome State Fault Refusal :=
  runPerm (.vexpnd d a) [a.toNat] [d.toNat] (fun cx w =>
    let act := active cx
    okElems cx d.toNat w 0 0 (act.zip ((upFrom 0 act.length).map fun k => elem cx a.toNat w k))) s

/-- VBCAST. -/
def execVbcast (d a b : BitVec 6) (s : State) : Host.Outcome State Fault Refusal :=
  runPerm (.vbcast d a b) [a.toNat] [d.toNat] (fun cx w =>
    let j := (readS cx b.toNat).toNat
    okMap cx d.toNat w 0 fun _ => (elemBelow cx a.toNat w j, 0)) s

/-- VEXTR: d is an s register. -/
def execVextr (d a b : BitVec 6) (s : State) : Host.Outcome State Fault Refusal :=
  runPerm (.vextr d a b) [a.toNat] [] (fun cx w =>
    okWrite cx d.toNat (BitVec.ofNat 64 (elemBelow cx a.toNat w (readS cx b.toNat).toNat)) 0) s

/-- VINS: a is an s register. -/
def execVins (d a b : BitVec 6) (s : State) : Host.Outcome State Fault Refusal :=
  runPerm (.vins d a b) [] [d.toNat] (fun cx w =>
    let j := (readS cx b.toNat).toNat
    okElems cx d.toNat w 0 0 (if j < readVlen cx then [(j, scalarElem cx a.toNat w)] else [])) s

/-! ### Reductions (R321), illegal in a block -/

/-- An integer reduction: `f w` folds the active elements into y, and `ext w` extends the result. -/
def runRed (i : Instr) (d a b : BitVec 6) (f : Nat → Nat → Nat → Nat) (ext : Nat → Nat → Word) (s : State) :
    Host.Outcome State Fault Refusal :=
  runPerm i [a.toNat] [] (fun cx w =>
    let y := scalarElem cx b.toNat w
    okWrite cx d.toNat (ext w ((active cx).foldl (fun acc j => f w acc (elem cx a.toNat w j)) y)) 0) s

/-- w bits sign-extended to 64. -/
def sextW (w x : Nat) : Word := BitVec.ofInt 64 (signed w x)

/-- w bits zero-extended to 64. -/
def zextW (w x : Nat) : Word := BitVec.ofNat 64 (x % 2 ^ w)

/-- VREDSUM (R321). -/
def execVredsum (d a b : BitVec 6) (s : State) : Host.Outcome State Fault Refusal :=
  runRed (.vredsum d a b) d a b (fun w x y => (x + y) % 2 ^ w) sextW s

/-- VREDMIN (R321). -/
def execVredmin (d a b : BitVec 6) (s : State) : Host.Outcome State Fault Refusal :=
  runRed (.vredmin d a b) d a b (fun w x y => if signed w x ≤ signed w y then x else y) sextW s

/-- VREDMAX (R321). -/
def execVredmax (d a b : BitVec 6) (s : State) : Host.Outcome State Fault Refusal :=
  runRed (.vredmax d a b) d a b (fun w x y => if signed w x ≥ signed w y then x else y) sextW s

/-- VREDMIN_U (R321). -/
def execVredminU (d a b : BitVec 6) (s : State) : Host.Outcome State Fault Refusal :=
  runRed (.vredminU d a b) d a b (fun _ x y => if x ≤ y then x else y) zextW s

/-- VREDMAX_U (R321). -/
def execVredmaxU (d a b : BitVec 6) (s : State) : Host.Outcome State Fault Refusal :=
  runRed (.vredmaxU d a b) d a b (fun _ x y => if x ≥ y then x else y) zextW s

/-- VREDLOG_AND (R321). -/
def execVredlogAnd (d a b : BitVec 6) (s : State) : Host.Outcome State Fault Refusal :=
  runRed (.vredlogAnd d a b) d a b (fun _ x y => x &&& y) zextW s

/-- VREDLOG_OR (R321). -/
def execVredlogOr (d a b : BitVec 6) (s : State) : Host.Outcome State Fault Refusal :=
  runRed (.vredlogOr d a b) d a b (fun _ x y => x ||| y) zextW s

/-- VREDLOG_XOR (R321). -/
def execVredlogXor (d a b : BitVec 6) (s : State) : Host.Outcome State Fault Refusal :=
  runRed (.vredlogXor d a b) d a b (fun _ x y => x ^^^ y) zextW s

/-- One level of the tree of R48: neighbours summed. -/
def treeLevel (f : Nat) (fcsr : Word) : List Nat → List Nat × Nat
  | x :: y :: r =>
    let a := fadd f fcsr x y
    let q := treeLevel f fcsr r
    (a.1 :: q.1, a.2 ||| q.2)
  | l => (l, 0)

/-- The tree of R48, `n` levels. -/
def treeSum (f : Nat) (fcsr : Word) : Nat → List Nat → Nat × Nat
  | 0, l => (l.headD 0, 0)
  | n + 1, l =>
    let q := treeLevel f fcsr l
    let r := treeSum f fcsr n q.1
    (r.1, q.2 ||| r.2)

/-- Levels of the tree: P = 2^levels is the smallest power of two not less than VLEN. -/
def treeDepth (n : Nat) : Nat := if n ≤ 1 then 0 else Nat.log2 (n - 1) + 1

/-- VFREDSUM (R321, R48). -/
def execVfredsum (d a b : BitVec 6) (s : State) : Host.Outcome State Fault Refusal :=
  runGroup vecRules (.vfredsum d a b) (fun cx =>
    vecChecks (.vfredsum d a b) [a.toNat] [] (floatFmt cx.g) (fun cx =>
      let w := elemWidth cx.g
      let f := vtFmt cx.g
      let n := treeDepth (readVlen cx)
      let leaf := fun j => if j < readVlen cx && maskBit cx j then elem cx a.toNat w j else withSign f true 0
      let t := treeSum f cx.g.fcsr n ((upFrom 0 (2 ^ n)).map leaf)
      let r := fadd f cx.g.fcsr (scalarElem cx b.toNat w) t.1
      okFloat cx d.toNat (r.1, r.2 ||| t.2)) cx) s

/-- A floating code as an instruction produces it: a NaN becomes the canonical NaN (R35). -/
def canonical (f x : Nat) : Nat := if isNaN (decodeF f x) then canonNaN f else x

/-- VFREDMAX (R321, R39). With no active element the spec states no result: the model returns y, a NaN as the canonical NaN, and
sets no flag (DESIGN CHOICE, log entry 78). -/
def execVfredmax (d a b : BitVec 6) (s : State) : Host.Outcome State Fault Refusal :=
  runGroup vecRules (.vfredmax d a b) (fun cx =>
    vecChecks (.vfredmax d a b) [a.toNat] [] (floatFmt cx.g) (fun cx =>
      let w := elemWidth cx.g
      let r := (active cx).foldl (fun acc j =>
        let m := fminmax true (vtFmt cx.g) acc.1 (elem cx a.toNat w j)
        (m.1, acc.2 ||| m.2)) (scalarElem cx b.toNat w, 0)
      okFloat cx d.toNat (canonical (vtFmt cx.g) r.1, r.2)) cx) s

end Sys2Proof.Machine
end

