-- ==== Sys2Proof/Machine/Vmem.lean ====
section
/-! DEFINITION. Vector loads and stores (R322 to R327), vector atomics (R335 to R338) and block control (R328 to R334). -/
namespace Sys2Proof.Machine

/-! ### Loads and stores -/

/-- Byte address and bit offset of a bit address. -/
def byteOf (b : Nat) : Word × Nat := (BitVec.ofNat 64 (b / 8), b % 8)

/-- Loads the two parts of an element that straddles two bytes: both are translated before either is read (R202, R373). -/
def loadSplit (cx : Cx) (va : Word) (o w e : Nat) (first : Bool) : Got :=
  match findLoad cx va 1 e first with
  | .bad cx1 f => .bad cx1 f
  | .spec => .spec
  | .at cx1 l1 =>
    match findLoad cx1 (va + 1) 1 e first with
    | .bad cx2 f => .bad cx2 f
    | .spec => .spec
    | .at cx2 l2 =>
      match loadAt cx2 l1 va 1 with
      | .val cx3 lo =>
        (match loadAt cx3 l2 (va + 1) 1 with
          | .val cx4 hi => .val cx4 (bits (lo + 256 * hi) o w)
          | r => r)
      | r => r

/-- Loads a `w`-bit element at a bit address; a 6-bit element may straddle two bytes, each translated by itself (R202). -/
def loadElem (cx : Cx) (addr w e : Nat) (first : Bool) : Got :=
  let (va, o) := byteOf addr
  if w ≥ 8 then loadVa cx va (w / 8) e first
  else if o + w ≤ 8 then
    (match loadVa cx va 1 e first with
      | .val cx1 lo => .val cx1 (bits lo o w)
      | r => r)
  else loadSplit cx va o w e first

/-- Resolves one byte for a sub-byte store that is not performed yet. -/
def resolveByte (cx : Cx) (va : Word) (e : Nat) : Cx × (Loc ⊕ Fate) :=
  match resolveCx cx va 1 .stage e with
  | (cx1, .at l) => (cx1, .inl l)
  | (cx1, .bad b) => (cx1, .inr (badFate b e))
  | (cx1, .lost) => (cx1, .inr .lost)

/-- Records the bits that a store has just written of the bytes at a place, from bit `o` of the first on (R386). -/
def coverStore (r : Got) (o n : Nat) : Got :=
  match r with
  | .val cx p => .val { cx with cover := if p = 0 then cx.cover else cx.cover ++ [(8 * (p - 1) + o, n)] } p
  | _ => r

/-- Stores bits `o` to `o + n - 1` of a byte, merged with its other bits (R44, R131). -/
def mergeByte (cx : Cx) (l : Loc) (o n v : Nat) : Got := coverStore (storeStaged cx l 1 (setBits (locRead cx.s l 1) o n v)) o n

/-- The lines that the stores of an instruction cover whole lose their poison (R386). -/
def settleCover (cx : Cx) : Cx := { cx with s := coverBits cx.s cx.cover, cover := [] }

/-- Stores a `w`-bit element at a bit address. -/
def storeElem (cx : Cx) (addr w v e : Nat) : Got :=
  let (va, o) := byteOf addr
  if w ≥ 8 then coverStore (storeVa cx va (w / 8) v e) 0 w
  else match resolveByte cx va e with
    | (cx1, .inr f) => .bad cx1 f
    | (cx1, .inl l) =>
      if o + w ≤ 8 then mergeByte cx1 l o w v
      else match resolveByte cx1 (va + 1) e with
        | (cx2, .inr f) => .bad cx2 f
        | (cx2, .inl l2) =>
          (match mergeByte cx2 l o (8 - o) v with
            | .val cx3 _ => mergeByte cx3 l2 0 (o + w - 8) (v >>> (8 - o))
            | r => r)

/-- imm7 scaled by 8, added to s(a). -/
def vecBase (cx : Cx) (a : BitVec 6) (i : BitVec 7) : Word := readS cx a.toNat + i.signExtend 64 * 8

/-- Bit address of element i in unit stride (R322). -/
def unitAddr (cx : Cx) (a : BitVec 6) (im : BitVec 7) (boff : Nat) (i : Nat) : Nat :=
  8 * (vecBase cx a im).toNat + 2 * boff + i * elemWidth cx.g

/-- Bit address of element i under VSTRIDE. -/
def strideAddr (cx : Cx) (a : BitVec 6) (im : BitVec 7) (i : Nat) : Nat :=
  8 * (vecBase cx a im + BitVec.ofNat 64 i * cx.g.vstride).toNat

/-- Bit address of element i under an index register (R323). -/
def indexAddr (cx : Cx) (a b : BitVec 6) (sx : Bool) (i : Nat) : Nat :=
  let w := elemWidth cx.g
  let x := elem cx b.toNat w i
  8 * (readS cx a.toNat + (if sx then BitVec.ofInt 64 (signed w x) else BitVec.ofNat 64 x)).toNat

/-- A vector load of the elements at the bit addresses `addr` (R324). -/
def runVLoad (i : Instr) (d : BitVec 6) (l : BitVec 4) (reads : List Nat) (fmtOk : Cx → Bool) (addr : Cx → Nat → Nat) (s : State) :
    Host.Outcome State Fault Refusal :=
  runVector vecRules i (fun cx =>
    vecChecks i reads [d.toNat] (fmtOk cx) (fun cx =>
      let w := elemWidth cx.g
      okLoad (sweepAll cx true fun c e first => loadElem c (addr cx e) w e first) d.toNat w l.toNat) cx) s

/-- The lines a vector store covers whole lose their poison (R386). -/
def coverSweep (w : Sweep) : Sweep := { w with cx := settleCover w.cx }

/-- A vector store of the elements of register `d` at the bit addresses `addr`. -/
def runVStore (i : Instr) (d : BitVec 6) (reads : List Nat) (fmtOk : Cx → Bool) (addr : Cx → Nat → Nat) (s : State) :
    Host.Outcome State Fault Refusal :=
  runVector vecRules i (fun cx =>
    vecChecks i (d.toNat :: reads) [] (fmtOk cx) (fun cx =>
      let w := elemWidth cx.g
      okSweep (coverSweep (sweepAll cx false fun c e _ => storeElem c (addr cx e) w (elem cx d.toNat w e) e))) cx) s

/-- A BOFF code is 0, or the format is E3M2 or E2M3 (R257). -/
def boffOk (b : BitVec 2) (cx : Cx) : Bool := decide (b = 0) || decide (vtFmt cx.g = 5) || decide (vtFmt cx.g = 6)

def wholeBytes (cx : Cx) : Bool := integerFmt cx.g

/-- VLD (R322). -/
def execVld (d a : BitVec 6) (b : BitVec 2) (i : BitVec 7) (l : BitVec 4) (s : State) : Host.Outcome State Fault Refusal :=
  runVLoad (.vld d a b i l) d l [] (boffOk b) (fun cx e => unitAddr cx a i b.toNat e) s

/-- VLDS (R322). -/
def execVlds (d a : BitVec 6) (i : BitVec 7) (l : BitVec 4) (s : State) : Host.Outcome State Fault Refusal :=
  runVLoad (.vlds d a i l) d l [] wholeBytes (fun cx e => strideAddr cx a i e) s

/-- VST (R322). -/
def execVst (d a : BitVec 6) (b : BitVec 2) (i : BitVec 7) (s : State) : Host.Outcome State Fault Refusal :=
  runVStore (.vst d a b i) d [] (boffOk b) (fun cx e => unitAddr cx a i b.toNat e) s

/-- VSTS (R322). -/
def execVsts (d a : BitVec 6) (i : BitVec 7) (s : State) : Host.Outcome State Fault Refusal :=
  runVStore (.vsts d a i) d [] wholeBytes (fun cx e => strideAddr cx a i e) s

/-- VLDX (R323). -/
def execVldx (d a b : BitVec 6) (l : BitVec 4) (s : State) : Host.Outcome State Fault Refusal :=
  runVLoad (.vldx d a b l) d l [b.toNat] wholeBytes (fun cx e => indexAddr cx a b false e) s

/-- VLDX.SX (R323). -/
def execVldxSx (d a b : BitVec 6) (l : BitVec 4) (s : State) : Host.Outcome State Fault Refusal :=
  runVLoad (.vldxSx d a b l) d l [b.toNat] wholeBytes (fun cx e => indexAddr cx a b true e) s

/-- VSTX (R323). -/
def execVstx (d a b : BitVec 6) (s : State) : Host.Outcome State Fault Refusal :=
  runVStore (.vstx d a b) d [b.toNat] wholeBytes (fun cx e => indexAddr cx a b false e) s

/-- VSTX.SX (R323). -/
def execVstxSx (d a b : BitVec 6) (s : State) : Host.Outcome State Fault Refusal :=
  runVStore (.vstxSx d a b) d [b.toNat] wholeBytes (fun cx e => indexAddr cx a b true e) s

/-! ### Vector atomics (R335, R336) -/

/-- Whether a base of address elements is legal; a 6-bit width has no layout, which is a matter of the format (R248). -/
def addrLegal (g : Group) (b : Nat) : Bool := decide (elemWidth g = 6) || addrOk g b

/-- The formats of an operation: FADD takes FP32, the others I32 and I64. -/
def atomFmt (g : Group) (op : Nat) : Bool := if op = 9 then decide (vtFmt g = 0) else decide (vtFmt g = 10) || decide (vtFmt g = 11)

/-- The new value of a vector atomic (R335). FADD rounds RNE, ignores FCSR and sets no flag. -/
def vatomNew (w op old x : Nat) : Nat := if op = 9 then (Machine.fadd 0 0 old x).1 else atomNew w op old x

/-- The sweep of a vector atomic: `f` gives the new value of element i from the old one, or none. -/
def atomSweep (cx : Cx) (b : BitVec 6) (f : Nat → Nat → Option Nat) : Sweep :=
  sweepAll cx false fun c e _ => atomicVa c (BitVec.ofNat 64 (elem64 cx b.toNat e)) (elemWidth cx.g / 8) e (f e)

/-- Ends a returning vector atomic: performed elements of d receive the old values. -/
def okAtomic (w : Sweep) (d wd la : Nat) : Out :=
  let pm := packElems wd w.vals
  let r := putVecLa (sweepGroup w) w.cx.vps.isSome d pm.1 pm.2 (if w.bad.isSome ∧ w.cx.vps.isNone then 0 else la)
  { cx := { w.cx with g := r.1 }, fate := sweepFate w, la := la, hid := r.2, ew := wd, stuck := w.stuck }

/-- VAMO (R335, R336). -/
def execVamo (d b : BitVec 6) (o p l : BitVec 4) (s : State) : Host.Outcome State Fault Refusal :=
  let i := Instr.vamo d b o p l
  runVector vecRules i (fun cx =>
    if p.toNat > 9 ∨ !addrLegal cx.g b.toNat then illegal cx (encode i)
    else vecChecks i [b.toNat] [d.toNat] (atomFmt cx.g p.toNat) (fun cx =>
      let w := elemWidth cx.g
      okAtomic (atomSweep cx b fun e old => some (vatomNew w p.toNat old (elem cx d.toNat w e))) d.toNat w l.toNat) cx) s

/-- VREDM (R335, R337): writes no register. -/
def execVredm (d b : BitVec 6) (o p : BitVec 4) (s : State) : Host.Outcome State Fault Refusal :=
  let i := Instr.vredm d b o p
  runVector vecRules i (fun cx =>
    if p.toNat > 9 ∨ p.toNat = 8 ∨ !addrLegal cx.g b.toNat then illegal cx (encode i)
    else vecChecks i [b.toNat, d.toNat] [] (atomFmt cx.g p.toNat) (fun cx =>
      let w := elemWidth cx.g
      okSweep (atomSweep cx b fun e old => some (vatomNew w p.toNat old (elem cx d.toNat w e)))) cx) s

/-- VCAS (R335, R336): the pair d, d + 1. -/
def execVcas (d b : BitVec 6) (o l : BitVec 4) (s : State) : Host.Outcome State Fault Refusal :=
  let i := Instr.vcas d b o l
  runVector vecRules i (fun cx =>
    if d.toNat % 2 = 1 ∨ !addrLegal cx.g b.toNat then illegal cx (encode i)
    else vecChecks i [b.toNat, d.toNat + 1] [d.toNat] (atomFmt cx.g 10) (fun cx =>
      let w := elemWidth cx.g
      okAtomic (atomSweep cx b fun e old =>
        if old = elem cx d.toNat w e then some (elem cx (d.toNat + 1) w e) else none) d.toNat w l.toNat) cx) s

/-! ### Block control -/

/-- The s registers as the control thread reads them (R112, R266). -/
def snapshot (th : Thread) : Tbl Word := (upFrom 1 63).foldl (fun t n => tputD t n (readX th n) 0) []

/-- VF (R329). -/
def execVf (o : BitVec 23) (s : State) : Host.Outcome State Fault Refusal :=
  let i := Instr.vf o
  runGroup vecRules i (fun cx =>
    let act := active cx
    if act = [] then ok cx
    else
      let t := target cx.g.th.pc o
      let n := readVlen cx
      let b : Block := { start := t, n := n, snap := snapshot cx.g.th, vps := act.map fun v => (v, { cond := .run, pc := t, wins := [] }),
                         atPoint := false, forced := false }
      let s1 := finishCtl (encode i) (ok { cx with g := { cx.g with block := some b } })
      { cx := { cx with s := traceBlock s1 cx.k cx.i (blkBody t n act) }, fate := .moved }) s

/-- The block a batch belongs to, with the batch's program counter. -/
def batchPc (cx : Cx) : Word := ((cx.vps.getD []).head?.bind fun v => (vpOf cx.g v).map (·.pc)).getD 0

/-- Puts the group of a batch with its VPs sent where `f` says. -/
def sendVps (cx : Cx) (f : Nat → Word) : State :=
  putGroup cx.s cx.k cx.i (modVps cx.g (cx.vps.getD []) fun i v => vpNext (f i) 0 [] v)

/-- A DIV packet for the VPs sent to a target. -/
def traceDiv (s : State) (cx : Cx) (pc t : Word) (l : List Nat) : State :=
  match cx.g.block with
  | some b => if l = [] then s else traceBlock s cx.k cx.i (divBody b.start pc t b.n l)
  | none => s

/-- VBR (R330). -/
def execVbr (p : BitVec 7) (o : BitVec 16) (s : State) : Host.Outcome State Fault Refusal :=
  runInstr {} (.vbr p o) none (some fun cx =>
    let pc := batchPc cx
    let t := target pc o
    let s1 := sendVps cx fun i => if predBit cx p.toNat i then t else pc + 4
    { cx := { cx with s := traceDiv s1 cx pc t ((cx.vps.getD []).filter fun i => predBit cx p.toNat i) }, fate := .moved }) none s

/-- The distinct targets of a batch, in the order of their lowest VPs. -/
def targets (f : Nat → Word) (l : List Nat) : List Word := (l.map f).eraseDups

/-- Targets in the order in which the device issues their batches, which is open (R114, R409): a free order (DESIGN CHOICE, log entry
101). -/
def batchOrder (draw : Nat) : Nat → List Word → List Word
  | 0, _ => []
  | n + 1, l =>
    let i := (Config.freeWord draw (2 ^ 90 + n)).toNat % Nat.max 1 l.length
    match lget l i with
    | some t => t :: batchOrder draw n (l.eraseIdx i)
    | none => []

/-- VJR (R331): the misalignment trap comes before any VP moves; its DIV packets come in the order of the batches (R404). -/
def execVjr (v : BitVec 6) (s : State) : Host.Outcome State Fault Refusal :=
  let i := Instr.vjr v
  runInstr {} i none (some fun cx =>
    let l := cx.vps.getD []
    let f := fun j => BitVec.ofNat 64 (elem64 cx v.toNat j)
    let pc := batchPc cx
    if !(addrLegal cx.g v.toNat && vReadOk cx.g v.toNat) then illegal cx (encode i)
    else if elemWidth cx.g = 6 then illegalFormat cx (encode i)
    else match l.find? fun j => decide ((f j).toNat % 4 ≠ 0) with
      | some j => { cx := cx, fate := .trap 4 (f j), stuck := l }
      | none =>
        let s1 := sendVps cx f
        let ts := targets f l
        { cx := { cx with s := (batchOrder s1.draws ts.length ts).foldl (fun s t => traceDiv s cx pc t (l.filter fun j => f j = t)) s1 }, fate := .moved }) none s

/-- Lowest of a list of addresses. -/
def lowest : List Word → Word
  | [] => 0
  | [a] => a
  | a :: r => let b := lowest r; if a.ult b then a else b

/-- The VPs in JOIN at an address. -/
def joinedAt (b : Block) (a : Word) : List Nat :=
  (b.vps.filter fun e => decide (e.2.cond = .join) && decide (e.2.pc = a)).map (·.1)

/-- R115: when no VP is in RUN, the block completes or the VPs at the lowest VJOIN are released. Answers the group and the
release, if one took place. `stop` says a pre-emption stops the block at a release (R123). -/
def settle (g : Group) (stop : Bool) : Group × Option (Word × List Nat) :=
  match g.block with
  | none => (g, none)
  | some b =>
    if b.vps.any fun e => e.2.cond = .run then (g, none)
    else
      let js := b.vps.filter fun e => e.2.cond = .join
      if js = [] then ({ g with block := none }, none)
      else
        let a := lowest (js.map fun e => e.2.pc)
        let l := joinedAt b a
        ({ g with block := some { b with
            atPoint := b.atPoint || stop
            vps := tmap b.vps fun i v => if l.contains i then { v with cond := .run, pc := a + 4 } else v } }, some (a, l))

/-- Whether a pre-emption of the team has been requested. -/
def preempting (s : State) (k : Nat) : Bool := ((getTeam s k).map (·.preempt)).getD false

/-- The batch enters JOIN or STOP, and the block settles (R115, R332). -/
def endPath (cx : Cx) (c : VpCond) : Out :=
  let pc := batchPc cx
  let stop := preempting cx.s cx.k
  let g1 := modVps cx.g (cx.vps.getD []) fun _ v => { vpNext pc 0 [] v with cond := c }
  let g2 := if stop ∧ c = .stop then { g1 with block := g1.block.map fun b => { b with atPoint := true } } else g1
  let r := settle g2 stop
  let s1 := putGroup cx.s cx.k cx.i r.1
  { cx := { cx with s := match r.2, cx.g.block with
      | some (a, l), some b => traceBlock s1 cx.k cx.i (joinBody b.start a b.n l)
      | _, _ => s1 }, fate := .moved }

/-- VJOIN (R332). -/
def execVjoin (s : State) : Host.Outcome State Fault Refusal := runInstr {} .vjoin none (some fun cx => endPath cx .join) none s

/-- VSTOP (R332). -/
def execVstop (s : State) : Host.Outcome State Fault Refusal := runInstr {} .vstop none (some fun cx => endPath cx .stop) none s

/-- VSYNC (R333): waits until the block in progress completes. -/
def execVsync (s : State) : Host.Outcome State Fault Refusal := runGroup vecRules .vsync ok s

end Sys2Proof.Machine
end

