-- ==== Sys2Proof/Machine/Heap.lean ====
section
/-! DEFINITION. The managed heap as groups use it: references (R209), the load barrier (R216, R217), allocation (R213, R214), hall passes (R223, R224) and the heap instructions (R365 to R368). -/
namespace Sys2Proof.Machine

/-- What the heap instructions need: the heap feature (R64); the access forms are permitted in a transaction (R187, R228). -/
def heapRules (txn : Bool) : Rules := { feat := some 3, txn := txn }

/-! ### References and objects -/

/-- Whether a value carries the reference tag (R209). -/
def isRef (x : Word) : Bool := decide (bits x.toNat 62 2 = 1)

/-- Whether a tagged value is a well-formed reference. -/
def refFormed (x : Word) : Bool := decide (bits x.toNat 57 1 = 0) && decide (bits x.toNat 0 4 = 0)

def refGen (x : Word) : Nat := bits x.toNat 58 4
def refAddr (x : Word) : Nat := bits x.toNat 0 57

/-- The reference of generation `gen` to the object whose header lies at `addr`. -/
def makeRef (gen addr : Nat) : Word := BitVec.ofNat 64 (2 ^ 62 + gen % 16 * 2 ^ 58 + addr % 2 ^ 57)

/-- Bytes an object of SIZE `size` occupies (R210). -/
def objectLen (size : Nat) : Nat := ceilDiv (8 + size) 16 * 16

/-- Start of a region. -/
def regionBase (h : Heap) (n : Nat) : Nat := h.heapva.toNat + n * 2 ^ 21

/-- Puts a region's record. -/
def putRegion (h : Heap) (n : Nat) (r : Region) : Heap := { h with regions := tput h.regions n r }

def modHeap (s : State) (cn : Nat) (f : Heap → Heap) : State := modCtx s cn fun c => { c with heap := f c.heap }

/-- Whether an address is a word of the heap or of the root area, where a slot may be healed (R217). -/
def healable (h : Heap) (va : Nat) : Bool :=
  (regionOf h va).isSome || (h.enabled && decide (h.hroot.toNat ≤ va) && decide (va < h.hroot.toNat + h.hrootn.toNat * 4096))

/-- HPBASE (R223). -/
def hpBase (c : Ctx) : Word := if c.heap.enabled then c.heap.hapva else 0

/-- What R216 finds for a value: no reference; NULL or STALE; the fast path; or the region and entry of the slow path. -/
inductive Look where
  | raw | null | stale
  | fast (addr : Nat)
  /-- the generation differs from the region's, and no entry stands for it -/
  | old
  | entry (region off : Nat) (f : Fwd)
deriving DecidableEq, Repr

/-- Looks a reference up (R216). -/
def lookRef (h : Heap) (x : Word) : Look :=
  if !isRef x then .raw
  else if !refFormed x then .null
  else match regionOf h (refAddr x) with
  | none => .stale
  | some g =>
    let r := getRegion h g
    if r.st = .free then .stale
    else if refGen x = r.gen then .fast (refAddr x)
    else if (r.st ≠ .evacuating ∧ r.st ≠ .relocated) ∨ refGen x ≠ (r.gen + 15) % 16 then .old
    else match tget r.fwd (refAddr x - regionBase h g) with
    | some f => .entry g (refAddr x - regionBase h g) f
    | none => .old

/-- The PIN of the object whose header lies at a VA (R210); none where it is poisoned, which is never reported as a value (R386). -/
def pinOf (s : State) (root hdr : Nat) : Option Nat :=
  match peek (tables s) root (hdr + 4) with
  | some (pa, _) => if poisonIn s pa 2 then none else some (readNat s.mem pa 2)
  | none => some 0

/-- The same as the barrier finds it: its walk may find an uncontained machine error (R222). -/
def pinWalk (s : State) (cn hdr : Nat) : State × Option Nat :=
  match caretakerWalk s cn (hdr + 4) with
  | (s1, some (pa, _)) => if poisonIn s1 pa 2 then (s1, none) else (snoopRange s1 pa 2 false, some (readNat s1.mem pa 2))
  | (s1, none) => (s1, some 0)

/-! ### The load barrier -/

/-- The slot a reference was found in: none that is managed, an h register, a word of memory. -/
inductive HSlot where
  | none
  | reg (n : Nat)
  | word (va : Nat)
deriving DecidableEq, Repr

/-- Result of the barrier: the value to deliver and the address of the present copy, or how the access ends. -/
inductive Bar where
  | val (cx : Cx) (x : Word) (ea : Option Nat)
  | bad (cx : Cx) (f : Fate)
deriving DecidableEq, Repr

/-- Replaces a reference by its heal in what a window hides. -/
def healHidden (r : RegId) (x y : Nat) (e : Hidden) : Hidden :=
  if e.reg = r then { e with old := if e.old = x then y else e.old, new := if e.new = x then y else e.new } else e

/-- Heals an h register of a group. -/
def healReg (g : Group) (n : Nat) (x y : Word) : Group :=
  { g with
    h := if tgetD g.h n 0 = x then tputD g.h n y 0 else g.h
    th := { g.th with wins := g.th.wins.map fun w => { w with hid := w.hid.map (healHidden (.h n) x.toNat y.toNat) } } }

/-- Heals a word of memory for an agent: a compare-and-swap at its home slice, on a page with W set; its reference bit stays
(R217). -/
def healWord (s : State) (q : Asker) (va : Nat) (x y : Word) : State :=
  match getCtx s q.ctx with
  | some c =>
    if !healable c.heap va then s
    else match ctxTranslate s (coreOf s q.team) q.ctx va .atomic with
    | (s1, some (.ok pa _ _)) =>
      let s2 := dirtyAt s1 (coreOf s q.team) q.ctx va
      if readNat s2.mem pa 8 = x.toNat then let s3 := snoopRange s2 pa 8 true; { s3 with mem := writeNat s3.mem pa 8 y.toNat } else s2
    | (s1, _) => s1
  | none => s

/-- Heal(slot, x, y). -/
def healSlot (cx : Cx) (slot : HSlot) (x y : Word) : Cx :=
  match slot with
  | .none => cx
  | .reg n => { cx with g := healReg cx.g n x y }
  | .word va => { cx with s := healWord cx.s (asker cx) va x y }

/-- Asks the Caretaker to copy an object soon: the first request of an entry takes the next arbiter number (R219). -/
def raisePriority (s : State) (cn region off : Nat) : State :=
  let s1 := arbTick s
  modHeap s1 cn fun h => match tget (getRegion h region).fwd off with
    | some f => if f.priority = 0 then putRegion h region { getRegion h region with fwd := tput (getRegion h region).fwd off { f with priority := s1.arb } } else h
    | none => h

/-- The heap of the group's context. -/
def cxHeap (cx : Cx) : Option Ctx := getCtx cx.s cx.cn

/-- THE LOAD BARRIER (R216) for element `e`. In a transaction a stale generation aborts it, and nothing waits (R228). The
number bounds the redirections: at most four regions move at a time (R212) (DEDUCED, log entry 30). A PIN that is poisoned is consumed
by the access that reads it (DESIGN CHOICE, log entry 96). -/
def barrier (e : Nat) : Nat → Cx → Word → HSlot → Bar
  | 0, cx, _, _ => .bad cx .stay
  | n + 1, cx, x, slot =>
    match cxHeap cx with
    | none => .bad cx .stay
    | some c =>
      match lookRef c.heap x with
      | .raw => .val cx x none
      | .null => .bad cx (.trap 6 (heapValue 1 e))
      | .stale => .bad cx (.trap 6 (heapValue 4 e))
      | .fast a => .val cx x (some a)
      | .old => .bad cx (if (cxTxn cx).isSome then .abort 3 0 else .trap 6 (heapValue 4 e))
      | .entry g off f =>
        if (cxTxn cx).isSome then .bad cx (.abort 3 0)
        else match f.st with
        | .dropped => .bad cx (.trap 6 (heapValue 5 e))
        | .copied => let y := makeRef f.newGen f.newAddr; barrier e n (healSlot cx slot x y) y slot
        | .copying => .bad { cx with s := raisePriority cx.s cx.cn g off } .stay
        | .notCopied =>
          match pinWalk cx.s cx.cn (refAddr x) with
          | (s1, none) => .bad { cx with s := s1 } (.trap 0x10 (BitVec.ofNat 64 (refAddr x)))
          | (s1, some 0) => .bad { cx with s := raisePriority s1 cx.cn g off } .stay
          | (s1, some _) => .val { cx with s := s1 } x (some (refAddr x))

/-- Redirections a barrier can meet. -/
def barrierFuel : Nat := 8

/-! ### Accesses through references (R366) -/

/-- A word of the heap, resolved past the barrier (DEDUCED, log entry 30). -/
def resolveHeap (cx : Cx) (va : Nat) (u : Use) : Cx × Res :=
  let r := resolvePage cx.s (asker cx) (BitVec.ofNat 64 va) va (if (cxTxn cx).isSome ∧ u = .write then .stage else u) fun _ => none
  ({ cx with s := r.1 }, r.2)

/-- A place in the heap, or how the access to it ends. -/
inductive Place where
  | at (cx : Cx) (l : Loc)
  | bad (cx : Cx) (f : Fate)
deriving DecidableEq, Repr

/-- The place of a word of the heap, translated (R202, R203) (DEDUCED, log entry 49). -/
def heapPlace (cx : Cx) (va : Nat) (u : Use) (e : Nat) : Place :=
  match resolveHeap cx va u with
  | (cx1, .at l) => .at cx1 l
  | (cx1, .bad b) => .bad cx1 (badFate b e)
  | (cx1, .lost) => .bad cx1 .lost

/-- Whether a place lies on a no-speculation page (R200). -/
def onSlow (l : Loc) : Bool := match l with | .glob _ _ leaf => leaf.getLsbD 4 | _ => false

/-- What addressing an object comes to: the VA of the word, a failure, or a later element on a no-speculation page (R200). -/
inductive Addressed where
  | at (cx : Cx) (va : Nat)
  | bad (cx : Cx) (f : Fate)
  | spec
deriving DecidableEq, Repr

/-- Addresses the object a reference names (R366): the barrier, then the header, which is loaded like any other word (R187, R374, R386),
and the bound of offset `off` in it. A load of an element that is not the `first` does not read a header on a no-speculation page (R200). -/
def addrObject (cx : Cx) (x : Word) (slot : HSlot) (off e : Nat) (store first : Bool) : Addressed :=
  match barrier e barrierFuel cx x slot with
  | .bad cx1 f => .bad cx1 f
  | .val cx1 _ none => .bad cx1 (.trap 6 (heapValue 1 e))
  | .val cx1 _ (some hdr) =>
    match heapPlace cx1 hdr .read e with
    | .bad cx2 f => .bad cx2 f
    | .at cx2 l =>
      if onSlow l ∧ !first then .spec
      else match loadAt cx2 l (BitVec.ofNat 64 hdr) 4 with
      | .val cx3 size =>
        if off + 8 > 8 + size then .bad cx3 (.trap 6 (heapValue 2 e))
        else if store ∧ off < 8 then .bad cx3 (.trap 6 (heapValue 3 e))
        else .at cx3 (hdr + off)
      | .bad cx3 f => .bad cx3 f
      | .spec => .spec

/-- What the stores of a transaction, in order, leave of the reference bit of the word at a VA and a physical address (R215). -/
def stagedBit (l : List (Nat × Nat × Nat × Bool)) (va pa : Nat) (m : Bool) : Bool :=
  l.foldl (fun r e =>
    if e.2.2.2 ∧ e.2.2.1 / 8 = va / 8 then true
    else if (e.1 < pa + 8 ∧ pa < e.1 + e.2.1) ∨ (e.2.2.1 / 8 ≤ va / 8 ∧ va / 8 ≤ (e.2.2.1 + e.2.1 - 1) / 8) then false
    else r) m

/-- Where a place lies in memory. -/
def physOf : Loc → Nat
  | .glob pa _ _ => pa
  | _ => 0

/-- The reference bit of a word as the group sees it: after its transaction's own stores (R215, R190). -/
def refBit (cx : Cx) (va pa : Nat) : Bool :=
  let m := ((cxHeap cx).map fun c => (tget c.heap.refBits (va / 8)).isSome).getD false
  match cxTxn cx with
  | some x => stagedBit x.stores va pa m
  | none => m

/-- Loads the doubleword at offset `off` of the object a reference names; `always` passes whatever is loaded through the barrier,
else only a managed slot's reference does. -/
def loadObject (cx : Cx) (x : Word) (slot : HSlot) (off e : Nat) (always first : Bool) : Got :=
  match addrObject cx x slot off e false first with
  | .bad cx1 f => .bad cx1 f
  | .spec => .spec
  | .at cx1 va =>
    match heapPlace cx1 va .read e with
    | .bad cx2 f => .bad cx2 f
    | .at cx2 l =>
      if onSlow l && !first then .spec
      else match loadAt cx2 l (BitVec.ofNat 64 va) 8 with
      | .val cx3 v =>
        if always || refBit cx3 va (physOf l) then
          (match barrier e barrierFuel cx3 (BitVec.ofNat 64 v) (.word va) with
            | .val cx4 y _ => .val cx4 y.toNat
            | .bad cx4 f => .bad cx4 f)
        else .val cx3 v
      | r => r

/-- A transaction that stores a reference has touched the region it names: the bump of that region aborts it (R189, R216). -/
def touchRef (cx : Cx) (y : Word) : Cx :=
  match cxTxn cx with
  | some x => if isRef y then
      match cxRegion cx (refAddr y) with
      | some r => withTxn cx { x with regions := if x.regions.contains r then x.regions else x.regions ++ [r] }
      | none => cx
    else cx
  | none => cx

/-- Stores a doubleword at offset `off` of the object a reference names; `ref` is the word's reference bit after it. -/
def storeObject (cx : Cx) (x : Word) (slot : HSlot) (off e : Nat) (ref : Bool) (v : Cx → Bar) : Got :=
  match addrObject cx x slot off e true true with
  | .bad cx1 f => .bad cx1 f
  | .spec => .spec
  | .at cx1 va =>
    match v cx1 with
    | .bad cx2 f => .bad cx2 f
    | .val cx2 y _ =>
      match heapPlace cx2 va .write e with
      | .bad cx3 f => .bad cx3 f
      | .at cx3 l => storeAt (if ref then touchRef cx3 y else cx3) l 8 y.toNat ref

/-- Offset of an imm8 (R365). -/
def heapOff (i : BitVec 8) : Nat := 8 * i.toNat

/-- Completes with h(n) := x, with lookahead `la`. -/
def okWriteH (cx : Cx) (n : Nat) (x : Word) (la : Nat) : Out :=
  let r := writeHla cx.g n x la
  { cx := { cx with g := r.1 }, fate := .done, la := la, hid := r.2 }

/-- HLD (R366). -/
def execHld (h a : BitVec 4) (i : BitVec 8) (l : BitVec 4) (s : State) : Host.Outcome State Fault Refusal :=
  runGroup (heapRules true) (.hld h a i l) (fun cx =>
    gotThen (loadObject cx (readH cx.g a.toNat) (.reg a.toNat) (heapOff i) 0 true true)
      (fun cx1 v => okWriteH cx1 h.toNat (BitVec.ofNat 64 v) l.toNat) cx) s

/-- HST (R366): the reference stored passes the barrier first. -/
def execHst (h a : BitVec 4) (i : BitVec 8) (s : State) : Host.Outcome State Fault Refusal :=
  runGroup (heapRules true) (.hst h a i) (fun cx =>
    gotThen (storeObject cx (readH cx.g a.toNat) (.reg a.toNat) (heapOff i) 0 true
        (fun cx1 => barrier 0 barrierFuel cx1 (readH cx1.g h.toNat) (.reg h.toNat)))
      (fun cx1 _ => ok cx1) cx) s

/-- HLDD (R366). -/
def execHldd (d : BitVec 6) (a : BitVec 4) (i : BitVec 8) (l : BitVec 4) (s : State) : Host.Outcome State Fault Refusal :=
  runGroup (heapRules true) (.hldd d a i l) (fun cx =>
    gotThen (loadObject cx (readH cx.g a.toNat) (.reg a.toNat) (heapOff i) 0 false true)
      (fun cx1 v => okWrite cx1 d.toNat (BitVec.ofNat 64 v) l.toNat) cx) s

/-- HSTD (R366). -/
def execHstd (f_s : BitVec 6) (a : BitVec 4) (i : BitVec 8) (s : State) : Host.Outcome State Fault Refusal :=
  runGroup (heapRules true) (.hstd f_s a i) (fun cx =>
    gotThen (storeObject cx (readH cx.g a.toNat) (.reg a.toNat) (heapOff i) 0 false (fun cx1 => .val cx1 (readS cx1 f_s.toNat) none))
      (fun cx1 _ => ok cx1) cx) s

/-! ### Allocation (R213, R214) -/

/-- The lowest FREE region, of the `n` from `g` on. -/
def firstFree (h : Heap) : Nat → Nat → Option Nat
  | _, 0 => none
  | g, n + 1 => if (getRegion h g).st = .free then some g else firstFree h (g + 1) n

/-- SIZE that HALLOC gives a request (R214). -/
def allocSize (x : Word) : Nat := Nat.max 8 (ceilDiv x.toNat 8 * 8)

/-- Whether an object is large (R210). -/
def isLarge (size : Nat) : Bool := decide (8 + size > 65536)

/-- Where a new object goes: its region and offset (R213). -/
def allocPlace (h : Heap) (size : Nat) : Option (Nat × Nat) :=
  let free := (firstFree h 0 h.heapn.toNat).map fun g => (g, 0)
  if isLarge size then free
  else match h.alloc with
  | some g => if (getRegion h g).top + objectLen size ≤ 2 ^ 21 then some (g, (getRegion h g).top) else free
  | none => free

/-- The region table after an object of SIZE `size` was placed (R213). -/
def allocRecord (h : Heap) (size g off : Nat) : Heap :=
  let r := getRegion h g
  let n := objectLen size
  if isLarge size then putRegion h g { r with st := .live, large := true, top := n }
  else if h.alloc = some g then putRegion h g { r with top := off + n }
  else
    let h1 := match h.alloc with
      | some o => putRegion h o { getRegion h o with st := .live }
      | none => h
    { putRegion h1 g { r with st := .allocating, top := n } with alloc := some g }

/-- The pieces of `len` bytes from a VA, one in each page, translated for a store that an agent has not performed yet: VA, physical
address and length of each, or how the first that fails fails. -/
def writeSpan (q : Asker) : Nat → State → Nat → Nat → List (Nat × Nat × Nat) → State × (List (Nat × Nat × Nat) ⊕ Res)
  | 0, s, _, _, acc => (s, .inl acc)
  | fuel + 1, s, va, len, acc =>
    if len = 0 then (s, .inl acc)
    else
      let n := Nat.min len (4096 - va % 4096)
      match resolvePage s q (BitVec.ofNat 64 va) va .stage fun _ => none with
      | (s1, .at (.glob pa _ _)) => writeSpan q fuel s1 (va + n) (len - n) (acc ++ [(va, pa, n)])
      | (s1, r) => (s1, .inr r)

/-- Memory with `n` bytes from an address zeroed. -/
def clearBytes (m : Memory) (a n : Nat) : Memory :=
  if unlisted = 0 then m.filter fun c => !(decide (a ≤ c.1) && decide (c.1 < a + n)) else writeBytes m a (List.replicate n 0)

/-- Zeroes a piece of memory as an agent's write. -/
def clearPiece (q : Asker) (s : State) (p : Nat × Nat × Nat) : State :=
  let s1 := snoopRange (dirtyAt s (coreOf s q.team) q.ctx p.1) p.2.1 p.2.2 true
  clearRefsAt (coverPoison { s1 with mem := clearBytes s1.mem p.2.1 p.2.2 } [p.2]) p.2.1 p.2.2

/-- Result of an allocation: a reference, no space, or a write that fails. -/
inductive Alloc where
  | made (x : Word)
  | full
  | bad (r : Res)
deriving DecidableEq, Repr

/-- Allocates an object in a context's heap for an agent (R214). A write that fails leaves the region as it was. -/
def heapAlloc (s : State) (q : Asker) (request : Word) : State × Alloc :=
  match getCtx s q.ctx with
  | none => (s, .full)
  | some c =>
    let size := allocSize request
    if !c.heap.enabled ∨ size > 2097144 then (s, .full)
    else match allocPlace c.heap size with
    | none => (s, .full)
    | some (g, off) =>
      let a := regionBase c.heap g + off
      match writeSpan q 514 s a (8 + size) [] with
      | (s1, .inr r) => (s1, .bad r)
      | (s1, .inl ps) =>
        let s2 := ps.foldl (clearPiece q) s1
        let s3 := { s2 with mem := writeNat s2.mem ((ps.head?.map (·.2.1)).getD 0) 8 size }
        (modHeap s3 q.ctx fun h => { allocRecord h size g off with
            refBits := h.refBits.filter fun e => !(decide (a / 8 ≤ e.1) && decide (e.1 < (a + 8 + size) / 8)) },
          .made (makeRef (getRegion c.heap g).gen a))

/-- HALLOC (R214, R367). -/
def execHalloc (f_s : BitVec 6) (h l : BitVec 4) (s : State) : Host.Outcome State Fault Refusal :=
  runGroup (heapRules false) (.halloc f_s h l) (fun cx =>
    match heapAlloc cx.s (asker cx) (readS cx f_s.toNat) with
    | (s1, .made x) => okWriteH { cx with s := s1 } h.toNat x l.toNat
    | (s1, .full) => okWriteH { cx with s := s1 } h.toNat 0 l.toNat
    | (s1, .bad (.bad b)) => gotBad { cx with s := s1 } (badFate b 0)
    | (s1, .bad _) => gotBad { cx with s := s1 } .lost) s

/-! ### Hall passes (R223, R224) -/

/-- HPIN (R367): the header is loaded like any other word (R374, R386). -/
def execHpin (d : BitVec 6) (h l : BitVec 4) (s : State) : Host.Outcome State Fault Refusal :=
  runGroup (heapRules false) (.hpin d h l) (fun cx =>
    match barrier 0 barrierFuel cx (readH cx.g h.toNat) (.reg h.toNat) with
    | .bad cx1 f => gotBad cx1 f
    | .val cx1 _ none => gotBad cx1 (.trap 6 (heapValue 1 0))
    | .val cx1 _ (some hdr) =>
      match heapPlace cx1 hdr .read 0, cxHeap cx1 with
      | .bad cx2 f, _ => gotBad cx2 f
      | .at cx2 (.glob pa gva leaf), some c =>
        gotThen (loadAt cx2 (.glob pa gva leaf) (BitVec.ofNat 64 hdr) 8) (fun cx3 v =>
          let pin := bits v 32 16
          match lowestFree cx3.g.pins 0 16 with
          | some n =>
            if pin = 65535 then gotBad cx3 (.trap 6 (heapValue 6 0))
            else okWrite { cx3 with
                s := putPin (dirtyAt cx3.s (coreOf cx3.s cx3.k) cx3.cn hdr) (pa + 4) (pin + 1)
                g := { cx3.g with pins := tput cx3.g.pins n (hdr, bits v 0 32) } } d.toNat (hpBase c + BitVec.ofNat 64 (n * 2 ^ 21)) l.toNat
          | none => gotBad cx3 (.trap 6 (heapValue 6 0))) cx2
      | .at cx2 _, _ => gotBad cx2 .stay) s

/-- HUNPIN (R367). -/
def execHunpin (f_s : BitVec 6) (s : State) : Host.Outcome State Fault Refusal :=
  runGroup (heapRules false) (.hunpin f_s) (fun cx =>
    match cxHeap cx with
    | none => gotBad cx .stay
    | some c =>
      let o := (readS cx f_s.toNat - hpBase c).toNat
      match if o < 2 ^ 25 then tget cx.g.pins (o / 2 ^ 21) else none with
      | none => gotBad cx (.trap 6 (heapValue 7 0))
      | some hdr => ok { cx with s := unpin cx.s cx.cn hdr.1, g := { cx.g with pins := tdel cx.g.pins (o / 2 ^ 21) } }) s

/-- What HCMP compares a value as (R227), or the KIND of its trap. -/
def compareAs (h : Heap) (x : Word) : Nat ⊕ Nat :=
  match lookRef h x with
  | .raw => .inl x.toNat
  | .null => .inr 1
  | .stale => .inr 4
  | .old => .inr 4
  | .fast a => .inl a
  | .entry _ _ f => .inl (if f.st = .dropped then refAddr x else f.newAddr)

/-- HCMP (R227, R367). -/
def execHcmp (d : BitVec 6) (a b l : BitVec 4) (s : State) : Host.Outcome State Fault Refusal :=
  runGroup (heapRules false) (.hcmp d a b l) (fun cx =>
    match cxHeap cx with
    | none => gotBad cx .stay
    | some c => match compareAs c.heap (readH cx.g a.toNat), compareAs c.heap (readH cx.g b.toNat) with
      | .inr k, _ => gotBad cx (.trap 6 (heapValue k 0))
      | _, .inr k => gotBad cx (.trap 6 (heapValue k 0))
      | .inl x, .inl y => okWrite cx d.toNat (if x = y then 1 else 0) l.toNat) s

/-! ### Vector forms (R368) -/

/-- Element i of vb: an unmanaged copy of a reference (R215). -/
def refElem (cx : Cx) (b : BitVec 6) (i : Nat) : Word := BitVec.ofNat 64 (elem cx b.toNat 64 i)

/-- A vector heap load. -/
def runHeapLoad (i : Instr) (v b : BitVec 6) (im : BitVec 8) (l : BitVec 4) (always : Bool) (s : State) : Host.Outcome State Fault Refusal :=
  runInstr { feat := some 3, wait := true } i (some (heapLoad always)) (some (heapLoad always)) none s
where
  heapLoad (always : Bool) (cx : Cx) : Out :=
    if !addrLegal cx.g b.toNat then illegal cx (encode i) else
    vecChecks i [b.toNat] [v.toNat] (decide (elemWidth cx.g = 64)) (fun cx =>
      okLoad (sweepAll cx true fun c e first => loadObject c (refElem c b e) .none (heapOff im) e always first) v.toNat 64 l.toNat) cx

/-- VHLD (R368). -/
def execVhld (v b : BitVec 6) (i : BitVec 8) (l : BitVec 4) (s : State) : Host.Outcome State Fault Refusal :=
  runHeapLoad (.vhld v b i l) v b i l true s

/-- VHLDD (R368). -/
def execVhldd (v b : BitVec 6) (i : BitVec 8) (l : BitVec 4) (s : State) : Host.Outcome State Fault Refusal :=
  runHeapLoad (.vhldd v b i l) v b i l false s

/-- A control thread's VHSTD that waits in the barrier has issued: no stop divides it (R216, R384). -/
def stallHalfDone (o : Out) : Out :=
  if o.fate = .stay ∧ o.cx.vps.isNone then { o with cx := withTh o.cx { o.cx.g.th with stalled := true } } else o

/-- A vector heap store of the elements of `v`. -/
def heapStore (i : Instr) (v b : BitVec 6) (im : BitVec 8) (cx : Cx) : Out :=
  if !addrLegal cx.g b.toNat then illegal cx (encode i) else
  vecChecks i [v.toNat, b.toNat] [] (decide (elemWidth cx.g = 64)) (fun cx =>
    stallHalfDone (okSweep (coverSweep (sweepAll cx false fun c e _ =>
      coverStore (storeObject c (refElem c b e) .none (heapOff im) e false fun c1 => .val c1 (BitVec.ofNat 64 (elem cx v.toNat 64 e)) none) 0 64)))) cx

/-- VHSTD (R368). -/
def execVhstd (v b : BitVec 6) (i : BitVec 8) (s : State) : Host.Outcome State Fault Refusal :=
  runInstr { feat := some 3, wait := true } (.vhstd v b i) (some (heapStore (.vhstd v b i) v b i)) (some (heapStore (.vhstd v b i) v b i)) none s

end Sys2Proof.Machine
end

