-- ==== Sys2Proof/Machine/Targets.lean ====
section
/-! DEFINITION. Placement targets (R12 to R20, R94 to R97): cores and shares, their maxima, the room they have, and the choice of targets for a gang or a whole grid. -/
namespace Sys2Proof.Machine

/-- The mode a cluster runs in. -/
def clusterMode (s : State) (c : Nat) : Sharing := ((tget s.clusters c).map (·.mode)).getD .unshared

/-- Shares of a core in a mode (R19). -/
def sharesOf : Sharing → Nat
  | .unshared => 1 | .half => 2 | .quarter => 4

/-- Slots of a target and 16-lane partitions of each slot (R13, R19), by class code and mode. -/
def slotShape (cls : Nat) : Sharing → Nat × Nat
  | .unshared => if cls = 0 then (4, 4) else (2, 2)
  | .half => if cls = 0 then (2, 4) else (1, 2)
  | .quarter => if cls = 0 then (1, 4) else (1, 1)

/-- Scratchpad bytes of a target. -/
def targetSpad (cls : Nat) (m : Sharing) : Nat := (if cls = 0 then 524288 else 262144) / sharesOf m

/-- Row shift of a mode (R19). -/
def rowShift : Sharing → Nat
  | .unshared => 0 | .half => 1 | .quarter => 1

/-- Column shift of a mode. -/
def colShift : Sharing → Nat
  | .unshared => 0 | .half => 0 | .quarter => 1

/-- A core's record: a core with none is good and enabled. -/
def getCore (s : State) (n : Nat) : Core := tgetD s.cores n { mapped := 0, disabled := false, withdrawn := false, faults := 0 }

def modCore (s : State) (n : Nat) (f : Core → Core) : State := { s with cores := tput s.cores n (f (getCore s n)) }

/-- Whether teams may be placed on a core: not disabled (R16), not withdrawn (R387). -/
def coreUsable (s : State) (n : Nat) : Bool := !(getCore s n).disabled && !(getCore s n).withdrawn

/-- Array columns of a core that are not mapped out (R20). -/
def goodColumns (s : State) (core : Nat) : Nat :=
  let n := if core < 256 then 32 else 4
  8 * (n - popcount (getCore s core).mapped.toNat n)

/-- The largest multiple of 8 not above a number (R20). -/
def roundDown8 (x : Nat) : Nat := x / 8 * 8

/-- The maxima of R20 under a cap triple. -/
def maxima (s : State) (core : Nat) (m : Sharing) (caps : Caps) : Nat × Nat × Nat :=
  let u := classCaps (core / 8)
  (Nat.max 8 (roundDown8 (Nat.min u.m caps.m >>> rowShift m)),
   Nat.max 8 (roundDown8 (Nat.min (goodColumns s core) caps.n >>> colShift m)),
   Nat.min u.k caps.k)

/-- The caps in force in a cluster. -/
def clusterCaps (s : State) (c : Nat) : Caps := ((tget s.clusters c).map (·.caps)).getD (classCaps c)

/-- A target with its maxima as they stand now. -/
def targetAt (s : State) (core share : Nat) : Target :=
  let c := core / 8
  let m := clusterMode s c
  let g := maxima s core m (clusterCaps s c)
  { cluster := c, core := core, share := share, mode := m, gmaxm := g.1, gmaxn := g.2.1, gmaxk := g.2.2 }

/-- The targets of a cluster, in order of core and share. -/
def clusterTargets (s : State) (c : Nat) : List Target :=
  ((upFrom (8 * c) 8).filter (coreUsable s)).flatMap fun core => (upFrom 0 (sharesOf (clusterMode s c))).map (targetAt s core)

/-- The clusters of a partition of a class, ascending. -/
def partClusters (s : State) (part cls : Nat) : List Nat :=
  (s.clusters.filter fun e => decide (e.2.part = some part) && decide (clusterClass e.1 = cls)).map (·.1)

/-- Whether the Timetable places teams in a cluster at present: no mode or cap change pending (R18, R19), no rebuild (R390) (DEDUCED, log entry 45). -/
def clusterOpen (s : State) (c : Nat) : Bool :=
  ((tget s.clusters c).map fun x => x.pendingMode.isNone && !x.pendingCaps && !x.rebuilding).getD false

def clusterGated (s : State) (c : Nat) : Bool := ((tget s.clusters c).map (·.gated)).getD false

/-- The clusters in the order targets are tried (R95): the preferred class, ungated before gated, ascending number (DEDUCED, log entry 27). -/
def clusterOrder (s : State) (part : Nat) (classes : List Nat) : List Nat :=
  classes.flatMap fun cls => (partClusters s part cls).filter (fun c => !clusterGated s c) ++ (partClusters s part cls).filter (clusterGated s)

/-! ### Room (R95) -/

/-- Partitions one group takes (R95) (DESIGN CHOICE, log entry 21). -/
def partsFor (width : Nat) : Nat := if width ≤ 1 then 1 else if width = 2 then 2 else 4

/-- The blocks of adjacent partitions of one slot that a group may take, lowest first. -/
def blocks (shape : Nat × Nat) (size : Nat) : List (List Nat) :=
  if shape.2 < size then [] else
  (upFrom 0 shape.1).flatMap fun slot => (upFrom 0 (shape.2 / size)).map fun j => upFrom (4 * slot + size * j) size

/-- Gives `n` groups blocks that are free, the lowest first (log entry 21). -/
def takeBlocks : Nat → List (List Nat) → Option (List (List Nat))
  | 0, _ => some []
  | _ + 1, [] => none
  | n + 1, b :: r => (takeBlocks n r).map fun l => b :: l

/-- The resident teams on a target. -/
def teamsOn (s : State) (t : Target) : List Team :=
  (s.teams.map (·.2)).filter fun x => !x.saved && decide (x.target.core = t.core) && decide (x.target.share = t.share)

/-- Partitions of a target that groups hold: a retired group has released its own (R119). -/
def heldParts (s : State) (t : Target) : List Nat :=
  (teamsOn s t).flatMap fun x => (x.groups.filter fun (g : Group) => decide (g.th.run ≠ .retired)).flatMap fun (g : Group) => g.parts

/-- Scratchpad bytes of a target that teams hold. -/
def heldSpad (s : State) (t : Target) : Nat := (teamsOn s t).foldl (fun a x => a + ((getInv s x.inv).map fun iv => iv.spad * 4096).getD 0) 0

/-- What a placement needs: groups to place, descriptor, scratchpad units. -/
structure Need where
  groups : Nat
  width : Nat
  seq : Bool
  spad : Nat
deriving DecidableEq, Repr

/-- The partitions a team would get on a target, if the target has room (R95). -/
def roomOn (s : State) (n : Need) (t : Target) : Option (List (List Nat)) :=
  let cls := clusterClass t.cluster
  let held := heldParts s t
  let free := (blocks (slotShape cls t.mode) (partsFor n.width)).filter fun b => b.all fun p => !held.contains p
  if heldSpad s t + n.spad * 4096 ≤ targetSpad cls t.mode ∧ !(n.seq && (teamsOn s t).any (fun x => x.seq.isSome)) then
    takeBlocks n.groups free
  else none

/-- The first target of a list with room for a member of a gang, and the partitions it gets there: `ok` says whether the member may go
to a target (R95). -/
def firstRoom (s : State) (ok : Nat → Target → Bool) (m : Nat) (n : Need) : List Target → Option (Target × List (List Nat))
  | [] => none
  | t :: ts => match if ok m t then roomOn s n t else none with
    | some ps => some (t, ps)
    | none => firstRoom s ok m n ts

/-- Distinct targets of a list for the members of a gang, each the first with room that no earlier member took (R95, R96). -/
def takeTargets (s : State) (ok : Nat → Target → Bool) : List (Nat × Need) → List Target → Option (List (Nat × Target × List (List Nat)))
  | [], _ => some []
  | (m, n) :: ms, ts => match firstRoom s ok m n ts with
    | some (t, ps) => (takeTargets s ok ms (ts.erase t)).map fun l => (m, t, ps) :: l
    | none => none

/-- Targets for a gang, in the first cluster that takes it whole (R96) (DEDUCED, log entry 27). -/
def placeGang (s : State) (open' : Nat → Bool) (ok : Nat → Target → Bool) (members : List (Nat × Need)) :
    List Nat → Option (List (Nat × Target × List (List Nat)))
  | [] => none
  | c :: cs =>
    match if open' c then takeTargets s ok members (clusterTargets s c) else none with
    | some l => some l
    | none => placeGang s open' ok members cs

/-- What a fresh team of an invocation needs. -/
def freshNeed (iv : Invoc) : Need :=
  { groups := iv.kernel.groups, width := iv.kernel.width, seq := decide (iv.kernel.mentry ≠ 0), spad := iv.spad }

/-- A team that only holds its room. -/
def dummyTeam (ik tidx : Nat) (iv : Invoc) (t : Target) (parts : List (List Nat)) : Team :=
  freshTeam ik tidx 0 t (parts.map fun p => { freshGroup iv.kernel 0 with parts := p }) (if iv.kernel.mentry = 0 then none else some (freshSeq 0))

/-- The state with the teams of a plan holding their room. -/
def reserveRoom (s : State) (ik : Nat) (iv : Invoc) (l : List (Nat × Target × List (List Nat))) : State :=
  l.foldl (fun s x => { s with teams := tput s.teams (teamKey ik x.1) (dummyTeam ik x.1 iv x.2.1 x.2.2) }) s

/-- Places gangs one after another, each where it finds room after those before it (R96). -/
def placeGangs (ik : Nat) (iv : Invoc) (open' : Nat → Bool) (classes : List Nat → List Nat) (ok : Nat → Target → Bool) (order : List Nat → List Nat) :
    List (List (Nat × Need)) → State → Option (List (Nat × Target × List (List Nat)))
  | [], _ => some []
  | g :: gs, s =>
    match placeGang s open' ok g (order (classes (g.map (·.1)))) with
    | none => none
    | some l => (placeGangs ik iv open' classes ok order gs (reserveRoom s ik iv l)).map fun r => l ++ r

/-! ### Effective class set (R94) -/

/-- The classes CPREF admits, in its order. -/
def cprefClasses (cpref : Nat) : List Nat :=
  match cpref with
  | 0 => [0, 1] | 1 => [1, 0] | 2 => [0] | _ => [1]

/-- The classes a descriptor admits. -/
def clsAdmits (cls c : Nat) : Bool := decide (cls = 0) || decide (cls = c + 1)

/-- The state with no team on the device's cores. -/
def emptied (s : State) : State := { s with teams := [] }

/-- Members 0 to n - 1 of a gang of fresh teams. -/
def freshGang (iv : Invoc) (first n : Nat) : List (Nat × Need) := (upFrom first n).map fun t => (t, freshNeed iv)

/-- The effective class set, in the order of preference. -/
def effectiveClasses (s : State) (part : Nat) (iv : Invoc) : List Nat :=
  (cprefClasses iv.cpref).filter fun cls =>
    clsAdmits iv.kernel.cls cls &&
      (placeGang (emptied s) (fun _ => true) (fun _ _ => true) (freshGang iv 0 iv.gang) (partClusters s part cls)).isSome

/-- The gangs from team `t` on, `n` of them. -/
def gangsFrom (iv : Invoc) (t : Nat) : Nat → List (List (Nat × Need))
  | 0 => []
  | n + 1 => freshGang iv t iv.gang :: gangsFrom iv (t + iv.gang) n

/-- More teams than the device's slot partitions can hold. -/
def maxTeams : Nat := 4608

/-- Whether a whole co-resident grid fits in the partition while it is empty (R96). -/
def gridFits (s : State) (ik part : Nat) (iv : Invoc) : Bool :=
  decide (iv.teams ≤ maxTeams) &&
    (placeGangs ik iv (fun _ => true) (fun _ => effectiveClasses s part iv) (fun _ _ => true) (clusterOrder s part)
      (gangsFrom iv 0 (iv.teams / iv.gang)) { emptied s with invs := tput s.invs ik iv }).isSome

end Sys2Proof.Machine
end

