-- ==== Sys2Proof/Machine/Launch.lean ====
section
/-! DEFINITION. Invocations (R86 to R103): launch records and their checks, the dispatch scoreboard, the end of an invocation, LAUNCH and LAUNCH.T (R347), selection and aging (R84), and the delivery of a trap to its handler (R378). -/
namespace Sys2Proof.Machine

/-! ### Numbers and fields -/

/-- The lowest invocation number of a partition that no live invocation holds (R86), of the `n` from `i` on. -/
def freeInvFrom (s : State) (part : Nat) : Nat → Nat → Option Nat
  | _, 0 => none
  | i, n + 1 => if ((getInv s (invKey part i)).map invLive).getD false then freeInvFrom s part (i + 1) n else some i

def freeInv (s : State) (part : Nat) : Option Nat := freeInvFrom s part 0 4096

/-- `n` bytes of a record from a byte offset on, as a number. -/
def field (rec' off n : Nat) : Nat := bits rec' (8 * off) (8 * n)

/-- The partition of an invocation's key. -/
def invPart (ik : Nat) : Nat := ik / 4096

/-- The effective priority of an invocation (R84). -/
def effPrio (iv : Invoc) : Nat := Nat.min 7 (iv.prio + iv.aged)

/-- The kernel a handle and an index name. -/
def findKernel (c : Ctx) (obj kidx : Nat) : Option (CodeObj × Kernel) :=
  (tget c.objs obj).bind fun o => (lget o.kernels kidx).map fun k => (o, k)

/-- The handles of a register file that a mask names, ascending. -/
def namedHandles (t : Tbl Handle) (mask : Nat) : List (Nat × Handle) := t.filter fun e => bit mask e.1

/-- Whether a launch record's JOB may be given to a context (R233). -/
def jobOk (s : State) (cn : Nat) (c : Ctx) (job : Nat) : Bool :=
  decide (job = 0) ||
    (hasFeature c 4 && match tget s.jobs job with
      | some j => decide (j.ctx = cn)
      | none => decide (s.jobs.length < 1024) && decide ((s.jobs.filter fun e => e.2.ctx = cn).length < 256))

/-- An invocation with the fields of a launch record (R87). -/
def recordInvoc (cn : Nat) (rec' : Nat) (tile : Bool) (hs : Tbl Handle) (prio order : Nat) (kn : Option (CodeObj × Kernel)) : Invoc :=
  let gx := field rec' 8 2
  let gy := field rec' 10 2
  let gz := field rec' 12 2
  { ctx := cn, kind := .launch, st := .recorded, obj := field rec' 1 1, kidx := field rec' 2 1
    kernel := (kn.map (·.2)).getD loadedKernel, code := (kn.map fun p => p.1.base).getD 0
    gang := field rec' 3 1, job := field rec' 4 2, spad := field rec' 6 2, gx := gx, gy := gy, gz := gz, tile := tile
    tbase := BitVec.ofNat 64 (field rec' 8 8), teams := if tile then 0 else gx * gy * gz
    inputs := namedHandles hs (field rec' 0x10 8), results := namedHandles hs (field rec' 0x18 8)
    held := [], asked := [], reserved := 0, refs := [], argp := BitVec.ofNat 64 (field rec' 0x20 8), arg0 := BitVec.ofNat 64 (field rec' 0x28 8)
    ccell := BitVec.ofNat 64 (field rec' 0x30 8), ctag := BitVec.ofNat 64 (field rec' 0x38 4), cpref := bits rec' 2 2, prio := prio, aged := 0
    order := order, nextTeam := 0, again := [], replays := [], mark := none, badTile := false }

/-! ### The end of an invocation (R88, R93, R100) -/

/-- Writes the completion cell (R100); a store that cannot be made sends a CELL record. -/
def writeCell (s : State) (ik : Nat) (iv : Invoc) (status : Nat) : State :=
  let a := iv.ccell.toNat
  if a = 0 ∨ a % 8 ≠ 0 then s
  else match deviceWrite s iv.ctx a (natBytes (iv.ctag.toNat % 2 ^ 32 * 2 ^ 32 + status) 8) with
  | some s1 => s1
  | none => errorRecord s iv.ctx 0x04 0 (invNum ik) a 0 0

/-- Ends an invocation: its record when the status is not DONE, its completion cell, its holds released, a handler's message
consumed (DEDUCED, log entry 22; DEDUCED, log entry 42). -/
def endInvocation (s : State) (ik status tidx cause own : Nat) : State :=
  match getInv s ik with
  | none => s
  | some iv =>
    let s1 := if status = 0 then s else invRecord s ik iv status tidx cause own
    countHandled (modInv (writeCell s1 ik iv status) ik fun iv => { iv with st := if status = 0 then .done else .faulted, held := [], asked := [], refs := [] }) iv

/-! ### Checks at RECORDED (R88) -/

/-- Code 0x01. -/
def badRecord (s : State) (cn : Nat) (c : Ctx) (rec' : Nat) (iv : Invoc) : Bool :=
  decide (bits rec' 4 4 ≠ 0) || bit rec' 0 || (!iv.tile && decide (field rec' 0xE 2 ≠ 0)) || decide (field rec' 0x3C 4 ≠ 0) ||
    decide (iv.gang = 0) || decide (iv.gang > 8) || (!iv.tile && decide (iv.gx = 0 ∨ iv.gy = 0 ∨ iv.gz = 0)) ||
    (!iv.tile && decide (iv.teams % iv.gang ≠ 0)) || decide (iv.spad > 128) || (iv.tile && decide (iv.gang ≠ 1)) ||
    decide (iv.ccell.toNat % 8 ≠ 0) || (iv.tile && decide (iv.tbase.toNat % 64 ≠ 0)) || !jobOk s cn c iv.job

/-- Code 0x03: a named handle unbound, a HEAP handle in HIN, one handle in both. -/
def badHandle (rec' : Nat) (hs : Tbl Handle) : Bool :=
  let hin := field rec' 0x10 8
  let hres := field rec' 0x18 8
  decide (hin &&& hres ≠ 0) ||
    (upFrom 0 64).any fun h => (bit hin h || bit hres h) && match tget hs h with
      | none => true
      | some (.heap _ _) => bit hin h
      | some (.pages _ _) => false

/-- The count of a tile list (R99): read once. None stands for BAD-TILE. -/
def tileCount (s : State) (cn : Nat) (tbase : Word) : State × Option Nat :=
  match deviceRead s cn tbase.toNat 8 with
  | (s1, some bs) => let n := bytesNat bs % 2 ^ 32; (s1, if n > 2 ^ 20 then none else some n)
  | (s1, none) => (s1, none)

/-- Code 0x04. -/
def noFit (s : State) (ik : Nat) (iv : Invoc) : Bool :=
  let part := invPart ik
  decide (effectiveClasses s part iv = []) || (kflag iv.kernel 1 && !gridFits s ik part iv)

/-- The checks of R88 in their order: the status of the first that fails, 0 when all pass; and the count under TILE. -/
def checkRecord (s : State) (ik cn : Nat) (c : Ctx) (rec' : Nat) (hs : Tbl Handle) (iv : Invoc) : State × Nat × Invoc :=
  if badRecord s cn c rec' iv then (s, 1, iv)
  else if (findKernel c iv.obj iv.kidx).isNone then (s, 2, iv)
  else if badHandle rec' hs then (s, 3, iv)
  else if iv.tile then
    match tileCount s cn iv.tbase with
    | (s1, none) => (s1, 5, iv)
    | (s1, some n) => let iv1 := { iv with teams := n }; (s1, if noFit s1 ik iv1 then 4 else 0, iv1)
  else (s, if noFit s ik iv then 4 else 0, iv)

/-! ### The dispatch scoreboard (R91, R92) -/

/-- The pages that meet `len` bytes from a VA. -/
def pagesOf (base len : Nat) : List Nat := if len = 0 then [] else (upFrom (base / 4096) ((base + len - 1) / 4096 - base / 4096 + 1)).map (· * 4096)

/-- The range of a page's registers (R206): first and last address, and whether it is the whole ASID. -/
def invRange (p : Page) : Nat × Nat × Bool :=
  let lo := bits p.invva.toNat 12 45 * 4096
  let n := bits p.invlen.toNat 0 32
  (lo, lo + n * 4096, decide (n = 0))

/-- Whether the page that holds a VA meets a range (R207, R208). -/
def pageMeets (m : Memory) (root : Nat) (r : Nat × Nat × Bool) (va : Nat) : Bool :=
  let p := pageSpanAt m root va
  r.2.2 || (decide (p.1 < r.2.1) && decide (r.1 < p.1 + p.2))

/-- Whether a MIGRATE in progress marks a page non-resident (R208). -/
def migrating (s : State) (cn : Nat) (c : Ctx) (va : Nat) : Bool :=
  s.pages.any fun e => match e.2.invcmd with
    | .migrate x _ => decide (x = cn) && pageMeets (tables s) c.root (invRange e.2) va
    | _ => false

/-- What an examination of a page finds: resident as an input, resident as a result. It is mapped with R, or W, MIG clear, in device
DRAM, and no MIGRATE in progress marks it (R91, R92, R208). -/
def examined (s : State) (cn : Nat) (c : Ctx) (va : Nat) : Bool × Bool :=
  match if migrating s cn c va then none else peek (tables s) c.root va with
  | some (pa, leaf) => (leaf.getLsbD 1 && decide (pa < 2 ^ 51), leaf.getLsbD 2 && decide (pa < 2 ^ 51))
  | none => (false, false)

/-- Examines pages, whose residency is tracked from then on (R90). -/
def examinePages (s : State) (cn : Nat) (vas : List Nat) : State :=
  match getCtx s cn with
  | none => s
  | some c => modCtx s cn fun x => { x with tracked := vas.foldl (fun t va => tput t (va / 4096) (examined s cn c va)) x.tracked }

/-- Examines again the tracked pages that meet a condition (R91, R207). -/
def reexamine (s : State) (cn : Nat) (hit : Nat → Bool) : State :=
  examinePages s cn ((((getCtx s cn).map (·.tracked)).getD []).filterMap fun e => if hit (e.1 * 4096) then some (e.1 * 4096) else none)

/-- The tracking of a context brought up to date: it follows every store to a leaf, so it is re-examined whenever it is read (R90)
(DEDUCED, log entry 99). -/
def trackNow (s : State) (cn : Nat) : State := reexamine s cn fun _ => true

/-- Whether a page is resident for the scoreboard, as the tracking has it: it walks no table (R90). -/
def pageResident (c : Ctx) (w : Bool) (va : Nat) : Bool :=
  let r := tgetD c.tracked (va / 4096) (false, false)
  if w then r.2 else r.1

/-- The level at which a walk stops; 5 where bits 63:57 leave none to be made (R203). -/
def walkLevel (m : Memory) (root va : Nat) : Nat :=
  if 2 ^ 57 ≤ va then 5 else match walk m root va with
  | .bad _ l => l
  | .leaf _ size _ _ => if size = 2 ^ 30 then 2 else if size = 2 ^ 21 then 1 else 0

/-- Whether an invocation has asked for a page that holds an address, and the entry is not resolved yet (R91). -/
def askedFor (iv : Invoc) (va : Nat) : Bool := iv.asked.any fun p => decide (p.1 ≤ va) && decide (va < p.1 + p.2)

/-- Posts a MIGREQ entry for the page that holds an address, at most one while it is outstanding (R91) (DEDUCED, log entry 37; DESIGN
CHOICE, log entry 100). -/
def askPage (s : State) (ik : Nat) (w : Bool) (va : Nat) : State :=
  match getInv s ik with
  | some iv =>
    if askedFor iv va then s
    else
      let root := ((getCtx s iv.ctx).map (·.root)).getD 0
      let level := walkLevel (tables s) root va
      let s1 := modInv s ik fun iv => { iv with asked := iv.asked ++ [pageSpanAt (tables s) root va] }
      faultAppend s1 iv.ctx { who := .board ik iv.order, va := BitVec.ofNat 64 va, seq := 0, tidx := 0, inv := invNum ik, agentBits := 0x200, elem := 0,
                              kind := 3, access := (if w then 2 else 1) + 16 * level }
  | none => s

/-- The pages of a handle. -/
def handlePages : Handle → List Nat
  | .pages b n => pagesOf b.toNat n
  | .heap _ _ => []

/-- The pages of a list that are missing for an invocation: not resident, or asked for and not examined again yet (R91). -/
def missingPages (c : Ctx) (iv : Invoc) (w : Bool) (ps : List Nat) : List Nat := ps.filter fun va => !pageResident c w va || askedFor iv va

/-- RECORDED and WAIT-INPUT: every input held, or the missing pages asked for. -/
def scoreInputs (s0 : State) (ik : Nat) : State :=
  match getInv s0 ik with
  | some iv =>
    if iv.st = .recorded ∨ iv.st = .waitInput then
      let s := trackNow s0 iv.ctx
      match getCtx s iv.ctx with
      | none => s
      | some c =>
        let ps := iv.inputs.flatMap fun h => handlePages h.2
        let missing := missingPages c iv false ps
        if missing = [] then modInv s ik fun iv => { iv with st := .waitSpace, held := ps }
        else missing.foldl (fun s va => askPage s ik false va) (modInv s ik fun iv => { iv with st := .waitInput })
    else s0
  | none => s0

/-- Reserves one result handle (R92): whether it is reserved, or must wait. -/
def reserveOne (s : State) (ik : Nat) (iv : Invoc) (c : Ctx) (h : Nat × Handle) : State × Bool :=
  match h.2 with
  | .pages b n =>
    let ps := pagesOf b.toNat n
    let missing := missingPages c iv true ps
    if missing = [] then (modInv s ik fun iv => { iv with held := iv.held ++ ps }, true)
    else (missing.foldl (fun s va => askPage s ik true va) s, false)
  | .heap n refc =>
    match deviceMay s iv.ctx refc.toNat with
    | (s0, false) => (askPage s0 ik true (refc.toNat / 4096 * 4096), false)
    | (s0, true) =>
      match heapAlloc s0 (hubAsker iv.ctx) (BitVec.ofNat 64 n) with
      | (s1, .made x) =>
        (modInv ((deviceWrite s1 iv.ctx refc.toNat (natBytes x.toNat 8)).getD s1) ik fun iv => { iv with refs := iv.refs ++ [(h.1, x)] }, true)
      | (s1, .full) => (s1, false)
      | (s1, .bad (.bad (.page va _ _))) => (askPage s1 ik true (va.toNat / 4096 * 4096), false)
      | (s1, .bad _) => (beginKill s1 iv.ctx, false)

/-- WAIT-SPACE: results in ascending handle number; `n` bounds how many are tried (DEDUCED, log entry 37). -/
def scoreResults (ik : Nat) : Nat → State → State
  | 0, s => s
  | n + 1, s0 =>
    match getInv s0 ik with
    | some iv =>
      let s := trackNow s0 iv.ctx
      if iv.st ≠ .waitSpace then s0
      else match lget iv.results iv.reserved, getCtx s iv.ctx with
      | none, _ => modInv s ik fun iv => { iv with st := .dispatchable }
      | some h, some c =>
        (match reserveOne s ik iv c h with
          | (s1, true) => scoreResults ik n (modInv s1 ik fun iv => { iv with reserved := iv.reserved + 1 })
          | (s1, false) => s1)
      | some _, none => s
    | none => s0

/-- Advances an invocation from RECORDED towards DISPATCHABLE as far as it can go; not while the Timetable's root is being rebuilt
(R390). -/
def advanceInv (s : State) (ik : Nat) : State := if s.hub.rebuilding then s else scoreResults ik 65 (scoreInputs s ik)

/-- The invocation's job-table entry is created when it passes its checks (R233). -/
def openJob (s : State) (cn job : Nat) : State :=
  if job = 0 ∨ (tget s.jobs job).isSome then s
  else { s with jobs := tput s.jobs job { ctx := cn, inj := 0, con := 0, dirty := false, broken := false } }

/-- Creates an invocation from a launch record and runs its checks (R86 to R93). Answers its number. -/
def createLaunch (s : State) (cn : Nat) (rec' : Nat) (tile : Bool) (hs : Tbl Handle) (prio : Nat) : State × Option Nat :=
  match getCtx s cn with
  | none => (s, none)
  | some c =>
    match freeInv s c.part with
    | none => (s, none)
    | some num =>
      let ik := invKey c.part num
      let s1 := arbTick s
      let iv0 := recordInvoc cn rec' tile hs prio s1.arb (findKernel c (field rec' 1 1) (field rec' 2 1))
      let (s2, status, iv) := checkRecord s1 ik cn c rec' hs iv0
      let s3 := { s2 with invs := tput s2.invs ik iv }
      (if status = 0 then advanceInv (openJob s3 cn iv.job) ik else endInvocation s3 ik status 0 0 0, some num)

/-! ### LAUNCH (R347) -/

/-- The 64 bytes of s(a) to s(a + 7). -/
def recordOf (cx : Cx) (a : Nat) : Nat := packBits (fun i => (readS cx (a + i)).toNat) 64 0 8

/-- LAUNCH and LAUNCH.T. They wait while the Timetable's root is being rebuilt (R390). -/
def runLaunch (i : Instr) (tile : Bool) (d a : BitVec 6) (l : BitVec 4) (s : State) : Host.Outcome State Fault Refusal :=
  runGroup {} i (fun cx =>
    if a.toNat % 2 ≠ 0 ∨ a = 0 ∨ a.toNat > 56 then illegal cx (encode i)
    else if cx.s.hub.rebuilding then { cx := cx, fate := .stay }
    else
      match createLaunch cx.s cx.cn (setBit (recordOf cx a.toNat) 1 tile) tile [] (((getTeam cx.s cx.k).map (·.prio)).getD 0) with
      | (s1, some num) => okWrite { cx with s := s1 } d.toNat (BitVec.ofNat 64 (num * 2 ^ 16)) l.toNat
      | (s1, none) => okWrite { cx with s := s1 } d.toNat 1 l.toNat) s

/-- LAUNCH. -/
def execLaunch (d a : BitVec 6) (l : BitVec 4) (s : State) : Host.Outcome State Fault Refusal := runLaunch (.launch d a l) false d a l s

/-- LAUNCH.T. -/
def execLaunchT (d a : BitVec 6) (l : BitVec 4) (s : State) : Host.Outcome State Fault Refusal := runLaunch (.launchT d a l) true d a l s

/-! ### Waiting and selection (R84, R92) -/

/-- HEAP_RESERVATION_RETRY (R92). -/
def execHeapReservationRetry (inv : Nat) (s : State) : Host.Outcome State Fault Refusal :=
  .next (if ((getInv s inv).map fun iv => decide (iv.st = .waitSpace)).getD false then advanceInv s inv else s)

/-- Whether an invocation ages (R84, R97): until PLACING, and again while a pre-empted team of it waits. -/
def ages (s : State) (ik : Nat) (iv : Invoc) : Bool :=
  match iv.st with
  | .recorded | .waitInput | .waitSpace | .dispatchable => true
  | .placing => s.teams.any fun e => decide (e.2.inv = ik) && e.2.saved
  | _ => false

/-- PRIORITY_AGING (R84): one millisecond of waiting. -/
def execPriorityAging (inv : Nat) (s : State) : Host.Outcome State Fault Refusal :=
  .next (match getInv s inv with
    | some iv => if ages s inv iv ∧ iv.prio + iv.aged < 7 then modInv s inv fun iv => { iv with aged := iv.aged + 1 } else s
    | none => s)

/-- Whether the Timetable may move a context's invocations out of DISPATCHABLE (R63, R93). -/
def ctxPlaces (s : State) (cn : Nat) : Bool := ((getCtx s cn).map fun c => decide (c.st = .running)).getD false

/-- Whether a SUSPEND of a context is running: it stops placement (R62). -/
def suspending (s : State) (cn : Nat) : Bool :=
  s.pages.any fun e => mbRuns e.2 cn && decide (bits e.2.mbcmd.toNat 0 8 = 6)

/-- The better of two candidates: higher effective priority, then earlier consumed. -/
def better (a b : Nat × Invoc) : Nat × Invoc :=
  if effPrio a.2 < effPrio b.2 ∨ (effPrio a.2 = effPrio b.2 ∧ b.2.order < a.2.order) then b else a

/-- INVOCATION_SELECT (R84). -/
def execInvocationSelect (part : Nat) (s : State) : Host.Outcome State Fault Refusal :=
  let cand := s.invs.filter fun e => decide (invPart e.1 = part) && decide (e.2.st = .dispatchable) && ctxPlaces s e.2.ctx && !suspending s e.2.ctx
  .next (if s.hub.rebuilding then s else match cand with
    | [] => s
    | e :: r => modInv s (r.foldl better e).1 fun iv => { iv with st := .placing })

/-- INVOCATION_COMPLETE (R93): a draining invocation whose writes are performed (DEDUCED, log entry 42). -/
def execInvocationComplete (inv : Nat) (s : State) : Host.Outcome State Fault Refusal :=
  .next (match getInv s inv with
    | some iv =>
      if iv.st = .draining ∧ !s.hub.rebuilding then
        (match iv.mark with
          | some (status, tidx, cause, own) => endInvocation s inv status tidx cause own
          | none => endInvocation s inv (if iv.badTile then 5 else 0) 0 0 0)
      else s
    | none => s)

/-! ### Delivery of a trap (R378) -/

/-- A handler invocation for the agent whose frame lies in a slot. -/
def handlerInvoc (cn : Nat) (o : CodeObj) (kn : Kernel) (obj kidx : Nat) (kind : InvKind) (order : Nat) : Invoc :=
  { ctx := cn, kind := kind, st := .recorded, obj := obj, kidx := kidx, kernel := kn, code := o.base, gang := 1, job := 0, spad := 16,
    gx := 1, gy := 1, gz := 1, tile := false, tbase := 0, teams := 1, inputs := [], results := [], held := [], asked := [], reserved := 0, refs := [],
    argp := 0, arg0 := 0, ccell := 0, ctag := 0, cpref := 1, prio := 7, aged := 0, order := order, nextTeam := 0, again := [], replays := [],
    mark := none, badTile := false }

/-- Creates the handler of a frame, if a number is free (R86, R378). A handler that fits nowhere ends, and the handled team with
it (log entry 22). -/
def createHandler (s : State) (cn : Nat) (c : Ctx) (k a slot : Nat) (th : Thread) : State :=
  match freeInv s c.part, c.handler.bind fun h => (findKernel c h.1 h.2).map fun p => (h, p) with
  | some num, some (h, o, kn) =>
    let ik := invKey c.part num
    let s1 := arbTick s
    let iv := handlerInvoc cn o kn h.1 h.2 (.handler k a slot th.trapc th.trapv th.epc) s1.arb
    let s2 := { s1 with invs := tput s1.invs ik iv }
    if noFit s2 ik iv then freeFrame (endHandled (endInvocation s2 ik 4 0 0 0) k a slot 0 th.trapc) cn slot
    else advanceInv (modCtx s2 cn fun c => { c with frames := tmod c.frames slot fun f => { f with handler := some ik } }) ik
  | _, _ => s

/-- TRAP_FRAME_WRITE (R378): the image of a trapped agent goes to the lowest free slot, or its frame's handler is created once a
number is free. While every slot is held, the slot cannot be written, or the Timetable's root is being rebuilt (R390), the agent
waits (DEDUCED, log entry 22). -/
def execTrapFrameWrite (team agent : Nat) (s : State) : Host.Outcome State Fault Refusal :=
  .next (match getThread s team agent, ctxOf s team with
    | some th, some c =>
      let cn := ctxNum s team
      if th.run ≠ .parkedFault ∨ ctxGone c ∨ s.hub.rebuilding then s
      else match th.park with
      | .trap seq =>
        (match lowestFree c.frames 0 c.tfslots.toNat, agentFrame s team agent th.trapc.toNat seq th.trapv th.epc with
          | some slot, some bs =>
            (match deviceWriteLong cn framePages s (c.tfbase.toNat + slot * frameSize) bs with
              | some s1 =>
                let s2 := modCtx (modThread s1 team agent fun th => { th with park := .frame slot }) cn fun c =>
                  { c with frames := tput c.frames slot { team := team, agent := agent, handler := none } }
                createHandler s2 cn c team agent slot th
              | none => s)
          | _, _ => s)
      | .frame slot => if ((tget c.frames slot).map fun f => f.handler.isNone).getD false then createHandler s cn c team agent slot th else s
      | _ => s
    | _, _ => s)

end Sys2Proof.Machine
end

