-- ==== Sys2Proof/Machine/Sync.lean ====
section
/-! DEFINITION. Bells and remote signals (R177 to R183, R341, R342), monitored waits (R184 to R186, R339, R340), and the events that apply signals and evaluate watches. -/
namespace Sys2Proof.Machine

/-- What an instruction of group `i` of a team would work on, whether or not it may issue. -/
def cxFor (s : State) (k i : Nat) : Option Cx :=
  match invOf s k, getGroup s k i with
  | some iv, some g => some { s := s, k := k, i := i, g := g, vps := none, kn := iv.kernel, cn := iv.ctx }
  | _, _ => none

/-- A control thread whose parked instruction has completed: READY, or in PARKED-FAULT for its block with no wait set aside any more (DEDUCED, log entry 94). -/
def waitDone (old th : Thread) : Thread :=
  if old.run = .parkedFault then { th with run := .parkedFault, park := old.park, aside := none } else { th with run := .ready }

/-- An agent's parked instruction completes and its agent becomes READY, or that is its recorded state (R120, R121). The wait
ends with an acquire, at which a sequencer's scale cache is emptied (R155). -/
def completeWait (s : State) (k a : Nat) : State :=
  modTeam s k fun t =>
    if a = 16 then { t with seq := t.seq.map fun q =>
      { q with th := { threadNext q.th (q.th.pc + 4) q.th.word 0 [] with run := .running }, cache := [] } }
    else match lget t.groups a with
      | some g =>
        let g1 := groupNext g (g.th.pc + 4) false g.th.word 0 []
        { t with groups := lset t.groups a { g1 with th := waitDone g.th g1.th } }
      | none => t

/-- The agents of a team whose threads meet a condition. -/
def agentsWith (s : State) (k : Nat) (f : Thread → Bool) : List Nat :=
  (upFrom 0 17).filter fun a => ((getThread s k a).map f).getD false

/-! ### Bells -/

/-- Bell `b` of a team. -/
def getBell (s : State) (k b : Nat) : Option Bell := (getTeam s k).bind fun t => lget t.bells b

def putBell (s : State) (k b : Nat) (x : Bell) : State := modTeam s k fun t => { t with bells := lset t.bells b x }

/-- A waiter of a bell is released, with its checksum packet (R180, R407); a saved team writes none until it is restored (R404). -/
def releaseWaiter (k b : Nat) (ph : BitVec 16) (s : State) (a : Nat) : State :=
  let s1 := completeWait s k a
  if ((getTeam s k).map (·.saved)).getD false then (if traceOn s k 9 then modThread s1 k a fun th => { th with owed := some (b, ph) } else s1)
  else traceCrc s1 k a b ph

/-- Every waiter of a bell is released (R180). -/
def releaseBell (s : State) (k b : Nat) (ph : BitVec 16) : State :=
  (agentsWith s k fun th => decide (waitOf th = .waitBell b)).foldl (releaseWaiter k b ph) s

/-- A bell after an arrival, by an agent with its BARV at an address or by a signal, has been counted (R401, R406). -/
def bellBy (x : Bell) (who : Option (Nat × Word)) : Bell :=
  match who with
  | some (a, pc) => { x with by' := if x.by'.contains a then x.by' else x.by' ++ [a], last := pc }
  | none => x

/-- An arrival at a bell (R178), by an agent with its BARV at an address or by a signal: answers the PH it held, or none for an IDLE
bell. -/
def bellArrive (s : State) (k b : Nat) (who : Option (Nat × Word)) : State × Option (BitVec 16) :=
  match getBell s k b with
  | some x =>
    if !x.counting then (s, none)
    else if x.arr + 1 < x.exp then (putBell s k b { bellBy x who with arr := x.arr + 1 }, some x.ph)
    else (releaseBell (putBell s k b { bellBy x who with ph := x.ph + 1, arr := 0, by' := [] }) k b (x.ph + 1), some x.ph)
  | none => (s, none)

/-- BINIT (R178): the new bell, or none where it is illegal. -/
def bellInit (x : Bell) (v : Word) : Option Bell :=
  if v = 0 ∨ 65535 < v.toNat ∨ (x.counting ∧ x.arr > 0) then none
  else if x.counting then some { x with exp := v.toNat }
  else some { x with counting := true, exp := v.toNat, arr := 0 }

/-- BINIT (R341). -/
def execBinit (b : BitVec 4) (r : BitVec 6) (s : State) : Host.Outcome State Fault Refusal :=
  let i := Instr.binit b r
  runBoth {} i
    (fun cx => match (getBell cx.s cx.k b.toNat).bind fun x => bellInit x (readS cx r.toNat) with
      | some x => ok { cx with s := putBell cx.s cx.k b.toNat x }
      | none => illegal cx (encode i))
    (fun sx => match (getBell sx.s sx.k b.toNat).bind fun x => bellInit x (readX sx.q.th r.toNat) with
      | some x => if kOk [r] then okSeq { sx with s := putBell sx.s sx.k b.toNat x } else illegalSeq sx (encode i)
      | none => illegalSeq sx (encode i)) s

/-- BARV (R341): the register receives the PH at application. -/
def execBarv (b : BitVec 4) (r : BitVec 6) (s : State) : Host.Outcome State Fault Refusal :=
  let i := Instr.barv b r
  runBoth {} i
    (fun cx => match bellArrive cx.s cx.k b.toNat (some (cx.i, cx.g.th.pc)) with
      | (s1, some ph) => okWrite { cx with s := s1 } r.toNat (ph.setWidth 64) 0
      | (_, none) => illegal cx (encode i))
    (fun sx =>
      if !kOk [r] then illegalSeq sx (encode i)
      else match bellArrive sx.s sx.k b.toNat (some (16, sx.q.th.pc)) with
        | (s1, some ph) => okWriteSeq { sx with s := s1 } r.toNat (ph.setWidth 64) 0
        | (_, none) => illegalSeq sx (encode i)) s

/-- A group's BWAIT or BSYNC that completes at once, with its checksum packet. -/
def bellDone (cx : Cx) (w : IWord) (b : Nat) (ph : BitVec 16) : Out :=
  { cx := { cx with s := traceCrc (finishCtl w (ok cx)) cx.k cx.i b ph }, fate := .moved }

/-- The sequencer's. -/
def bellDoneSeq (sx : Sx) (w : IWord) (b : Nat) (ph : BitVec 16) : SOut :=
  { sx := { sx with s := traceCrc (finishSeq w (okSeq { sx with q := { sx.q with cache := [] } })) sx.k 16 b ph }, fate := .moved }

/-- BWAIT (R180): waits while PH equals bits 15:0 of the register. -/
def execBwait (b : BitVec 4) (r : BitVec 6) (s : State) : Host.Outcome State Fault Refusal :=
  let i := Instr.bwait b r
  runBoth {} i
    (fun cx => match getBell cx.s cx.k b.toNat with
      | some x =>
        if !x.counting then illegal cx (encode i)
        else if x.ph = (readS cx r.toNat).setWidth 16 then { cx := cx, fate := .park (.waitBell b.toNat) }
        else bellDone cx (encode i) b.toNat x.ph
      | none => illegal cx (encode i))
    (fun sx =>
      if !kOk [r] then illegalSeq sx (encode i)
      else match getBell sx.s sx.k b.toNat with
        | some x =>
          if !x.counting then illegalSeq sx (encode i)
          else if x.ph = (readX sx.q.th r.toNat).setWidth 16 then { sx := sx, fate := .park (.waitBell b.toNat) }
          else bellDoneSeq sx (encode i) b.toNat x.ph
        | none => illegalSeq sx (encode i)) s

/-- BSYNC (R179): an arrival, then a wait on the PH it returned. -/
def execBsync (b : BitVec 4) (s : State) : Host.Outcome State Fault Refusal :=
  let i := Instr.bsync b
  runBoth {} i
    (fun cx => match bellArrive cx.s cx.k b.toNat (some (cx.i, cx.g.th.pc)) with
      | (s1, some ph) =>
        let cx1 := { cx with s := s1 }
        (match getBell s1 cx.k b.toNat with
          | some x => if x.ph = ph then { cx := cx1, fate := .park (.waitBell b.toNat) } else bellDone cx1 (encode i) b.toNat x.ph
          | none => ok cx1)
      | (_, none) => illegal cx (encode i))
    (fun sx => match bellArrive sx.s sx.k b.toNat (some (16, sx.q.th.pc)) with
      | (s1, some ph) =>
        let sx1 := { sx with s := s1 }
        (match getBell s1 sx.k b.toNat with
          | some x => if x.ph = ph then { sx := sx1, fate := .park (.waitBell b.toNat) } else bellDoneSeq sx1 (encode i) b.toNat x.ph
          | none => okSeq sx1)
      | (_, none) => illegalSeq sx (encode i)) s

/-- Whether a BSIG pair is legal (R342). -/
def bsigOk (r : BitVec 6) (lo hi : Word) : Bool :=
  decide (r.toNat ≠ 0) && decide (r.toNat % 2 = 0) && decide (lo.toNat / 2 ^ 32 = 0) && decide (bits lo.toNat 28 3 = 0) &&
    decide (bits lo.toNat 10 6 = 0) && decide (hi.toNat / 2 ^ 48 = 0) && (!lo.getLsbD 31 || decide (bits lo.toNat 0 28 = 0))

/-- Hands a signal to the Timetable (R342). -/
def sendSignal (s : State) (k : Nat) (b : BitVec 4) (lo hi : Word) : State :=
  match getTeam s k, invOf s k with
  | some t, some iv =>
    let me := lo.getLsbD 31
    { s with signals := s.signals ++ [{
        ctx := if me then iv.ctx else bits lo.toNat 0 10, inv := if me then invNum t.inv else bits lo.toNat 16 12, tidx := hi.toNat,
        bell := b.toNat, fromCtx := iv.ctx, fromPart := t.inv / 4096, fromInv := invNum t.inv, fromTidx := t.tidx, r0 := lo, r1 := hi }] }
  | _, _ => s

/-- BSIG (R342). -/
def execBsig (b : BitVec 4) (r : BitVec 6) (s : State) : Host.Outcome State Fault Refusal :=
  let i := Instr.bsig b r
  runBoth {} i
    (fun cx =>
      let lo := readS cx r.toNat
      let hi := readS cx (r.toNat + 1)
      if bsigOk r lo hi then ok { cx with s := sendSignal cx.s cx.k b lo hi } else illegal cx (encode i))
    (fun sx =>
      let lo := readX sx.q.th r.toNat
      let hi := readX sx.q.th (r.toNat + 1)
      if kOk [r] && bsigOk r lo hi then okSeq { sx with s := sendSignal sx.s sx.k b lo hi } else illegalSeq sx (encode i)) s

/-- The team a signal names, if it is resident or saved in the sender's partition (R181). -/
def signalTarget (s : State) (g : Signal) : Option Nat :=
  match getCtx s g.ctx with
  | some c =>
    let k := teamKey (invKey c.part g.inv) g.tidx
    if !ctxGone c ∧ c.part = g.fromPart ∧ ((invOf s k).map fun iv => decide (iv.ctx = g.ctx) && invLive iv).getD false then some k else none
  | none => none

/-- Whether a signal is held: the Timetable's root, or the scheduler of the target's cluster, is being rebuilt (R390). -/
def signalHeld (s : State) (g : Signal) : Bool :=
  s.hub.rebuilding || (((signalTarget s g).bind (getTeam s)).map fun t => !t.saved && clusterStopped s t).getD false

/-- BSIG_APPLY (R181 to R183): the n-th signal in flight is applied exactly once or discarded exactly once; one that is held stays in
flight. -/
def execBsigApply (n : Nat) (s : State) : Host.Outcome State Fault Refusal :=
  match lget s.signals n with
  | none => .next s
  | some g =>
    if signalHeld s g then .next s else
    let s1 := { s with signals := s.signals.eraseIdx n }
    match signalTarget s g with
    | none => .next (strayRecord s1 g)
    | some k => match bellArrive s1 k g.bell none with
      | (s2, some _) => .next s2
      | (_, none) => .next (strayRecord s1 g)

/-! ### Monitored waits -/

/-- One evaluation (R185): every watched location read once, ascending; or the first fault. A later element on a no-speculation page
trims the watch and sets VLEN (R199, R200). -/
def evaluate (size cond : Nat) : List (Nat × Word × Nat) → Bool → Cx → List (Nat × Bool) → Cx × (List (Nat × Bool) ⊕ (Nat × Fate))
  | [], _, cx, acc => (cx, .inl acc)
  | (i, va, y) :: r, first, cx, acc =>
    match loadVa cx va size i first with
    | .val cx1 x => evaluate size cond r false cx1 (acc ++ [(i, condHolds (8 * size) cond x y)])
    | .bad cx1 f => (cx1, .inr (i, f))
    | .spec => ({ cx with g := putVlen cx.g i }, .inl acc)

/-- The first 64 lines of a watch (R185), by physical line number. -/
def watchLines (s : State) (cn : Nat) (items : List (Nat × Word × Nat)) : List Nat :=
  match getCtx s cn with
  | none => []
  | some c => ((items.filterMap fun e => (peek (tables s) c.root e.2.1.toNat).map fun p => p.1 / 64).eraseDups).take 64

/-- A watch after an evaluation that gave these results. -/
def watchAfter (cx : Cx) (w : Watch) (res : List (Nat × Bool)) : Watch :=
  let items := w.items.take res.length
  { w with items := items, last := res, lines := watchLines cx.s cx.cn items, due := false }

/-- Writes the destination predicate of a watch that completes (R186). -/
def watchPred (cx : Cx) (w : Watch) (res : List (Nat × Bool)) (sat : Bool) : Group :=
  if w.vec then
    putPred cx.g w.pd (w.items.foldl (fun a e => setBit a e.1 true) 0)
      (res.foldl (fun a e => if sat || e.2 then setBit a e.1 true else a) 0)
  else (putPredAll cx w.pd sat).g

/-- A watch at issue (R184 to R186): it completes, is parked, or faults as a load does. -/
def issueWatch (cx : Cx) (w : IWord) (x : Watch) : Out :=
  let t := match cx.g.th.rewatch with
    | some old => if cx.g.th.word = w then old.timeout else x.timeout
    | none => x.timeout
  match evaluate x.size x.cond x.items true cx [] with
  | (cx1, .inr (_, f)) => gotBad cx1 f
  | (cx1, .inl res) =>
    let y := watchAfter cx1 x res
    if res.all (·.2) then ok { cx1 with g := watchPred cx1 y res true }
    else if t = 0 then ok { cx1 with g := watchPred cx1 y res false }
    else { cx := cx1, fate := .park (.waitMem { y with timeout := t }) }

/-- WAITM (R339, R340). -/
def execWaitm (p : BitVec 7) (a b : BitVec 6) (z : BitVec 1) (c : BitVec 3) (t : BitVec 2) (s : State) : Host.Outcome State Fault Refusal :=
  let i := Instr.waitm p a b z c t
  runGroup vecRules i (fun cx =>
    issueWatch cx (encode i) {
      vec := false, pd := p.toNat, size := atomBytes z, cond := c.toNat, timeout := readS cx (60 + t.toNat), last := [], lines := [], due := false,
      items := [(0, readS cx a.toNat, (readS cx b.toNat).toNat % 2 ^ (8 * atomBytes z))] }) s

/-- VWAITM (R339, R340). -/
def execVwaitm (p : BitVec 7) (a b : BitVec 6) (c : BitVec 3) (t : BitVec 2) (s : State) : Host.Outcome State Fault Refusal :=
  let i := Instr.vwaitm p a b c t
  runGroup vecRules i (fun cx =>
    if !addrLegal cx.g a.toNat then illegal cx (encode i)
    else vecChecks i [a.toNat, b.toNat] [] (decide (vtFmt cx.g = 0) || decide (vtFmt cx.g = 10) || decide (vtFmt cx.g = 11)) (fun cx =>
      let w := elemWidth cx.g
      let items := (active cx).map fun e => (e, BitVec.ofNat 64 (elem64 cx a.toNat e), elem cx b.toNat w e)
      if items = [] then ok cx
      else issueWatch cx (encode i) {
        vec := true, pd := p.toNat, size := w / 8, cond := c.toNat, items := items, timeout := readS cx (60 + t.toNat), last := [],
        lines := [], due := false }) cx) s

/-- The watch a resident group is parked on; a halted group's is its recorded state (R120). -/
def parkedWatch (s : State) (k i : Nat) : Option (Cx × Watch) :=
  match getTeam s k, cxFor s k i with
  | some t, some cx =>
    if t.saved then none
    else match cx.g.th.run with
      | .waitMem w => some (cx, w)
      | _ => none
  | _, _ => none

/-- Completes a parked watch: the predicate written, the group READY. -/
def endWatch (cx : Cx) (w : Watch) (res : List (Nat × Bool)) (sat : Bool) : State :=
  completeWait (putGroup cx.s cx.k cx.i (watchPred cx w res sat)) cx.k cx.i

/-- A fault found at a later evaluation moves the group to PARKED-FAULT, and the watch restarts once it is resolved (R186). -/
def faultWatch (cx : Cx) (w : Watch) (f : Fate) : State :=
  let g := { cx.g with th := { cx.g.th with rewatch := some w } }
  let s1 := putGroup cx.s cx.k cx.i g
  match f with
  | .trap c v => takeTrap s1 cx.k cx.i c v g.th.pc none
  | .page va kind acc e => takeFault s1 cx.k cx.i va kind acc e none
  | .lost => beginKill s1 cx.cn
  | _ => s1

/-- An evaluation of a parked watch (R185). -/
def evaluateWatch (s : State) (k i : Nat) : State :=
  match parkedWatch s k i with
  | none => s
  | some (cx, w) =>
    match evaluate w.size w.cond w.items true cx [] with
    | (cx1, .inr (_, f)) => faultWatch cx1 w f
    | (cx1, .inl res) =>
      let y := watchAfter cx1 w res
      if res.all (·.2) then endWatch cx1 y res true
      else putGroup cx1.s k i { cx1.g with th := { cx1.g.th with run := .waitMem y } }

/-- WATCH_EVALUATION (R185): after a write to a watched line, or its eviction. -/
def execWatchEvaluation (team group : Nat) (s : State) : Host.Outcome State Fault Refusal := .next (evaluateWatch s team group)

/-- WATCH_PERIODIC_EVALUATION (R185): every 4,096 clocks. -/
def execWatchPeriodicEvaluation (team group : Nat) (s : State) : Host.Outcome State Fault Refusal := .next (evaluateWatch s team group)

/-- Whether an evaluation has yet to follow a write that a watch is certain to see: a watched line was written, or a watched location
lies in scratchpad, whose writes are not followed (R185) (DEDUCED, log entry 23). -/
def watchDue (w : Watch) : Bool := w.due || w.items.any fun e => inWindow e.2.1.toNat

/-- WATCH_TIMEOUT (R184, R186): the destination takes the results of the last evaluation, which follows every write to a watched line
(DEDUCED, log entry 23). The count stands while the group is halted. -/
def execWatchTimeout (team group : Nat) (s : State) : Host.Outcome State Fault Refusal :=
  match parkedWatch s team group with
  | some (cx, w) =>
    if w.timeout = BitVec.allOnes 64 ∨ cx.g.th.halted then .next s
    else
      let s1 := if watchDue w then evaluateWatch s team group else s
      (match parkedWatch s1 team group with
        | some (cx1, w1) => .next (endWatch cx1 w1 w1.last false)
        | none => .next s1)
  | none => .next s

end Sys2Proof.Machine
end

