-- ==== Sys2Proof/Machine/Fabric.lean ====
section
/-! DEFINITION. Links (R229 to R231), messages and their handlers (R232 to R237), counters and loss repair (R238, R243 to R245), Roll Call (R240 to R242), MSEND, WQUIET and MCOUNT (R369 to R371), and the loss of a device (R394). -/
namespace Sys2Proof.Machine

/-! ### Messages -/

/-- This device's number (R232). -/
def thisDevice : Nat := Config.deviceNumber.toNat

/-- Flits a message takes (R232). -/
def flitsOf (m : Msg) : Nat := 1 + ceilDiv (8 * m.len - 48) 64

/-- Bytes 0x0 to 0x7 of the header, as a number. -/
def headWord (m : Msg) : Nat :=
  m.dst % 2 ^ 13 + m.src % 2 ^ 13 * 2 ^ 16 + m.job % 2 ^ 16 * 2 ^ 32 + m.hidx % 2 ^ 8 * 2 ^ 48 + m.len % 2 ^ 8 * 2 ^ 56

/-- A0 of a LOSS or BAD-HANDLER record (R417). -/
def lossWord (m : Msg) : Nat := m.job % 2 ^ 16 + m.src % 2 ^ 13 * 2 ^ 16 + m.dst % 2 ^ 13 * 2 ^ 32 + m.hidx % 2 ^ 8 * 2 ^ 48

def modJob (s : State) (job : Nat) (f : Job → Job) : State := { s with jobs := tmod s.jobs job f }

/-- Whether an unacknowledged message is the one named. -/
def isUnacked (dst job seq : Nat) (u : Unacked) : Bool := decide (u.msg.dst = dst) && decide (u.msg.job = job) && decide (u.msg.seq = seq)

def findUnacked (s : State) (dst job seq : Nat) : Option Unacked := s.unacked.find? (isUnacked dst job seq)

/-- Whether an entry of a link names a message. -/
def names (dst job seq : Nat) (e : Nat × Nat × Nat) : Bool := decide (e = (dst, job, seq))

/-- The origin frees its kept copy of a message, and the links theirs (R231, R243). -/
def freeMessage (s : State) (dst job seq : Nat) : State :=
  { s with unacked := s.unacked.filter fun u => !isUnacked dst job seq u
           links := tmap s.links fun _ l => { l with buffer := l.buffer.filter (fun e => !names dst job seq e),
                                                     crossed := l.crossed.filter (fun e => !names dst job seq e) } }

/-- A loss is declared (R244, R245): INJ repaired, DIRTY set, a loss event in the error queue of the job's context. -/
def repairLoss (s : State) (m : Msg) : State :=
  match tget s.jobs m.job with
  | some j => errorRecord (modJob s m.job fun j => { j with inj := j.inj - 1, dirty := true }) j.ctx 0x09 0 0xFFFF (lossWord m) m.seq 0
  | none => s

/-- A message that is lost: repaired and forgotten. -/
def loseMessage (s : State) (m : Msg) : State := freeMessage (repairLoss s m) m.dst m.job m.seq

/-- Links that carry flits (R229). -/
def carries (l : Link) : Bool := decide (l.st = .active) || decide (l.st = .degraded)

/-- Whether a message has gone onto a link. -/
def onLink (s : State) (m : Msg) : Bool := s.links.any fun e => e.2.crossed.contains (m.dst, m.job, m.seq)

/-- Whether an earlier message to the same device waits for a link: none overtakes it (R237). -/
def waitsBehind (s : State) (m : Msg) : List Unacked → Bool
  | [] => false
  | u :: r => if u.msg = m then false else (decide (u.msg.dst = m.dst) && !onLink s u.msg) || waitsBehind s m r

/-- Puts a message on a link that carries flits and has room in its retry buffer, if it is its turn. Which one is open: a free choice (DESIGN CHOICE, log entry 24; DEDUCED, log entry 44). -/
def routeMessage (s : State) (m : Msg) : State :=
  if m.dst = thisDevice ∨ onLink s m ∨ waitsBehind s m s.unacked then s
  else
    let ports := (s.links.filter fun e => carries e.2 && decide (e.2.buffer.length + flitsOf m ≤ 256)).map (·.1)
    match lget ports ((Config.freeWord s.draws ((m.dst * 65536 + m.job) * 2 ^ 32 + m.seq)).toNat % Nat.max 1 ports.length) with
    | some p => { s with links := tmod s.links p fun l => { l with
        buffer := l.buffer ++ List.replicate (flitsOf m) (m.dst, m.job, m.seq), crossed := l.crossed ++ [(m.dst, m.job, m.seq)] } }
    | none => s

/-- Every message that waits for a link goes on one, as far as it can, in the order they were injected (R229, R237). -/
def flow (s : State) : State := (s.unacked.filter fun u => !u.stranded).foldl (fun s u => routeMessage s u.msg) s

/-- The key of the SEQ counter of a destination and job (R243). -/
def seqKey (dst job : Nat) : Nat := dst * 65536 + job

/-- An interface accepts a message of a job (R238, R243): its SEQ, INJ and DIRTY, the copy kept; a message to a device that is
not assigned or is lost is declared lost at once (R370, R394). -/
def injectMessage (s : State) (job : Nat) (dst hidx len : Nat) (payload : List Byte) : State :=
  let seq := tgetD s.sendSeq (seqKey dst job) 0
  let m : Msg := { dst := dst, src := thisDevice, job := job, hidx := hidx, len := len, seq := seq % 2 ^ 32, payload := payload }
  let s1 := modJob { s with sendSeq := tput s.sendSeq (seqKey dst job) (seq + 1) } job fun j => { j with inj := j.inj + 1, dirty := true }
  if !Config.deviceAssigned dst ∨ s1.hub.lost.contains dst then repairLoss s1 m
  else routeMessage { s1 with unacked := s1.unacked ++ [{ msg := m, resent := false, queried := false, stranded := false }] } m

/-- Unacknowledged messages an interface holds for a destination at most (R243). -/
def unackedLimit : Nat := 4096

/-- An MSEND waits for its interface, and is no pre-emption point until it is accepted (R237). -/
def stallMsend (cx : Cx) : Out := { cx := withTh cx { cx.g.th with stalled := true }, fate := .stay }

/-- MSEND (R369, R370). It waits while its interface cannot accept the message. -/
def execMsend (v a : BitVec 6) (s : State) : Host.Outcome State Fault Refusal :=
  runGroup { feat := some 4, wait := true } (.msend v a) (fun cx =>
    let x := (readS cx a.toNat).toNat
    let dst := bits x 0 13
    let len := bits x 24 5
    let job := ((invOf cx.s cx.k).map (·.job)).getD 0
    if bits x 13 3 ≠ 0 ∨ x / 2 ^ 29 ≠ 0 ∨ len = 31 ∨ !vReadOk cx.g v.toNat ∨ 8 * len > imageBits cx / 8 ∨ job = 0 then illegal cx (encode (.msend v a))
    else match tget cx.s.jobs job with
    | none => stallMsend cx
    | some _ =>
      if (cx.s.unacked.filter fun u => u.msg.dst = dst).length ≥ unackedLimit then stallMsend cx
      else ok { cx with s := injectMessage cx.s job dst (bits x 16 8) len (natBytes (vecImage cx v.toNat 0) (8 * len)) }) s

/-! ### Arrival (R235 to R237) -/

/-- Live message handlers of a context (R237). -/
def liveHandlers (s : State) (cn : Nat) : Nat :=
  (s.invs.filter fun e => decide (e.2.ctx = cn) && invLive e.2 && match e.2.kind with | .message .. => true | _ => false).length

/-- A handler-table entry (R234). -/
structure HandlerEntry where
  obj : Nat
  kidx : Nat
  prio : Nat
  spad : Nat
  arg : Word
deriving DecidableEq, Repr

/-- The 16 bytes of an entry, where they are VALID and well formed. -/
def handlerEntry (x : Nat) : Option HandlerEntry :=
  if field x 0 1 ≠ 1 ∨ field x 3 1 > 7 ∨ field x 4 2 = 0 ∨ field x 4 2 > 128 ∨ field x 6 2 ≠ 0 then none
  else some { obj := field x 1 1, kidx := field x 2 1, prio := field x 3 1, spad := field x 4 2, arg := BitVec.ofNat 64 (field x 8 8) }

/-- The kernel check of R234. -/
def handlerKernel (c : Ctx) (e : HandlerEntry) : Option (CodeObj × Kernel) :=
  match findKernel c e.obj e.kidx with
  | some (o, kn) => if kn.groups = 1 ∧ kn.mentry = 0 then some (o, kn) else none
  | none => none

/-- Creates the handler invocation of a message (R235). -/
def createMessage (s : State) (cn : Nat) (c : Ctx) (m : Msg) (e : HandlerEntry) (o : CodeObj) (kn : Kernel) (num : Nat) : State :=
  let ik := invKey c.part num
  let s1 := arbTick s
  let iv := { handlerInvoc cn o kn e.obj e.kidx (.message m e.arg) s1.arb with job := m.job, spad := e.spad, prio := e.prio }
  let s2 := { s1 with invs := tput s1.invs ik iv }
  if noFit s2 ik iv then endInvocation s2 ik 4 0 0 0
  else if c.st = .suspended then s2 else advanceInv s2 ik

/-- What becomes of a message at acceptance (R235): it is dropped with a record of a type, or the kernel of a handler-table entry runs.
A context without the link feature has no message handlers (R64) (DEDUCED, log entry 103). -/
def messageFate (s : State) (cn : Nat) (c : Ctx) (m : Msg) : State × (Nat ⊕ HandlerEntry × CodeObj × Kernel) :=
  if ctxGone c then (s, .inl 0x09)
  else if c.msgTable = 0 ∨ !hasFeature c 4 then (s, .inl 0x0A)
  else match deviceRead s cn (c.msgTable.toNat + 16 * (m.hidx % 256)) 16 with
  | (s1, none) => (s1, .inl 0x0A)
  | (s1, some bs) =>
    match (handlerEntry (bytesNat bs)).bind fun e => (handlerKernel c e).map fun p => (e, p) with
    | some p => (s1, .inr p)
    | none => (s1, .inl 0x0A)

/-- A message that creates no handler invocation: consumed, dropped and recorded (R235). -/
def dropMessage (s : State) (cn : Nat) (m : Msg) (type : Nat) : State := errorRecord (countCon s m.job) cn type 0 0xFFFF (lossWord m) m.seq 0

/-- A message reaches its decision at the destination interface, its job's entry held by context `cn` (R235). None when it would need an
invocation number that is not to be had, or its context holds as many handler invocations as it may: it is not accepted then (R86, R237). -/
def acceptMessage (s : State) (cn : Nat) (c : Ctx) (m : Msg) : Option State :=
  match messageFate { s with seen := s.seen ++ [(m.src, m.job, m.seq, true)] } cn c m with
  | (s1, .inl type) => some (dropMessage s1 cn m type)
  | (s1, .inr (e, o, kn)) => (if liveHandlers s cn < 1024 then freeInv s c.part else none).map fun num => createMessage s1 cn c m e o kn num

/-- Flits that wait in the receive buffer. -/
def bufferedFlits (s : State) : Nat := s.rxbuf.foldl (fun a m => a + flitsOf m) 0

/-- Whether a message must wait behind another of the receive buffer: messages of one context wait in order, and never overtake
one another between one SRC and one DST (R237). -/
def mustWait (s : State) (m : Msg) : List Msg → Bool
  | [] => false
  | x :: r =>
    if x = m then false
    else decide (x.src = m.src) || ((tget s.jobs x.job).bind fun a => (tget s.jobs m.job).map fun b => decide (a.ctx = b.ctx)).getD false || mustWait s m r

/-- Whether a message would overtake another: of its SRC and JOB a later SEQ has been accepted, or, from this device itself, an
earlier one waits (R237). -/
def overtakes (s : State) (m : Msg) : Bool :=
  (s.seen.any fun e => decide (e.1 = m.src) && decide (e.2.1 = m.job) && decide (m.seq < e.2.2.1) && e.2.2.2) ||
    (decide (m.src = thisDevice) && ((s.unacked.find? fun u => decide (u.msg.dst = thisDevice) &&
      !(s.seen.any fun e => decide (e.1 = thisDevice) && decide (e.2.1 = u.msg.job) && decide (e.2.2.1 = u.msg.seq))).map fun u =>
        decide (u.msg ≠ m)).getD false)

/-- A message fit to arrive: for this device, of a job, with a payload of its length, overtaking none; one from this device itself
must be one it sent, and another's comes over a link that carries flits (R229). -/
def mayArrive (s : State) (m : Msg) : Bool :=
  decide (m.dst = thisDevice) && decide (m.src < 8192) && decide (0 < m.job) && decide (m.job < 65536) && decide (m.hidx < 256) &&
    decide (m.len ≤ 30) && decide (m.seq < 2 ^ 32) && decide (m.payload.length = 8 * m.len) &&
    (if m.src = thisDevice then s.unacked.any fun u => decide (u.msg = m) else s.links.any fun e => carries e.2) && !overtakes s m

/-- MESSAGE_ARRIVAL (R235 to R237, R243): a copy of a SEQ already decided is discarded; a message of a job with no entry is
refused; one whose handler would pass the limits waits in the receive buffer, from which the same event takes it later, and so does any
while the Timetable's root is being rebuilt (R390). -/
def execMessageArrival (m : Msg) (s : State) : Host.Outcome State Fault Refusal :=
  .next (
    let waiting := s.rxbuf.contains m
    if !waiting && !mayArrive s m then s
    else if s.seen.any fun e => decide (e.1 = m.src) && decide (e.2.1 = m.job) && decide (e.2.2.1 = m.seq) then s
    else
      let hold := if waiting ∨ bufferedFlits s + flitsOf m > 65536 then s else { s with rxbuf := s.rxbuf ++ [m] }
      if mustWait s m s.rxbuf || s.hub.rebuilding then hold
      else match (tget s.jobs m.job).bind fun j => (getCtx s j.ctx).map fun c => (j, c) with
      | none => { s with rxbuf := s.rxbuf.erase m, seen := s.seen ++ [(m.src, m.job, m.seq, false)] }
      | some (j, c) => (acceptMessage { s with rxbuf := s.rxbuf.erase m } j.ctx c m).getD hold)

/-- Whether a report about a message to this device itself agrees with what its interface decided. -/
def ownAgrees (s : State) (dst job seq : Nat) (accepted : Bool) : Bool :=
  decide (dst ≠ thisDevice) || s.seen.contains (thisDevice, job, seq, accepted)

/-- REFUSAL_REPORT (R236, R244). -/
def execRefusalReport (dst job seq : Nat) (s : State) : Host.Outcome State Fault Refusal :=
  .next (match findUnacked s dst job seq with
    | some u => if ownAgrees s dst job seq false then flow (loseMessage s u.msg) else s
    | none => s)

/-- END_TO_END_ACK (R243). -/
def execEndToEndAck (dst job seq : Nat) (s : State) : Host.Outcome State Fault Refusal :=
  .next (if ownAgrees s dst job seq true then flow (freeMessage s dst job seq) else s)

/-- RESEND_TIMEOUT (R244): a message resent is not acknowledged within 1 ms, so its destination is asked (DEDUCED, log entry 44). -/
def execResendTimeout (dst job seq : Nat) (s : State) : Host.Outcome State Fault Refusal :=
  .next { s with unacked := s.unacked.map fun u => if isUnacked dst job seq u ∧ u.resent then { u with queried := true } else u }

/-- Whether a message from another device waits in the receive buffer. -/
def inBuffer (s : State) (src job seq : Nat) : Bool :=
  s.rxbuf.any fun m => decide (m.src = src) && decide (m.job = job) && decide (m.seq = seq)

/-- SEQ_QUERY_RESPONSE (R244). As the destination, this device marks a SEQ refused that it has not accepted; the answer about one
that waits in its receive buffer follows the decision on it (DEDUCED, log entry 44). As the origin, it repairs a loss. -/
def execSeqQueryResponse (ends : MsgEnds) (job seq : Nat) (accepted : Bool) (s : State) : Host.Outcome State Fault Refusal :=
  .next (
    let src := ends.src
    let dst := ends.dst
    if dst = thisDevice then
      if src = thisDevice ∨ inBuffer s src job seq ∨ s.seen.any fun e => decide (e.1 = src) && decide (e.2.1 = job) && decide (e.2.2.1 = seq) then s
      else { s with seen := s.seen ++ [(src, job, seq, false)] }
    else if src ≠ thisDevice then s
    else match findUnacked s dst job seq with
    | some u => if !u.queried then s else flow (if accepted then freeMessage s dst job seq else loseMessage s u.msg)
    | none => s)

/-! ### Roll Call (R240 to R242) -/

/-- Starts a wave of a job when none from this interface is in flight. -/
def startWave (s : State) (job : Nat) : State :=
  if (tget s.waves job).isSome then s
  else { s with waveNo := s.waveNo + 1
                waves := tput s.waves job { id := s.waveNo + 1, i1 := 0, c1 := 0, i2 := 0, c2 := 0, d := false, first := [], second := [], ok := true } }

/-- WQUIET (R371): it waits for a Quiet wave that begins after it issued. -/
def execWquiet (a : BitVec 6) (s : State) : Host.Outcome State Fault Refusal :=
  runGroup { feat := some 4 } (.wquiet a) (fun cx =>
    let x := (readS cx a.toNat).toNat
    if x / 2 ^ 16 ≠ 0 ∨ x = 0 ∨ !((tget cx.s.jobs x).map fun j => decide (j.ctx = cx.cn)).getD false then illegal cx (encode (.wquiet a))
    else { cx := { cx with s := startWave cx.s x }, fate := .park (.waitQuiet x cx.s.waveNo) }) s

/-- MCOUNT (R246, R371). -/
def execMcount (d a : BitVec 6) (s : State) : Host.Outcome State Fault Refusal :=
  runGroup { feat := some 4 } (.mcount d a) (fun cx =>
    let x := (readS cx a.toNat).toNat
    if d = 0 ∨ d.toNat % 2 ≠ 0 ∨ x / 2 ^ 16 ≠ 0 then illegal cx (encode (.mcount d a))
    else
      let ic := match tget cx.s.jobs x with
        | some j => if j.ctx = cx.cn then (j.inj, j.con) else (0, 0)
        | none => (0, 0)
      ok (withTh cx (writeX (writeX cx.g.th d.toNat ic.1) (d.toNat + 1) ic.2))) s

/-- Whether a list of visited interfaces covers every device of the system. -/
def coversAll (l : List Nat) : Bool := l.contains thisDevice && (upFrom 0 8192).all fun d => !Config.deviceAssigned d || l.contains d

/-- A wave after a visit that found these counters. -/
def visitWave (w : Wave) (node : Nat) (second : Bool) (inj con : Word) (dirty : Bool) : Wave :=
  if second then
    if !coversAll w.first ∨ w.second.contains node then w
    else { w with i2 := w.i2 + inj, c2 := w.c2 + con, d := w.d || dirty, second := w.second ++ [node] }
  else if w.first.contains node then w
  else { w with i1 := w.i1 + inj, c1 := w.c1 + con, first := w.first ++ [node] }

/-- Whether a visit takes place: for a wave of this interface, each interface once in each pass, and pass two after pass one. -/
def visitCounts (s : State) (job init node : Nat) (second : Bool) : Bool :=
  decide (init ≠ thisDevice) || match tget s.waves job with
    | some w => if second then coversAll w.first && !w.second.contains node else !w.first.contains node
    | none => false

/-- WAVE_VISIT (R240): at this interface its own counters are added and its DIRTY cleared or read; another interface's are what
the event brings (DEDUCED, log entry 71). -/
def execWaveVisit (job init node : Nat) (second : Bool) (inj con : BitVec 64) (dirty : Bool) (s : State) : Host.Outcome State Fault Refusal :=
  .next (
    if !visitCounts s job init node second then s
    else
      let mine := decide (node = thisDevice)
      let j := tget s.jobs job
      let i := if mine then (j.map (·.inj)).getD 0 else inj
      let c := if mine then (j.map (·.con)).getD 0 else con
      let dr := if mine then (j.map (·.dirty)).getD false else dirty
      let s1 := if mine ∧ !second then modJob s job fun j => { j with dirty := false } else s
      if init = thisDevice then { s1 with waves := tmod s1.waves job fun w => visitWave w node second i c dr } else s1)

/-- Quiet of R240; false while a message of any job has no route (R244), and for a BROKEN job (R394) (DEDUCED, log entry 71). -/
def waveQuiet (s : State) (job : Nat) (w : Wave) (reached : Bool) : Bool :=
  reached && w.ok && coversAll w.second && decide (w.i1 = w.i2) && decide (w.c1 = w.c2) && decide (w.i2 = w.c2) && !w.d &&
    !(s.unacked.any (·.stranded)) && !((tget s.jobs job).map (·.broken)).getD false

/-- Whether a thread waits in a WQUIET that a wave completes (R242). -/
def quietWaiter (job id : Nat) (th : Thread) : Bool :=
  match waitOf th with
  | .waitQuiet j issued => decide (j = job) && decide (issued < id)
  | _ => false

/-- The groups of resident teams that meet a condition. -/
def residentWith (s : State) (f : Thread → Bool) : List (Nat × Nat) :=
  (s.teams.filter fun e => !e.2.saved).flatMap fun e => (agentsWith s e.1 f).map fun a => (e.1, a)

/-- WAVE_END (R240, R242) (DEDUCED, log entry 71). -/
def execWaveEnd (job : Nat) (reached : Bool) (s : State) : Host.Outcome State Fault Refusal :=
  .next (match tget s.waves job with
    | none => s
    | some w =>
      if reached ∧ !coversAll w.second then s
      else
        let s1 := { s with waves := tdel s.waves job }
        if waveQuiet s job w reached then (residentWith s1 (quietWaiter job w.id)).foldl (fun s e => completeWait s e.1 e.2) s1 else s1)

/-- WAVE_RETRY_TIMER (R242): another wave while a resident group waits. -/
def execWaveRetryTimer (job : Nat) (s : State) : Host.Outcome State Fault Refusal :=
  .next (if residentWith s (fun th => match waitOf th with | .waitQuiet j _ => decide (j = job) | _ => false) = [] then s else startWave s job)

/-! ### Links (R229 to R231) -/

def modLink (s : State) (p : Nat) (f : Link → Link) : State := { s with links := tmod s.links p f }

/-- Adds to a counter that saturates. -/
def saturate (x n top : Nat) : Nat := Nat.min (x + n) top

/-- A link that leaves service (R229, R244): its flits are gone. With flits in its retry buffer, each message not acknowledged that
crossed it is resent on another route, or waits when none to its destination remains; `routes` are the destinations that some route still reaches (DEDUCED,
log entry 43). -/
def leaveService (s : State) (p : Nat) (st : LinkSt) (routes : List Nat) : State :=
  match tget s.links p with
  | none => s
  | some l =>
    let hit := if l.buffer = [] then [] else l.crossed
    let s1 := modLink s p fun l => { l with st := st, lanes := 0, buffer := [], crossed := if l.buffer = [] then l.crossed else [] }
    let mark (u : Unacked) : Unacked :=
      if hit.contains (u.msg.dst, u.msg.job, u.msg.seq) then
        (if routes.contains u.msg.dst then { u with resent := true } else { u with stranded := true })
      else u
    flow { s1 with unacked := s1.unacked.map mark }

/-- LINK_TRAINED (R229): from RETRAIN the retry buffer is replayed; flits flow, and messages that had no route are resent (R244) (DEDUCED, log entry 44). -/
def execLinkTrained (port lanes : Nat) (s : State) : Host.Outcome State Fault Refusal :=
  .next (match tget s.links port with
    | none => s
    | some l =>
      if (l.st ≠ .training ∧ l.st ≠ .retrain) ∨ (lanes ≠ 8 ∧ lanes ≠ 4 ∧ lanes ≠ 2) then s
      else
        let s1 := modLink s port fun l => { l with
          st := if lanes = 8 then .active else .degraded, lanes := lanes
          replays := if l.st = .retrain then saturate l.replays l.buffer.length (2 ^ 32 - 1) else l.replays }
        flow { s1 with unacked := s1.unacked.map fun u => if u.stranded then { u with stranded := false, resent := true } else u })

/-- TRAINING_TIMEOUT (R229). -/
def execTrainingTimeout (port : Nat) (s : State) : Host.Outcome State Fault Refusal :=
  .next (modLink s port fun l => if l.st = .training then { l with st := .failed, lanes := 0 } else l)

/-- ACTIVE or DEGRADED to RETRAIN. -/
def toRetrain (l : Link) : Link := if carries l then { l with st := .retrain, lanes := 0, retrains := saturate l.retrains 1 65535 } else l

/-- LANE_FAULT (R229). -/
def execLaneFault (port : Nat) (s : State) : Host.Outcome State Fault Refusal := .next (modLink s port toRetrain)

/-- CRC_REPLAY_LIMIT (R229): 16 CRC replays within 1 ms. -/
def execCrcReplayLimit (port : Nat) (s : State) : Host.Outcome State Fault Refusal := .next (modLink s port toRetrain)

/-- RETRAIN_TIMEOUT (R229, R244); `routes` are the destinations that some route still reaches. -/
def execRetrainTimeout (port : Nat) (routes : List Nat) (s : State) : Host.Outcome State Fault Refusal :=
  .next (if ((tget s.links port).map fun l => decide (l.st = .retrain)).getD false then leaveService s port .failed routes else s)

/-- The key under which corrected errors of a link are counted (R385). -/
def linkKey (p : Nat) : Nat := 2000 + p

/-- Counts a corrected error of a unit (R385). -/
def countCorrected (s : State) (key : Nat) : State :=
  { s with hub := { s.hub with corrected := tput s.hub.corrected key (tgetD s.hub.corrected key 0 + 1) } }

/-- A flit this device sent reaches the far side of a link: the oldest is acknowledged and leaves the retry buffer, which makes room
for messages that wait; from one with a CRC error, `seq` places behind the oldest, the flits are replayed (R231). -/
def flitOut (s : State) (p : Nat) (l : Link) (ok : Bool) (seq : Nat) : State :=
  if l.buffer.length ≤ seq then s
  else if ok then flow (modLink s p fun l => { l with buffer := l.buffer.drop 1 })
  else countCorrected (modLink s p fun l => { l with replays := saturate l.replays (l.buffer.length - seq) (2 ^ 32 - 1) }) (linkKey p)

/-- A flit reaches this device: one in order is acknowledged; one with a CRC error the far side replays (R231). -/
def flitIn (s : State) (p : Nat) (ok : Bool) (seq : Nat) : State :=
  if !ok then countCorrected s (linkKey p)
  else modLink s p fun l => if seq = l.rxNext then { l with rxNext := l.rxNext + 1 } else l

/-- FLIT_RECEIVE (R231, R385), at the far side of a link or at this device (DEDUCED, log entry 43). -/
def execFlitReceive (at' : LinkEnd) (ok : Bool) (seq : Nat) (s : State) : Host.Outcome State Fault Refusal :=
  .next (match at' with
    | .here port => if ((tget s.links port).map carries).getD false then flitIn s port ok seq else s
    | .far port => match tget s.links port with
      | some l => if carries l then flitOut s port l ok seq else s
      | none => s)

/-- LINK_RETRY (R230). -/
def execLinkRetry (port : Nat) (s : State) : Host.Outcome State Fault Refusal :=
  .next (modLink s port fun l => if l.st = .failed ∨ l.st = .down then { l with st := .training } else l)

/-- LINK_DISABLE (R229, R230). -/
def execLinkDisable (port : Nat) (routes : List Nat) (s : State) : Host.Outcome State Fault Refusal := .next (leaveService s port .down routes)

/-- DEVICE_LOST (R394): jobs it also held become BROKEN, and messages to it are repaired as lost. -/
def execDeviceLost (dev : Nat) (jobs : List Nat) (s : State) : Host.Outcome State Fault Refusal :=
  .next (
    let s0 := { s with hub := { s.hub with lost := if s.hub.lost.contains dev then s.hub.lost else s.hub.lost ++ [dev] } }
    let s1 := (s0.jobs.filter fun e => jobs.contains e.1 && !e.2.broken).foldl
      (fun s e => errorRecord (modJob s e.1 fun j => { j with broken := true }) e.2.ctx 0x0B 0 0xFFFF e.1 dev 0) s0
    flow ((s1.unacked.filter fun u => u.msg.dst = dev).foldl (fun s u => loseMessage s u.msg) s1))

end Sys2Proof.Machine
end

