-- ==== Sys2Proof/Machine/Placement.lean ====
section
/-! DEFINITION. Placing teams (R95 to R101, R108), pre-empting, saving and restoring them (R85, R123 to R125, R383), and their retirement (R119). -/
namespace Sys2Proof.Machine

/-! ### The next placement unit (R85, R95, R96) -/

/-- The saved teams of an invocation, ascending. -/
def savedTeams (s : State) (ik : Nat) : List Team := (s.teams.map (·.2)).filter fun t => decide (t.inv = ik) && t.saved

/-- Whether a debugger holds a stream of a team (R400): a saved team is placed again only after RESUME (DEDUCED, log entry 41). -/
def teamHalted (t : Team) : Bool :=
  (t.groups.any fun (g : Group) => g.th.halted || g.th.haltReq) || (t.seq.map fun q => q.th.halted || q.th.haltReq).getD false

/-- The gangs of an invocation that are not placed now: those with a saved team that a debugger holds (DEDUCED, log entry 41), and
those with a member still resident, since a gang is placed only as a whole (R96). -/
def heldGangs (s : State) (ik : Nat) (iv : Invoc) : List Nat :=
  ((s.teams.map (·.2)).filter fun t => decide (t.inv = ik) && (!t.saved || teamHalted t)).map fun t => t.tidx / iv.gang

/-- What a saved team needs: its groups that have not retired. -/
def savedNeed (iv : Invoc) (t : Team) : Need :=
  { groups := (t.groups.filter fun (g : Group) => decide (g.th.run ≠ .retired)).length, width := iv.kernel.width, seq := t.seq.isSome, spad := iv.spad }

/-- What a waiting team needs. -/
def waitNeed (s : State) (ik : Nat) (iv : Invoc) (tidx : Nat) : Need :=
  match getTeam s (teamKey ik tidx) with
  | some t => savedNeed iv t
  | none => freshNeed iv

/-- The members of a gang, of a list of team indices. -/
def gangOf (iv : Invoc) (tidx : Nat) (l : List Nat) : List Nat := l.filter fun t => decide (t / iv.gang = tidx / iv.gang)

/-- Splits a rising list of team indices into gangs. -/
def splitGangs (iv : Invoc) : Nat → List Nat → List (List Nat)
  | 0, _ => []
  | _, [] => []
  | n + 1, t :: r => (t :: gangOf iv t r) :: splitGangs iv n (r.filter fun x => decide (x / iv.gang ≠ t / iv.gang))

/-- Whether a team of an invocation waits to be placed. -/
def someWaits (s : State) (ik : Nat) (iv : Invoc) : Bool := savedTeams s ik ≠ [] || iv.again ≠ [] || decide (iv.nextTeam < iv.teams)

/-- The gangs of the next placement unit: one gang, those pre-empted first, then in ascending team index; or the whole grid of a
co-resident kernel. None when the grid is too large to place at once. Gangs that are held are passed over (R96) (DEDUCED, log entry
27; DEDUCED, log entry 41). -/
def nextUnit (s : State) (ik : Nat) (iv : Invoc) : Option (List (List Nat)) :=
  let held := heldGangs s ik iv
  let free := fun t => !held.contains (t / iv.gang)
  let saved := ((savedTeams s ik).map (·.tidx)).filter free
  if kflag iv.kernel 1 then
    if iv.teams > maxTeams ∨ held ≠ [] then none
    else some (splitGangs iv (maxTeams + 1) (saved ++ iv.again ++ upFrom iv.nextTeam (iv.teams - iv.nextTeam)))
  else match saved, iv.again.filter free with
  | t :: _, _ => some [gangOf iv t saved]
  | [], t :: _ => some [gangOf iv t iv.again]
  | [], [] => if iv.nextTeam < iv.teams then some [upFrom iv.nextTeam iv.gang] else none

/-- Whether a saved team may leave its class (R97, R125), accumulators aside. -/
def mayCross (iv : Invoc) (t : Team) : Bool := kflag iv.kernel 0 && (t.seq.isNone || t.beforeTset)

/-- Whether the OPEN accumulators of a saved team fit a target of another class (R125). -/
def accsFit (t : Team) (x : Target) : Bool :=
  match t.seq with
  | some q => !(q.accs.any fun a => decide (a.st = .opened)) || (decide (q.gm ≤ x.gmaxm) && decide (q.gn ≤ x.gmaxn))
  | none => true

/-- The classes a gang may be placed in, in the order of preference (R94, R97, R125). -/
def gangClasses (s : State) (ik : Nat) (iv : Invoc) (members : List Nat) : List Nat :=
  let saved := (savedTeams s ik).filter fun t => members.contains t.tidx
  match saved.find? fun t => !mayCross iv t with
  | some t => [clusterClass t.target.cluster]
  | none => effectiveClasses s (invPart ik) iv

/-- Accumulator elements that the OPEN accumulators of a team occupy (R153). -/
def openElems (t : Team) : Nat :=
  match t.seq with
  | some q => (q.accs.filter fun a => decide (a.st = .opened)).length * (q.gm * q.gn)
  | none => 0

/-- Whether a member may go to a target: of the class it left, or its accumulators within the maxima (R125), and in either case
within the capacity (R153). -/
def memberOk (s : State) (ik tidx : Nat) (x : Target) : Bool :=
  match getTeam s (teamKey ik tidx) with
  | some t => (decide (clusterClass t.target.cluster = clusterClass x.cluster) || accsFit t x) && decide (openElems t ≤ capacityOf x)
  | none => true

/-- Targets for every member of a unit, in the state `room`, which says what is held (DEDUCED, log entry 27). -/
def planUnit (s room : State) (ik : Nat) (iv : Invoc) (unit : List (List Nat)) : Option (List (Nat × Target × List (List Nat))) :=
  placeGangs ik iv (clusterOpen s) (gangClasses s ik iv) (memberOk s ik) (clusterOrder s (invPart ik))
    (unit.map fun g => g.map fun t => (t, waitNeed s ik iv t)) room

/-! ### Starting and restoring a team (R98, R108, R120) -/

/-- A tile record (R99, R101): EXPERT, ROWSTART and ROWCNT of a team; none for a record of no team; or why it is refused, as the
CODE of its TILE record. -/
def tileRecord (s : State) (cn : Nat) (iv : Invoc) (i : Nat) : State × (Option (Nat × Nat × Nat) ⊕ Nat) :=
  match deviceRead s cn (iv.tbase.toNat + 64 + 16 * i) 16 with
  | (s1, none) => (s1, .inr 0)
  | (s1, some bs) =>
    let x := bytesNat bs
    let n := field x 8 4
    if n = 0 then (s1, .inl none)
    else if n > 32 ∨ field x 12 4 ≠ 0 then (s1, .inr 1)
    else (s1, .inl (some (field x 0 4, field x 4 4, n)))

/-- Registers from a list of numbers and values. -/
def regsOf (l : List (Nat × Word)) : Tbl Word := l.foldl (fun t e => tputD t e.1 e.2 0) []

/-- s1 to s3 of a group at placement (R98, R235, R378). -/
def startRegs (c : Ctx) (iv : Invoc) (tidx : Nat) : Tbl Word :=
  match iv.kind with
  | .launch => regsOf [(1, iv.argp), (2, iv.arg0), (3, if iv.tile then iv.tbase + 64 + BitVec.ofNat 64 (16 * tidx) else 0)]
  | .message m arg => regsOf [(1, arg), (2, BitVec.ofNat 64 (headWord m)), (3, BitVec.ofNat 64 (8 * m.len))]
  | .handler _ _ slot cause value _ => regsOf [(1, c.tfbase + BitVec.ofNat 64 (slot * frameSize)), (2, cause.setWidth 64), (3, value)]

/-- The scratchpad a team starts with: a message's payload, else zero (R108, R235). -/
def startSpad (iv : Invoc) : Tbl Byte :=
  match iv.kind with
  | .message m _ => (List.range m.payload.length).zip m.payload |>.foldl (fun t e => tputD t e.1 e.2 0) []
  | _ => []

/-- A team placed for the first time, or replayed (R98, R108). -/
def startTeam (c : Ctx) (ik : Nat) (iv : Invoc) (tidx : Nat) (x : Target) (parts : List (List Nat)) (row : Nat × Nat × Nat) : Team :=
  let kn := iv.kernel
  let g (p : List Nat) : Group :=
    let g0 := freshGroup kn (iv.code + BitVec.ofNat 64 kn.entry)
    { g0 with parts := p, th := { g0.th with x := startRegs c iv tidx } }
  let q := freshSeq (iv.code + BitVec.ofNat 64 kn.mentry)
  let ks := regsOf [(1, iv.argp), (2, iv.arg0), (3, BitVec.ofNat 64 row.1), (4, BitVec.ofNat 64 row.2.1), (5, BitVec.ofNat 64 row.2.2)]
  { freshTeam ik tidx (effPrio iv) x (parts.map g) (if kn.mentry = 0 then none else some { q with th := { q.th with x := ks } }) with spad := startSpad iv }

/-- Gives the groups that have not retired their partitions (DESIGN CHOICE, log entry 21). -/
def giveParts : List Group → List (List Nat) → List Group
  | [], _ => []
  | g :: r, ps =>
    if g.th.run = .retired then g :: giveParts r ps
    else { g with parts := ps.head?.getD [], th := { g.th with run := if g.th.run = .running then .ready else g.th.run } } :: giveParts r (ps.drop 1)

/-- A block restored: not yet at its next pre-emption point. -/
def unpoint (g : Group) : Group := { g with block := g.block.map fun b => { b with atPoint := false, forced := false } }

/-- A thread restored: its first packet of the trace follows a SYNC (R404). -/
def unsync (th : Thread) : Thread := { th with lastTs := none }

/-- A saved team restored on a target (R383): every field as it was, RUNNING restored as READY. -/
def restoreTeam (t : Team) (x : Target) (parts : List (List Nat)) (prio : Nat) : Team :=
  { t with
    saved := false, target := x, prio := prio, preempt := false, beforeTset := false
    groups := (giveParts t.groups parts).map fun g => { unpoint g with th := unsync g.th }
    seq := t.seq.map fun q => { q with th := unsync q.th } }

/-- Writes the checksum packet of a bell wait that completed while the team was saved (R404, R407). -/
def payOwed (k : Nat) (s : State) (a : Nat) : State :=
  match (getThread s k a).bind fun (th : Thread) => th.owed with
  | some (b, ph) => modThread (traceCrc s k a b ph) k a fun th => { th with owed := none }
  | none => s

/-- A thread whose wait, or the one set aside, is issued anew. -/
def reissue (th : Thread) (r : Run) : Thread := if th.run = .parkedFault then { th with aside := some r } else { th with run := r }

/-- A group restored into a waiting state is tested at once (R120); a WQUIET counts as newly issued (R242). -/
def testRestored (k : Nat) (s0 : State) (i : Nat) : State :=
  let s := payOwed k s0 i
  match (getThread s k i).map waitOf with
  | some (.waitMem _) => evaluateWatch s k i
  | some (.waitToken m) => if ((getThread s k i).map fun th => decide (th.pend &&& m = 0)).getD false then completeWait s k i else s
  | some (.waitQuiet job _) => startWave (modThread s k i fun th => reissue th (.waitQuiet job s.waveNo)) job
  | _ => s

/-- Places one team of a plan. Under TILE a record that creates no team places none (R101). -/
def placeOne (ik : Nat) (s : State) (p : Nat × Target × List (List Nat)) : State :=
  match getInv s ik with
  | none => s
  | some iv =>
    let tidx := p.1
    let k := teamKey ik tidx
    let taken := fun (iv : Invoc) => { iv with nextTeam := Nat.max iv.nextTeam (tidx + 1), again := iv.again.erase tidx }
    match getTeam s k, getCtx s iv.ctx with
    | some t, _ => (upFrom 0 17).foldl (testRestored k) { s with teams := tput s.teams k (restoreTeam t p.2.1 p.2.2 (effPrio iv)) }
    | none, some c =>
      let put (s : State) (row : Nat × Nat × Nat) : State :=
        modInv { s with teams := tput s.teams k (startTeam c ik iv tidx p.2.1 p.2.2 row) } ik taken
      if iv.tile then
        match tileRecord s iv.ctx iv tidx with
        | (s1, .inl (some row)) => put s1 row
        | (s1, .inl none) => modInv s1 ik taken
        | (s1, .inr code) =>
          errorRecord (modInv s1 ik fun iv => { taken iv with badTile := true }) iv.ctx 0x03 code (invNum ik) tidx (iv.tbase.toNat + 64 + 16 * tidx) 0
      else put s (0, 0, 0)
    | none, none => s

/-- Moves a PLACING invocation on once no team of it waits: RUNNING, or DRAINING when it has no team at all (R93). -/
def afterPlacing (s : State) (ik : Nat) : State :=
  match getInv s ik with
  | some iv =>
    if (iv.st ≠ .placing ∧ iv.st ≠ .running) ∨ someWaits s ik iv then s
    else modInv s ik fun iv => { iv with st := if teamsOf s ik = [] then .draining else .running }
  | none => s

/-- Asks the gated clusters of a plan to be ungated (R26). -/
def ungate (s : State) (l : List (Nat × Target × List (List Nat))) : State :=
  { s with clusters := tmap s.clusters fun c x => if x.gated ∧ l.any (fun p => p.2.1.cluster = c) then { x with ungating := true } else x }

/-- Whether an invocation is in PLACING and the Timetable may place its teams. -/
def mayPlace (s : State) (iv : Invoc) : Bool := decide (iv.st = .placing) && ctxPlaces s iv.ctx && !suspending s iv.ctx && !s.hub.rebuilding

/-- Whether another PLACING invocation of the partition comes first (R84): of a higher effective priority, or consumed earlier, and
with room for its next unit (DEDUCED, log entry 81). -/
def placesFirst (s : State) (ik : Nat) (iv : Invoc) : Bool :=
  s.invs.any fun e =>
    decide (invPart e.1 = invPart ik) && decide (e.1 ≠ ik) && mayPlace s e.2 && decide ((better (ik, iv) e).1 = e.1) &&
      (((nextUnit s e.1 e.2).bind (planUnit s s e.1 e.2)).map fun l => decide (l ≠ [])).getD false

/-- TEAM_PLACE (R84, R95, R96): the next unit of a PLACING invocation is placed, if there is room for it and no other comes first;
where that room lies in a gated cluster, the cluster is ungated first (R28). -/
def execTeamPlace (inv : Nat) (s : State) : Host.Outcome State Fault Refusal :=
  .next (match getInv s inv with
    | some iv =>
      if !mayPlace s iv ∨ placesFirst s inv iv then s
      else match nextUnit s inv iv with
      | none => afterPlacing s inv
      | some unit =>
        match planUnit s s inv iv unit with
        | none => s
        | some l => if l.any fun p => clusterGated s p.2.1.cluster then ungate s l else afterPlacing (l.foldl (placeOne inv) s) inv
    | none => s)

/-! ### Pre-emption (R85, R123) -/

/-- The teams pre-empted with a team: its gang, or its whole co-resident grid (R96) (DEDUCED, log entry 46). -/
def preemptSet (s : State) (t : Team) : List Nat :=
  match getInv s t.inv with
  | some iv => if kflag iv.kernel 1 then teamsOf s t.inv else (teamsOf s t.inv).filter fun k => decide ((k % 2 ^ 48) / iv.gang = t.tidx / iv.gang)
  | none => []

/-- Requests the pre-emption of resident teams. -/
def requestPreempt (s : State) (ks : List Nat) : State :=
  { s with teams := tmap s.teams fun k t => if ks.contains k ∧ !t.saved then { t with preempt := true } else t }

/-- The state as it will be once teams under pre-emption, and those of a list, are saved. -/
def withoutTeams (s : State) (ks : List Nat) : State :=
  { s with teams := tmap s.teams fun k t => if t.preempt ∨ ks.contains k then { t with saved := true } else t }

/-- Position of a target in the order of R95 for an invocation. -/
def targetRank (order : List Nat) (x : Target) : Nat :=
  ((order.findIdx? fun c => decide (c = x.cluster)).getD 48) * 64 + x.core % 8 * 8 + x.share

/-- The teams that may be pre-empted for an invocation, in the order of R85. -/
def victims (s : State) (ik : Nat) (iv : Invoc) : List (Nat × Team) :=
  let order := clusterOrder s (invPart ik) (effectiveClasses s (invPart ik) iv)
  sortKey (fun e => e.2.prio * 4096 + targetRank order e.2.target)
    (s.teams.filter fun e => !e.2.saved && !e.2.preempt && decide (invPart e.2.inv = invPart ik) && decide (e.2.prio < effPrio iv))

/-- Adds victims until the unit fits: the gangs taken (DEDUCED, log entry 46). -/
def chooseVictims (fits : List Nat → Bool) (set : Nat × Team → List Nat) : List (Nat × Team) → List (List Nat) → Option (List (List Nat))
  | [], acc => if fits acc.flatten then some acc else none
  | e :: r, acc =>
    if fits acc.flatten then some acc
    else chooseVictims fits set r (if acc.flatten.contains e.1 then acc else acc ++ [set e])

/-- Leaves out the gangs the unit does not need (R85), the last chosen first: `l` are the gangs still in question, the last first,
and `kept` those behind them that are needed (DEDUCED, log entry 46). -/
def trimVictims (fits : List Nat → Bool) : List (List Nat) → List (List Nat) → List (List Nat)
  | [], kept => kept
  | g :: r, kept => if fits (r.reverse ++ kept).flatten then trimVictims fits r kept else trimVictims fits r (g :: kept)

/-- PREEMPTION_TIMEOUT (R85): 100 µs without placement. -/
def execPreemptionTimeout (inv : Nat) (s : State) : Host.Outcome State Fault Refusal :=
  .next (match getInv s inv with
    | some iv =>
      if (iv.st ≠ .placing ∧ iv.st ≠ .dispatchable) ∨ !ctxPlaces s iv.ctx ∨ suspending s iv.ctx ∨ s.hub.rebuilding then s
      else match nextUnit s inv iv with
      | none => s
      | some unit =>
        let fits := fun ks => (planUnit s (withoutTeams s ks) inv iv unit).isSome
        match chooseVictims fits (fun e => preemptSet s e.2) (victims s inv iv) [] with
        | some l => requestPreempt s (trimVictims fits l.reverse []).flatten
        | none => s
    | none => s)

/-- Whether a thread stands at a parked wait that a pre-emption saves: a trap whose frame waits to be written completes its
delivery first (R382). -/
def parkedWait (th : Thread) : Bool :=
  match th.run with
  | .ready | .running => false
  | .parkedFault => match th.park with | .trap _ => false | _ => true
  | _ => true

/-- Whether a thread's trap has a frame that waits to be written, before which no team is saved (R382). -/
def trapPending (th : Thread) : Bool := match th.park with | .trap _ => decide (th.run = .parkedFault) | _ => false

/-- Whether a group has stopped at its pre-emption points (R123); a halted one stands where it stopped (R400), and one whose MSEND
waits for its interface has not (R237). -/
def groupStopped (s : State) (cn : Nat) (g : Group) : Bool :=
  !trapPending g.th && g.txn.isNone &&
    (g.th.halted ||
      ((decide (g.th.run = .retired) || parkedWait g.th ||
          ((decide (g.th.run = .ready) || decide (g.th.run = .running)) && !g.th.stalled && !insideConvoy s cn g.th)) &&
        (g.block.map fun b => b.atPoint || b.forced || decide (g.th.run = .parkedFault)).getD true))

/-- Whether a sequencer has stopped at its pre-emption point; a halted one stands where it stopped (R400). -/
def seqStopped (s : State) (cn : Nat) (q : Seq) : Bool :=
  !trapPending q.th && (q.th.halted || decide (q.th.run = .retired) || parkedWait q.th || beforeTset s cn q.th)

/-- TEAM_SAVE (R123, R124, R383): every stream has stopped and every engine operation has completed. A team that is done retires (R119). It waits while the scheduler of
the cluster or the Timetable's root is being rebuilt (R390). -/
def execTeamSave (team : Nat) (s : State) : Host.Outcome State Fault Refusal :=
  .next (match getTeam s team with
    | some t =>
      let cn := ctxNum s team
      if t.saved ∨ teamDone t ∨ !t.preempt ∨ clusterStopped s t ∨ s.hub.rebuilding ∨ t.ops ≠ [] ∨ !(t.groups.all (groupStopped s cn)) ∨ !(t.seq.map (seqStopped s cn)).getD true then s
      else
        let bt := (t.seq.map fun q => decide (q.th.run = .running) && beforeTset s cn q.th).getD false
        modInv (modTeam s team fun t => { t with saved := true, preempt := false, beforeTset := bt }) t.inv fun iv =>
          if iv.st = .running ∨ iv.st = .placing then { iv with st := .placing, prio := t.prio, aged := 0 } else iv
    | none => s)

/-- BLOCK_PREEMPT_TIMEOUT (R123): 4,096 clocks after the request. -/
def execBlockPreemptTimeout (team group : Nat) (s : State) : Host.Outcome State Fault Refusal :=
  .next (match getTeam s team, getGroup s team group with
    | some t, some g => if t.preempt ∧ !t.saved ∧ !clusterStopped s t then putGroup s team group { g with block := g.block.map fun b => { b with forced := true } } else s
    | _, _ => s)

/-- TRANSACTION_PREEMPT_TIMEOUT (R123, R189): after 2,048 clocks the transaction aborts with cause PREEMPT. -/
def execTransactionPreemptTimeout (team group : Nat) (s : State) : Host.Outcome State Fault Refusal :=
  .next (match getTeam s team, getGroup s team group with
    | some t, some g => if t.preempt ∧ !t.saved ∧ !clusterStopped s t then putGroup s team group (abortTxn g 4 0) else s
    | _, _ => s)

/-- TEAM_RETIRE (R119): every group has retired and every engine operation has completed. The sequencer is abandoned (DEDUCED, log
entry 38). It waits while the Timetable's root is being rebuilt (R390). -/
def execTeamRetire (team : Nat) (s : State) : Host.Outcome State Fault Refusal :=
  .next (match getTeam s team with
    | some t =>
      if t.saved ∨ !teamDone t ∨ s.hub.rebuilding then s
      else afterPlacing { (dropTeamFaults s (ctxNum s team) team) with teams := tdel s.teams team } t.inv
    | none => s)

end Sys2Proof.Machine
end

