-- ==== Sys2Proof/Machine/Caretaker.lean ====
section
/-! DEFINITION. The Caretaker (R211 to R222): ENABLE, DISABLE and EVACUATE, and the steps of an evacuation: drain, copy, sweep. -/
namespace Sys2Proof.Machine

/-! ### HCTL (R211, R212) -/

/-- Sets the CODE of HSTAT; a command is over as soon as it has run, so BUSY reads 0. -/
def setHstat (s : State) (cn code : Nat) : State := modHeap s cn fun h => { h with hstat := BitVec.ofNat 64 code }

/-- Runs an HCTL command on the context it names. One that another function owns has no effect (DEDUCED, log entry 33); one that a command
still names holds it back (R60) (DEDUCED, log entry 34); with BUSY set the write is ignored. For a context in FREE, which has no HSTAT, the
CODE stands in the function's page (DESIGN CHOICE, log entry 93). -/
def runHctl (i : Command) (fn cn code : Nat) (s : State) (f : Ctx → State) : Host.Outcome State Fault Refusal :=
  .next (match getCtx s cn with
    | some c =>
      if c.owner ≠ fn ∨ c.heap.hstat.getLsbD 8 then s
      else if ctxBusy s cn then holdBack s fn cn i
      else f c
    | none => modPage s fn fun p => { p with hfree := code })

/-- Whether a leaf is one of a heap page: R, W and MH. -/
def heapLeaf (e : BitVec 64) : Bool := e.getLsbD 1 && e.getLsbD 2 && e.getLsbD 6

/-- Whether a leaf is one of a root page: R, W and not MH. -/
def rootLeaf (e : BitVec 64) : Bool := e.getLsbD 1 && e.getLsbD 2 && !e.getLsbD 6

/-- Whether none of `n` pages from a VA is mapped. -/
def unmapped (m : Memory) (root : Nat) : Nat → Nat → Bool
  | _, 0 => true
  | va, n + 1 => (decide (2 ^ 57 ≤ va) || match walk m root va with | .bad 0 _ => true | _ => false) && unmapped m root (va + 4096) n

/-- Whether two ranges (start, length) meet. -/
def rangesMeet (a n b m : Nat) : Bool := decide (0 < n) && decide (0 < m) && decide (a < b + m) && decide (b < a + n)

/-- Whether the heap registers describe a heap ENABLE accepts (R212) (DEDUCED, log entry 33). -/
def heapConfigOk (s : State) (c : Ctx) : Bool :=
  let h := c.heap
  let len := h.heapn.toNat * 2 ^ 21
  let rlen := h.hrootn.toNat * 4096
  !(decide (h.heapn = 0) && decide (h.heapva ≠ 0)) && !(decide (h.hrootn = 0) && decide (h.hroot ≠ 0)) && decide (h.heapn.toNat ≤ 65536) &&
    !rangesMeet h.heapva.toNat len h.hroot.toNat rlen && !rangesMeet h.heapva.toNat len h.hapva.toNat (2 ^ 25) &&
    rangeOk (tables s) c.root heapLeaf h.heapva.toNat len && rangeOk (tables s) c.root rootLeaf h.hroot.toNat rlen &&
    unmapped (tables s) c.root h.hapva.toNat 8192

/-- A heap just enabled: every region FREE with GEN 0 and TOP 0, every reference bit clear. -/
def enabledHeap (h : Heap) : Heap := { h with enabled := true, regions := [], alloc := none, refBits := [], hstat := 0 }

/-- HEAP_ENABLE (R212). -/
def execHeapEnable (fn ctx : Nat) (s : State) : Host.Outcome State Fault Refusal :=
  runHctl .heapEnable fn ctx 1 s fun c =>
    if !hasFeature c 3 ∨ c.st = .creating ∨ ctxGone c ∨ c.heap.enabled then setHstat s ctx 1
    else if !heapConfigOk s c then setHstat s ctx 2
    else modHeap s ctx enabledHeap

/-- Whether a region is EVACUATING or RELOCATED. -/
def moving (r : Region) : Bool := decide (r.st = .evacuating) || decide (r.st = .relocated)

/-- How many regions of a heap are EVACUATING or RELOCATED. -/
def movingCount (h : Heap) : Nat := (h.regions.filter fun e => moving e.2).length

/-- A region made FREE (R213): GEN is kept. -/
def freedRegion (r : Region) : Region := { r with st := .free, top := 0, large := false, fwd := [], drained := false, leaves := [] }

/-- A heap disabled: every region FREE. -/
def disabledHeap (h : Heap) : Heap :=
  { h with enabled := false, regions := tmap h.regions fun _ r => freedRegion r, alloc := none, refBits := [], hstat := 0 }

/-- Whether a context has a team, resident or saved. -/
def ctxHasTeam (s : State) (cn : Nat) : Bool := s.teams.any fun e => ((getInv s e.2.inv).map fun iv => decide (iv.ctx = cn)).getD false

/-- HEAP_DISABLE (R212). DISABLE of a heap that is not enabled finds nothing to do. -/
def execHeapDisable (fn ctx : Nat) (s : State) : Host.Outcome State Fault Refusal :=
  runHctl .heapDisable fn ctx 0 s fun c =>
    if ctxHasTeam s ctx ∨ movingCount c.heap ≠ 0 then setHstat s ctx 1 else modHeap s ctx disabledHeap

/-- HCTL_INVALID (R211): an OP other than 1 to 3. -/
def execHctlInvalid (fn ctx : Nat) (op : BitVec 3) (s : State) : Host.Outcome State Fault Refusal :=
  runHctl (.hctlInvalid op) fn ctx 2 s fun _ => setHstat s ctx 2

/-! ### The plan of an evacuation (R219) -/

/-- Bytes at a VA as the plan reads them: no bit is set and nothing is cached (R212) (DEDUCED, log entry 32). -/
def planRead (s : State) (root va n : Nat) : Option Nat :=
  (peek (tables s) root va).bind fun p => if p.2.getLsbD 1 ∧ !poisonIn s p.1 n then some (readNat s.mem p.1 n) else none

/-- The objects below TOP: offset and length of each. -/
def planObjects (s : State) (root base top : Nat) : Nat → Nat → Option (List (Nat × Nat))
  | 0, _ => some []
  | fuel + 1, off =>
    if top ≤ off then some []
    else (planRead s root (base + off) 4).bind fun size =>
      (planObjects s root base top fuel (off + objectLen size)).map fun r => (off, objectLen size) :: r

/-- Whether the object at an offset is live by the HLIVE bitmap. -/
def planLive (s : State) (root hlive off : Nat) : Option Bool :=
  if hlive = 0 then some true else (planRead s root (hlive + off / 128) 1).map fun b => bit b (off / 16 % 8)

/-- The objects with their liveness: (offset, length, live). -/
def markLive (s : State) (root hlive : Nat) : List (Nat × Nat) → Option (List (Nat × Nat × Bool))
  | [] => some []
  | o :: r => (planLive s root hlive o.1).bind fun l => (markLive s root hlive r).map fun t => (o.1, o.2, l) :: t

/-- Bytes the live objects take. -/
def liveBytes (l : List (Nat × Nat × Bool)) : Nat := l.foldl (fun a o => if o.2.2 then a + o.2.1 else a) 0

/-- Forwarding entries: live objects packed from an address on, in ascending order. -/
def forwards (gen : Nat) : Nat → List (Nat × Nat × Bool) → Tbl Fwd
  | _, [] => []
  | na, o :: r =>
    if o.2.2 then (o.1, { st := .notCopied, newAddr := na, newGen := gen, priority := 0 }) :: forwards gen (na + o.2.1) r
    else (o.1, { st := .dropped, newAddr := 0, newGen := 0, priority := 0 }) :: forwards gen na r

/-- The leaves of the `n` pages from a VA as the plan records them, each with the address of its entry. -/
def recordLeaves (m : Memory) (root : Nat) : Nat → Nat → Tbl (Nat × Nat)
  | _, 0 => []
  | va, n + 1 => (match walk m root va with | .leaf _ _ pa e => [(va / 4096, leafKey e, pa)] | .bad .. => []) ++ recordLeaves m root (va + 4096) n

/-- Pages of a region. -/
def regionPages : Nat := 512

/-- Whether the pages of a region are mapped R, W and MH. -/
def regionMapped (s : State) (c : Ctx) (g : Nat) : Bool := pagesOk (tables s) c.root heapLeaf (regionBase c.heap g) regionPages

/-- What a plan comes to: why it is refused, or the objects and the to-space region if one is needed (DEDUCED, log entry 31; DEDUCED, log entry 32). -/
def planOf (s : State) (c : Ctx) (g dest : Nat) : (List (Nat × Nat × Bool) × Option Nat) ⊕ Nat :=
  let h := c.heap
  if !regionMapped s c g then .inr 2
  else match (planObjects s c.root (regionBase h g) (getRegion h g).top 131072 0).bind (markLive s c.root h.hlive.toNat) with
  | none => .inr 2
  | some objs =>
    if liveBytes objs = 0 then .inl (objs, none)
    else match firstFree h dest (h.heapn.toNat - dest) with
    | none => .inr 3
    | some t => if regionMapped s c t then .inl (objs, some t) else .inr 2

/-- The heap after plan and bump (R213, R219) (DEDUCED, log entry 32). -/
def evacuateHeap (m : Memory) (root : Nat) (h : Heap) (g : Nat) (objs : List (Nat × Nat × Bool)) (t : Option Nat) : Heap :=
  let src := getRegion h g
  let own := recordLeaves m root (regionBase h g) regionPages
  let bumped (gen na : Nat) (extra : Tbl (Nat × Nat)) : Region :=
    { src with st := .evacuating, gen := (src.gen + 1) % 16, fwd := forwards gen na objs, drained := false,
               leaves := extra.foldl (fun l e => tput l e.1 e.2) own }
  match t with
  | none => putRegion h g (bumped 0 0 [])
  | some t =>
    let dst := getRegion h t
    let n := liveBytes objs
    putRegion (putRegion h t { dst with st := if n = 2 ^ 21 then .live else .allocating, top := n }) g
      (bumped dst.gen (regionBase h t) (recordLeaves m root (regionBase h t) regionPages))

/-- The bump aborts every transaction of the context that has touched the region, with cause HEAP (R189, R219). -/
def abortTouching (s : State) (cn g : Nat) : State :=
  { s with teams := tmap s.teams fun _ t =>
      if ((getInv s t.inv).map fun iv => decide (iv.ctx = cn)).getD false then
        { t with groups := t.groups.map fun (x : Group) => if ((x.txn.map fun y => y.regions.contains g).getD false) then abortTxn x 3 0 else x }
      else t }

/-- Whether EVACUATE finds a state in which it cannot run (R212). -/
def evacuateBad (c : Ctx) (g : Nat) : Bool :=
  !c.heap.enabled || decide (c.heap.heapn.toNat ≤ g) || decide ((getRegion c.heap g).st ≠ .live) || (getRegion c.heap g).large ||
    decide (4 ≤ movingCount c.heap)

/-- The pages whose leaves a plan walks: those of the region, of the to-space and of the HLIVE bitmap. -/
def planPages (c : Ctx) (g dest : Nat) : List Nat :=
  let h := c.heap
  let run := fun (va n : Nat) => (upFrom 0 n).map fun i => va + 4096 * i
  run (regionBase h g) regionPages ++ (((firstFree h dest (h.heapn.toNat - dest)).map fun t => run (regionBase h t) regionPages).getD []) ++
    (if h.hlive = 0 then [] else run (h.hlive.toNat / 4096 * 4096) 5)

/-- EVACUATE (R212, R219): the plan and the bump (DEDUCED, log entry 31). A changed leaf of another moving region that the plan's
walks read raises the machine error (R222). -/
def execEvacuate (fn ctx : Nat) (dest region : BitVec 16) (any : Bool) (s : State) : Host.Outcome State Fault Refusal :=
  runHctl (.evacuate dest region any) fn ctx 1 s fun c =>
    let g := region.toNat
    if evacuateBad c g then setHstat s ctx 1
    else if (planPages c g (if any then 0 else dest.toNat)).any (tampered s c) then breakCtx s ctx
    else match planOf s c g (if any then 0 else dest.toNat) with
    | .inr code => setHstat s ctx code
    | .inl (objs, t) =>
      abortTouching (setHstat (modHeap (arbTick s) ctx fun h => evacuateHeap (tables s) c.root h g objs t) ctx 0) ctx g

/-! ### Drain, copy and sweep (R219, R220) -/

/-- A region becomes RELOCATED when nothing remains to copy. -/
def settleRegion (r : Region) : Region :=
  if r.st = .evacuating ∧ r.drained ∧ r.fwd.all fun e => decide (e.2.st ≠ .notCopied) && decide (e.2.st ≠ .copying) then { r with st := .relocated } else r

/-- EVACUATE_DRAIN_COMPLETE (R219). -/
def execEvacuateDrainComplete (ctx region : Nat) (s : State) : Host.Outcome State Fault Refusal :=
  .next (modHeap s ctx fun h =>
    if (getRegion h region).st = .evacuating then putRegion h region (settleRegion { getRegion h region with drained := true }) else h)

/-- Whether an entry waits to be copied with PIN 0: an object whose PIN is poisoned is not copied (DESIGN CHOICE, log entry 96). -/
def copyable (s : State) (c : Ctx) (g : Nat) (e : Nat × Fwd) : Bool :=
  decide (e.2.st = .notCopied) && decide (pinOf s c.root (regionBase c.heap g + e.1) = some 0)

/-- Whether an entry is copied before another: requested ones in the order of their requests, then ascending addresses. -/
def copiedBefore (a b : Nat × Fwd) : Bool :=
  if a.2.priority ≠ 0 then decide (b.2.priority = 0) || decide (a.2.priority < b.2.priority)
  else decide (b.2.priority = 0) && decide (a.1 < b.1)

/-- Sets the state of an entry. -/
def setFwd (h : Heap) (g off : Nat) (st : FwdSt) : Heap :=
  putRegion h g { getRegion h g with fwd := tmod (getRegion h g).fwd off fun f => { f with st := st } }

/-- Whether the Caretaker, looking for an object to copy, walks to the PIN of one through a changed leaf (R222). -/
def pinTampered (s : State) (c : Ctx) (g : Nat) : Bool :=
  (getRegion c.heap g).fwd.any fun e => decide (e.2.st = .notCopied) && tampered s c (regionBase c.heap g + e.1)

/-- OBJECT_COPY_START (R219): the Caretaker selects the first of the objects it may copy. -/
def execObjectCopyStart (ctx region off : Nat) (s : State) : Host.Outcome State Fault Refusal :=
  .next (match getCtx s ctx with
    | some c =>
      let r := getRegion c.heap region
      (match tget r.fwd off with
        | some f =>
          if r.st = .evacuating ∧ r.drained ∧ pinTampered s c region then breakCtx s ctx
          else if r.st = .evacuating ∧ r.drained ∧ copyable s c region (off, f) ∧ !(r.fwd.any fun e => copyable s c region e && copiedBefore e (off, f)) then
            modHeap s ctx fun h => setFwd h region off .copying
          else s
        | none => s)
    | none => s)

/-- The pieces of `len` bytes from a VA for an access of the Caretaker, one in each page; none when a walk fails. -/
def caretakerSpan (cn : Nat) (u : Use) : Nat → State → Nat → Nat → State × Option (List (Nat × Nat))
  | 0, s, _, _ => (s, some [])
  | fuel + 1, s, va, len =>
    if len = 0 then (s, some [])
    else
      let n := Nat.min len (4096 - va % 4096)
      match ctxTranslate s hubCore cn va u with
      | (s1, some (.ok pa _ _)) =>
        (match caretakerSpan cn u fuel s1 (va + n) (len - n) with
          | (s2, some r) => (s2, some ((pa, n) :: r))
          | (s2, none) => (s2, none))
      | (s1, _) => (s1, none)

/-- The bytes of pieces of memory, in order. -/
def pieceBytes (m : Memory) (ps : List (Nat × Nat)) : List Byte := ps.flatMap fun p => readBytes m p.1 p.2

/-- Writes bytes to pieces of memory, in order. -/
def putPieces : State → List (Nat × Nat) → List Byte → State
  | s, [], _ => s
  | s, p :: r, bs => putPieces (putBytes s p.1 (bs.take p.2)) r (bs.drop p.2)

/-- The lines of the destination that receive a byte of a poisoned line: the copy carries poison (DEDUCED, log entry 36). -/
def carriedPoison (s : State) (src dst : List (Nat × Nat)) : List Nat :=
  if s.poison = [] then []
  else ((((src.flatMap fun p => upFrom p.1 p.2).zip (dst.flatMap fun p => upFrom p.1 p.2)).filter fun e => s.poison.contains (e.1 / 64)).map fun e => e.2 / 64).eraseDups

/-- Copies reference bits with an object. -/
def copyRefs (h : Heap) (src dst len : Nat) : Heap :=
  let inside (a : Nat) (e : Nat × Bool) : Bool := decide (a / 8 ≤ e.1) && decide (e.1 < (a + len) / 8)
  let add (t : Tbl Bool) (e : Nat × Bool) : Tbl Bool := tput t (e.1 - src / 8 + dst / 8) e.2
  { h with refBits := (h.refBits.filter (inside src)).foldl add (h.refBits.filter fun e => !inside dst e) }

/-- Sets D in the leaves of the pages that `len` bytes from a VA meet, before the Caretaker writes them (R195). -/
def dirtySpan (cn : Nat) : Nat → State → Nat → Nat → State
  | 0, s, _, _ => s
  | fuel + 1, s, va, len =>
    if len = 0 then s
    else let n := Nat.min len (4096 - va % 4096); dirtySpan cn fuel (dirtyAt s hubCore cn va) (va + n) (len - n)

/-- Copies an object's bytes, poison and reference bits; none when a page is no longer as the plan found it (DEDUCED, log entry 36). -/
def copyObject (s : State) (cn src dst len : Nat) : State × Bool :=
  match caretakerSpan cn .read 514 s src len with
  | (s1, none) => (s1, false)
  | (s1, some a) =>
    match caretakerSpan cn .write 514 s1 dst len with
    | (s2, none) => (s2, false)
    | (s2, some b) =>
      let bad := carriedPoison s2 a b
      let s3 := putPieces (dirtySpan cn 514 s2 dst len) b (pieceBytes s2.mem a)
      (modHeap { s3 with poison := s3.poison ++ bad.filter fun l => !s3.poison.contains l } cn fun h => copyRefs h src dst len, true)

/-- OBJECT_COPY_COMPLETE (R219). -/
def execObjectCopyComplete (ctx region off : Nat) (s : State) : Host.Outcome State Fault Refusal :=
  .next (match getCtx s ctx with
    | some c =>
      (match tget (getRegion c.heap region).fwd off with
        | some f =>
          if f.st ≠ .copying then s
          else if tampered s c (regionBase c.heap region + off) then breakCtx s ctx
          else match planRead s c.root (regionBase c.heap region + off) 4 with
          | none => beginKill s ctx
          | some size =>
            match copyObject s ctx (regionBase c.heap region + off) f.newAddr (objectLen size) with
            | (s1, false) => beginKill s1 ctx
            | (s1, true) => modHeap s1 ctx fun h => let h1 := setFwd h region off .copied; putRegion h1 region (settleRegion (getRegion h1 region))
        | none => s)
    | none => s)

/-- What the sweep of a region makes of a value: the forwarded reference, null for a DROPPED object, nothing for any other value. -/
def sweepTo (h : Heap) (g : Nat) (x : Word) : Option Word :=
  let r := getRegion h g
  if isRef x ∧ refFormed x ∧ refGen x = (r.gen + 15) % 16 ∧ regionOf h (refAddr x) = some g then
    (tget r.fwd (refAddr x - regionBase h g)).map fun f => if f.st = .dropped then 0 else makeRef f.newGen f.newAddr
  else none

/-- A value after the sweep (DEDUCED, log entry 35). -/
def swept (h : Heap) (g : Nat) (x : Word) : Word := (sweepTo h g x).getD x

/-- Registers after the sweep (DEDUCED, log entry 35). -/
def sweepRegs (h : Heap) (g : Nat) (t : Tbl Word) : Tbl Word :=
  t.filterMap fun e => if swept h g e.2 = 0 then none else some (e.1, swept h g e.2)

/-- What windows hide of h registers, after the sweep (DEDUCED, log entry 35). -/
def sweepHidden (h : Heap) (g : Nat) (e : Hidden) : Hidden :=
  match e.reg with
  | .h _ => { e with old := (swept h g (BitVec.ofNat 64 e.old)).toNat, new := (swept h g (BitVec.ofNat 64 e.new)).toNat }
  | _ => e

def sweepWins (h : Heap) (g : Nat) (l : List Window) : List Window := l.map fun w => { w with hid := w.hid.map (sweepHidden h g) }

/-- A group's h registers and their snapshots after the sweep (DEDUCED, log entry 35). -/
def sweepSlots (h : Heap) (g : Nat) (x : Group) : Group :=
  { x with
    h := sweepRegs h g x.h
    th := { x.th with wins := sweepWins h g x.th.wins }
    txn := x.txn.map fun t => { t with h := sweepRegs h g t.h, wins := sweepWins h g t.wins } }

/-- Heals one managed word (R217, R220) (DEDUCED, log entry 35). -/
def sweepWord (g cn : Nat) (s : State) (w : Nat) : State :=
  match getCtx s cn with
  | some c =>
    (match caretakerWalk s cn (8 * w) with
      | (s1, some (pa, _)) =>
        let x := BitVec.ofNat 64 (readNat s1.mem pa 8)
        (match sweepTo c.heap g x with
          | some y => healWord s1 (hubAsker cn) (8 * w) x y
          | none => s1)
      | (s1, none) => s1)
  | none => s

/-- Whether a leaf of the region or its to-space differs from what the plan recorded (R222). -/
def leavesChanged (m : Memory) (root : Nat) (r : Region) : Bool :=
  r.leaves.any fun e => match peek m root (4096 * e.1) with
    | some p => decide (leafKey p.2 ≠ e.2.1)
    | none => true

/-- The region released once everything is healed (R213). -/
def releaseRegion (h : Heap) (g : Nat) : Heap :=
  let b := regionBase h g
  { putRegion h g (freedRegion (getRegion h g)) with
    refBits := h.refBits.filter fun e => !(decide (b / 8 ≤ e.1) && decide (e.1 < (b + 2 ^ 21) / 8)) }

/-- SWEEP_COMPLETE (R220, R222): the check of every leaf, then every managed slot healed, then the region FREE. -/
def execSweepComplete (ctx region : Nat) (s : State) : Host.Outcome State Fault Refusal :=
  .next (match getCtx s ctx with
    | some c =>
      let r := getRegion c.heap region
      if r.st ≠ .relocated then s
      else if leavesChanged (tables s) c.root r then beginKill s ctx
      else
        let s1 := (c.heap.refBits.map (·.1)).foldl (sweepWord region ctx) s
        let s2 := { s1 with teams := tmap s1.teams fun _ t =>
          if ((getInv s1 t.inv).map fun iv => decide (iv.ctx = ctx)).getD false then { t with groups := t.groups.map (sweepSlots c.heap region) } else t }
        modHeap s2 ctx fun h => releaseRegion h region
    | none => s)

end Sys2Proof.Machine
end

