-- ==== Sys2Proof/Machine/Queues.lean ====
section
/-! DEFINITION. Queues (R74 to R83): their operations, the queue instructions (R345, R346, R348), the QCTL commands (R77 to R79) and the consumption of launch and bind records (R84, R89). -/
namespace Sys2Proof.Machine

/-! ### Geometry (R75 to R77) -/

/-- A queue never written: DISABLED, with the reset values of QGEOM. -/
def Queue.reset : Queue := { base := 0, geom := 0x60001, st := .disabled, last := 0, idx := [], handles := [] }

def getQueue (c : Ctx) (q : Nat) : Queue := tgetD c.queues q Queue.reset

def modQueue (s : State) (cn q : Nat) (f : Queue → Queue) : State :=
  modCtx s cn fun c => { c with queues := tput c.queues q (f (getQueue c q)) }

def qKind (q : Queue) : Nat := bits q.geom.toNat 24 2
def qSsz (q : Queue) : Nat := bits q.geom.toNat 16 4
def qLogn (q : Queue) : Nat := bits q.geom.toNat 0 5
def qPrio (q : Queue) : Nat := bits q.geom.toNat 29 3

/-- HEAD and TAIL of a queue or of a sub-queue. -/
def qIdx (q : Queue) (clu : Nat) : BitVec 32 × BitVec 32 := tgetD q.idx clu (0, 0)

/-- Records a queue or sub-queue holds (R76). -/
def qCount (q : Queue) (clu : Nat) : Nat := ((qIdx q clu).2 - (qIdx q clu).1).toNat

/-- Whether a queue and every sub-queue is empty. -/
def qEmpty (q : Queue) : Bool := q.idx.all fun e => decide (e.2.1 = e.2.2)

/-- Base of a queue or of sub-queue `clu` (R75). -/
def qBase (q : Queue) (clu : Nat) : Nat := q.base.toNat + (if qKind q = 2 then clu * (2 ^ (qLogn q + 5) + 64) else 0)

/-- VA of the slot at an index. -/
def slotVa (q : Queue) (clu : Nat) (x : BitVec 32) : Nat := qBase q clu + x.toNat % 2 ^ qLogn q * 2 ^ qSsz q

/-- VA of the mirror cell. -/
def mirrorVa (q : Queue) (clu : Nat) : Nat := qBase q clu + 2 ^ (qLogn q + qSsz q)

/-- Bytes of the storage (R75). -/
def storageLen (q : Queue) : Nat := if qKind q = 2 then 48 * (2 ^ (qLogn q + 5) + 64) else 2 ^ (qLogn q + qSsz q) + 8

/-! ### Operations (R79) -/

/-- A fault on the storage (R79, R416, R417): the queue is CLOSED, with a QUEUE record that names the invocation of the group whose
operation met it, or 0xFFFF (DEDUCED, log entry 39; DEDUCED, log entry 40). -/
def storageFault (s : State) (cn inv q va : Nat) : State :=
  modQueue (errorRecord s cn 0x05 0 inv q va 0) cn q fun x => { x with st := .closed }

/-- Puts the indices of a queue and writes its mirror cell; none when a page of the storage is not mapped with W. -/
def putIdx (s : State) (cn q clu : Nat) (x : Queue) (hd tl : BitVec 32) : Option State :=
  (deviceWrite s cn (mirrorVa x clu) (natBytes (hd.toNat + tl.toNat * 2 ^ 32) 8)).map fun s1 =>
    modQueue s1 cn q fun x => { x with idx := tput x.idx clu (hd, tl) }

/-- Result of a queue operation: its status (R80), the index and the bytes of the record. -/
structure QRes where
  status : Nat
  index : Nat := 0
  clu : Nat := 0
  data : List Byte := []
deriving DecidableEq, Repr

/-- Pushes a record. -/
def queuePush (s : State) (cn inv q clu : Nat) (data : List Byte) : State × QRes :=
  match getCtx s cn with
  | none => (s, { status := 2 })
  | some c =>
    let x := getQueue c q
    if x.st = .full then (s, { status := 1 })
    else if x.st ≠ .opened then (s, { status := 2 })
    else if qCount x clu ≥ 2 ^ qLogn x then (s, { status := 1 })
    else
      let (hd, tl) := qIdx x clu
      match deviceWrite s cn (slotVa x clu tl) data with
      | none => (storageFault s cn inv q (slotVa x clu tl), { status := 2 })
      | some s1 =>
        match putIdx s1 cn q clu x hd (tl + 1) with
        | none => (storageFault s cn inv q (mirrorVa x clu), { status := 2 })
        | some s2 =>
          (modQueue s2 cn q fun y => { y with st := if qKind y ≠ 2 ∧ qCount y clu = 2 ^ qLogn y then .full else y.st },
            { status := 0, index := tl.toNat })

/-- State of a queue after a record was taken. -/
def afterTake (x : Queue) : QSt :=
  match x.st with
  | .full => .opened
  | .draining => if qEmpty x then .closed else .draining
  | st => st

/-- Takes the oldest record of a queue or sub-queue, or the newest (DEDUCED, log entry 39). -/
def queueTake (s : State) (cn inv q clu : Nat) (newest : Bool) : State × QRes :=
  match getCtx s cn with
  | none => (s, { status := 2 })
  | some c =>
    let x := getQueue c q
    if x.st = .disabled then (s, { status := 2 })
    else if qCount x clu = 0 then (s, { status := 3 })
    else
      let (hd, tl) := qIdx x clu
      let i := if newest then tl - 1 else hd
      match deviceRead s cn (slotVa x clu i) (2 ^ qSsz x) with
      | (s1, none) => (storageFault s1 cn inv q (slotVa x clu i), { status := 2 })
      | (s1, some bs) =>
        match if newest then putIdx s1 cn q clu x hd i else putIdx s1 cn q clu x (hd + 1) tl with
        | none => (storageFault s1 cn inv q (mirrorVa x clu), { status := 2 })
        | some s2 => (modQueue s2 cn q fun y => { y with st := afterTake y }, { status := 0, index := i.toNat, clu := clu, data := bs })

/-- The sub-queue QSTEAL takes from (R83): the first that holds a record, of the clusters that follow the caller's in the
partition. -/
def stealFrom (s : State) (part : Nat) (x : Queue) (c : Nat) : Option Nat :=
  ((upFrom (c + 1) 47).map (· % 48)).find? fun k => decide (((tget s.clusters k).bind (·.part)) = some part) && decide (qCount x k ≠ 0)

/-! ### Queue instructions (R345, R346) -/

/-- The result word of R346. -/
def qWord (r : QRes) (clu : Nat) : Word :=
  BitVec.ofNat 64 ((if r.status = 0 then r.index * 2 ^ 32 else 0) + clu * 2 ^ 8 + r.status)

/-- Reads the record at an address in 8-byte units, through the group's own path. -/
def readRecord : Nat → Cx → Word → List Byte → Cx × (List Byte ⊕ Fate)
  | 0, cx, _, acc => (cx, .inl acc)
  | n + 1, cx, va, acc =>
    match loadVa cx va 8 0 true with
    | .val cx1 v => readRecord n cx1 (va + 8) (acc ++ natBytes v 8)
    | .bad cx1 f => (cx1, .inr f)
    | .spec => (cx, .inr .stay)

/-- Checks that a record can be written at an address; nothing is stored yet, so no leaf gets D (R195). -/
def checkRecordSpace : Nat → Cx → Word → Cx × Option Fate
  | 0, cx, _ => (cx, none)
  | n + 1, cx, va =>
    match resolveCx cx va 8 .stage 0 with
    | (cx1, .at _) => checkRecordSpace n cx1 (va + 8)
    | (cx1, .bad b) => (cx1, some (badFate b 0))
    | (cx1, .lost) => (cx1, some .lost)

/-- Writes a record at an address in 8-byte units. -/
def writeRecord : List Byte → Nat → Cx → Word → Cx × Option Fate
  | _, 0, cx, _ => (cx, none)
  | bs, n + 1, cx, va =>
    match storeVa cx va 8 (bytesNat (bs.take 8)) 0 with
    | .val cx1 _ => writeRecord (bs.drop 8) n cx1 (va + 8)
    | .bad cx1 f => (cx1, some f)
    | .spec => (cx, some .stay)

/-- The number of the group's invocation. -/
def cxInv (cx : Cx) : Nat := ((getTeam cx.s cx.k).map fun t => invNum t.inv).getD 0xFFFF

/-- The cluster of the group's team. -/
def cxCluster (cx : Cx) : Nat := ((getTeam cx.s cx.k).map (·.target.cluster)).getD 0

/-- A queue form: `bad` is its BAD-KIND check by KIND. -/
def runQueue (i : Instr) (d a q : BitVec 6) (l : BitVec 4) (bad : Nat → Bool) (f : Cx → Queue → Word → Nat → Out) (s : State) :
    Host.Outcome State Fault Refusal :=
  runGroup {} i (fun cx =>
    match getCtx cx.s cx.cn with
    | none => gotBad cx .stay
    | some c =>
      let x := getQueue c q.toNat
      let va := readS cx a.toNat
      if bad (qKind x) then okWrite cx d.toNat 4 l.toNat
      else if va.toNat % 16 ≠ 0 then gotBad cx (.trap 4 va)
      else f cx x va (2 ^ qSsz x / 8)) s

/-- A push: the record is read, then pushed to the queue or to the caller's sub-queue. -/
def pushForm (d q : BitVec 6) (l : BitVec 4) (task : Bool) (cx : Cx) (_ : Queue) (va : Word) (n : Nat) : Out :=
  match readRecord n cx va [] with
  | (cx1, .inr f) => gotBad cx1 f
  | (cx1, .inl bs) =>
    let clu := if task then cxCluster cx1 else 0
    let (s2, r) := queuePush cx1.s cx1.cn (cxInv cx1) q.toNat clu bs
    okWrite { cx1 with s := s2 } d.toNat (qWord r clu) l.toNat

/-- A take: the space for the record is checked, the record taken, then written. -/
def takeForm (d : BitVec 6) (l : BitVec 4) (take : State → State × QRes) (clu : QRes → Nat) (cx : Cx) (va : Word) (n : Nat) : Out :=
  match checkRecordSpace n cx va with
  | (cx1, some f) => gotBad cx1 f
  | (cx1, none) =>
    let (s2, r) := take cx1.s
    let cx2 := { cx1 with s := s2 }
    if r.status ≠ 0 then okWrite cx2 d.toNat (qWord r (clu r)) l.toNat
    else match writeRecord r.data n cx2 va with
      | (cx3, some f) => gotBad cx3 f
      | (cx3, none) => okWrite cx3 d.toNat (qWord r (clu r)) l.toNat

/-- QPUSH (R346). -/
def execQpush (d a q : BitVec 6) (l : BitVec 4) (s : State) : Host.Outcome State Fault Refusal :=
  runQueue (.qpush d a q l) d a q l (fun k => decide (k = 2)) (pushForm d q l false) s

/-- SPAWN (R83, R346). -/
def execSpawn (d a q : BitVec 6) (l : BitVec 4) (s : State) : Host.Outcome State Fault Refusal :=
  runQueue (.spawn d a q l) d a q l (fun k => decide (k ≠ 2)) (pushForm d q l true) s

/-- QPOP (R83, R346). -/
def execQpop (d a q : BitVec 6) (l : BitVec 4) (s : State) : Host.Outcome State Fault Refusal :=
  runQueue (.qpop d a q l) d a q l (fun k => decide (k = 0)) (fun cx x va n =>
    let task := decide (qKind x = 2)
    let clu := if task then cxCluster cx else 0
    takeForm d l (fun s => queueTake s cx.cn (cxInv cx) q.toNat clu task) (fun _ => clu) cx va n) s

/-- QSTEAL (R83, R346). -/
def execQsteal (d a q : BitVec 6) (l : BitVec 4) (s : State) : Host.Outcome State Fault Refusal :=
  runQueue (.qsteal d a q l) d a q l (fun k => decide (k ≠ 2)) (fun cx _ va n =>
    takeForm d l (fun s =>
      match getCtx s cx.cn with
      | none => (s, { status := 2 })
      | some c =>
        let x := getQueue c q.toNat
        if x.st = .disabled then (s, { status := 2 })
        else match stealFrom s c.part x (cxCluster cx) with
        | some k => queueTake s cx.cn (cxInv cx) q.toNat k false
        | none => (s, { status := 3 })) (·.clu) cx va n) s

/-- STATE code of a queue (R77). -/
def qStCode : QSt → Nat
  | .disabled => 0 | .opened => 1 | .full => 2 | .draining => 3 | .closed => 4

/-- QINFO (R82, R348). -/
def execQinfo (d q : BitVec 6) (l : BitVec 4) (s : State) : Host.Outcome State Fault Refusal :=
  runGroup {} (.qinfo d q l) (fun cx =>
    match getCtx cx.s cx.cn with
    | none => gotBad cx .stay
    | some c =>
      let x := getQueue c q.toNat
      let clu := if qKind x = 2 then cxCluster cx else 0
      okWrite cx d.toNat (BitVec.ofNat 64 (qStCode x.st + qKind x * 2 ^ 3 + qPrio x * 2 ^ 5 + qLogn x * 2 ^ 8 + qCount x clu * 2 ^ 16)) l.toNat) s

/-! ### QCTL (R77 to R79) -/

/-- The context and queue that a function's QSEL names, when the function owns the context. -/
def selected (s : State) (fn : Nat) : Option (Nat × Nat × Ctx) :=
  (tget s.pages fn).bind fun p =>
    let cn := bits p.qsel.toNat 16 10
    (getCtx s cn).bind fun c => if c.owner = fn then some (cn, bits p.qsel.toNat 0 6, c) else none

/-- A QCTL command: it answers the queue as it becomes and LAST; ignored for a context the function does not own. -/
def runQctl (fn : Nat) (s : State) (f : Nat → Ctx → Queue → State × (Queue → Queue) × Nat) : Host.Outcome State Fault Refusal :=
  .next (match selected s fn with
    | none => s
    | some (cn, q, c) =>
      let (s1, g, last) := f cn c (getQueue c q)
      modQueue s1 cn q fun x => { g x with last := last })

/-- Whether ENABLE refuses a geometry or its storage (R78). A page with MIG set counts as not mapped (DEDUCED, log entry 108). -/
def badGeometry (s : State) (c : Ctx) (x : Queue) : Bool :=
  let k := qKind x
  decide (k = 3) || decide (qSsz x < 4) || decide (qSsz x > 8) || decide (k = 0 ∧ qSsz x ≠ 6) || decide (k = 2 ∧ qSsz x ≠ 5) ||
    decide (qLogn x < 1) || decide (qLogn x > 16) || !rangeOk (tables s) c.root (fun leaf => leaf.getLsbD 1 && leaf.getLsbD 2) x.base.toNat (storageLen x)

/-- Writes the mirror cells of a queue as zero. -/
def zeroMirrors (s : State) (cn : Nat) (x : Queue) : State :=
  (upFrom 0 (if qKind x = 2 then 48 else 1)).foldl (fun s k => (deviceWrite s cn (mirrorVa x k) (natBytes 0 8)).getD s) s

/-- QCTL_ENABLE (R78, R79): BAD-STATE comes before BAD-CONFIG (DESIGN CHOICE, log entry 107). -/
def execQctlEnable (fn : Nat) (s : State) : Host.Outcome State Fault Refusal :=
  runQctl fn s (fun cn c x =>
    if x.st ≠ .disabled ∨ (c.st ≠ .loaded ∧ c.st ≠ .running ∧ c.st ≠ .suspended) then (s, id, 1)
    else if badGeometry s c x then (s, id, 2)
    else (zeroMirrors s cn x, fun x => { x with st := .opened, idx := [], handles := [] }, 0))

/-- QCTL_DRAIN (R79). -/
def execQctlDrain (fn : Nat) (s : State) : Host.Outcome State Fault Refusal :=
  runQctl fn s (fun _ _ x =>
    if x.st = .opened ∨ x.st = .full then (s, fun x => { x with st := if qEmpty x then .closed else .draining }, 0) else (s, id, 1))

/-- QCTL_REOPEN (R79). -/
def execQctlReopen (fn : Nat) (s : State) : Host.Outcome State Fault Refusal :=
  runQctl fn s (fun _ _ x =>
    if x.st = .closed then (s, fun x => { x with st := if qKind x ≠ 2 ∧ qCount x 0 = 2 ^ qLogn x then .full else .opened }, 0) else (s, id, 1))

/-- QCTL_DISABLE (R79). -/
def execQctlDisable (fn : Nat) (s : State) : Host.Outcome State Fault Refusal :=
  runQctl fn s (fun _ _ x => if x.st = .disabled then (s, id, 1) else (s, queueDisabled, 0))

/-- QCTL_INVALID (R77). -/
def execQctlInvalid (fn : Nat) (_cmd : BitVec 3) (s : State) : Host.Outcome State Fault Refusal := runQctl fn s (fun _ _ _ => (s, id, 1))

/-! ### Consumption (R84, R89, R90) -/

/-- Whether a LAUNCH queue of a context holds a record that the Timetable may take (R63, R84). -/
def offers (c : Ctx) (x : Queue) : Bool :=
  decide (c.st = .running) && decide (qKind x = 0) && (decide (x.st = .opened) || decide (x.st = .full) || decide (x.st = .draining)) &&
    decide (qCount x 0 ≠ 0)

/-- The entries of a table in round-robin order from a key on. -/
def turnsFrom {α : Type} (n : Nat) (t : Tbl α) : Tbl α := t.filter (fun e => decide (n ≤ e.1)) ++ t.filter (fun e => decide (e.1 < n))

/-- The context and the queue whose turn it is in a partition (R84): the contexts take turns by number, and the queues of one
context by number (DEDUCED, log entry 84). -/
def turnOf (s : State) (part : Nat) : Option (Nat × Nat) :=
  ((turnsFrom (((tget s.parts part).map (·.nextCtx)).getD 0) s.ctxs).filter fun e => decide (e.2.part = part)).findSome? fun e =>
    ((turnsFrom e.2.nextQ e.2.queues).find? fun q => offers e.2 q.2).map fun q => (e.1, q.1)

/-- The turn of a queue is over. -/
def passQueue (s : State) (cn q : Nat) : State :=
  match getCtx s cn with
  | some c => modCtx { s with parts := tmod s.parts c.part fun p => { p with nextCtx := (cn + 1) % 1024 } } cn fun c => { c with nextQ := (q + 1) % 64 }
  | none => s

/-- Whether the Timetable may take the next record of a LAUNCH queue, and its LFLAGS.BIND (R84, R86). -/
def nextRecord (s : State) (cn q : Nat) : Option Bool :=
  match getCtx s cn with
  | some c =>
    if turnOf s c.part = some (cn, q) ∧ !s.hub.rebuilding ∧ (freeInv s c.part).isSome then
      let x := getQueue c q
      match deviceRead s cn (slotVa x 0 (qIdx x 0).1) 1 with
      | (_, some bs) => some (bit (bytesNat bs) 0)
      | (_, none) => some false
    else none
  | none => none

/-- LAUNCH_RECORD_CONSUME (R84, R90). -/
def execLaunchRecordConsume (ctx q : Nat) (s : State) : Host.Outcome State Fault Refusal :=
  .next (if nextRecord s ctx q = some false then
    match queueTake (passQueue s ctx q) ctx 0xFFFF q 0 false with
    | (s1, r) =>
      if r.status ≠ 0 then s1
      else match getCtx s1 ctx with
        | some c =>
          let x := getQueue c q
          (createLaunch s1 ctx (bytesNat r.data) (bit (bytesNat r.data) 1) x.handles (qPrio x)).1
        | none => s1
  else s)

/-- What a bind record does (R89): the handle it names and its new value, or none for a record that breaks the table. The table gives no
value for BASE, LEN and REFC of an unbind record, so any does (DEDUCED, log entry 109). -/
def bindOf (rec' : Nat) : Option (Nat × Option Handle) :=
  let sh := field rec' 1 1
  let hk := field rec' 2 1
  let base := field rec' 8 8
  let len := field rec' 0x10 8
  let refc := field rec' 0x18 8
  if field rec' 0 1 ≠ 1 ∨ sh > 63 ∨ field rec' 3 5 ≠ 0 ∨ field rec' 0x20 32 ≠ 0 then none
  else match hk with
  | 0 => some (sh, none)
  | 1 => if 1 ≤ len ∧ len ≤ 2 ^ 40 ∧ refc = 0 then some (sh, some (.pages (BitVec.ofNat 64 base) len)) else none
  | 2 => if base = 0 ∧ 1 ≤ len ∧ len ≤ 65536 ∧ refc % 8 = 0 then some (sh, some (.heap len (BitVec.ofNat 64 refc))) else none
  | _ => none

/-- BIND_RECORD_CONSUME (R89, R90): the pages of a PAGES handle are examined, and tracked from then on. -/
def execBindRecordConsume (ctx q : Nat) (s : State) : Host.Outcome State Fault Refusal :=
  .next (if nextRecord s ctx q = some true then
    match queueTake (passQueue s ctx q) ctx 0xFFFF q 0 false with
    | (s1, r) =>
      if r.status ≠ 0 then s1
      else
        let rec' := bytesNat r.data
        match bindOf rec' with
        | some (sh, some h) => modQueue (examinePages s1 ctx (handlePages h)) ctx q fun x => { x with handles := tput x.handles sh h }
        | some (sh, none) => modQueue s1 ctx q fun x => { x with handles := tdel x.handles sh }
        | none => errorRecord s1 ctx 0x02 0 0xFFFF q (field rec' 0 8) 0
  else s)

end Sys2Proof.Machine
end

