-- ==== Sys2Proof/Machine/Mailbox.lean ====
section
/-! DEFINITION. The mailbox (R59 to R73): its commands, the object checks of LOAD (R67 to R69, R163), the end of the kill sequence (R72), and the registers of a function's page (R59, R77, R204, R206, R211, R377, R398, R402, R415). -/
namespace Sys2Proof.Machine

/-! ### Running a command (R59 to R61) -/

/-- What a command comes to: its status, and the results it writes. A command that gives no result leaves the register alone. -/
structure MbRes where
  code : Nat
  res0 : Option Word := none
  res1 : Option Word := none

/-- The MBCMD word of an OP and a context. -/
def mbWord (op ctx : Nat) : Word := BitVec.ofNat 64 (op % 256 + ctx % 65536 * 65536)

/-- A command leaves its status and results (DEDUCED, log entry 53). -/
def mbFinish (p : Page) (r : MbRes) : Page :=
  { p with mbstat := BitVec.ofNat 64 r.code, mbres0 := r.res0.getD p.mbres0, mbres1 := r.res1.getD p.mbres1 }

/-- Runs a command that completes at once, under a number of the arbiter (R145); a write to MBCMD while BUSY is 1 is ignored (R60). -/
def runMb (fn op ctx : Nat) (s : State) (f : Page → State → State × MbRes) : Host.Outcome State Fault Refusal :=
  .next (match tget s.pages fn with
    | none => s
    | some p =>
      if p.mbstat.getLsbD 8 then s
      else
        let r := f p (modPage (arbTick s) fn fun p => { p with mbcmd := mbWord op ctx })
        modPage r.1 fn fun p => mbFinish p r.2)

/-- A command on a context the function owns; any other gives BAD-COMMAND (R61), also one that is KILLING or DEAD (R73) (DEDUCED, log entry
105). -/
def runOwnedNow (fn op ctx : Nat) (s : State) (f : Page → Ctx → State → State × MbRes) : Host.Outcome State Fault Refusal :=
  runMb fn op ctx s fun p s1 => match getCtx s1 ctx with
    | some c => if c.owner = fn then f p c s1 else (s1, { code := 0x0A })
    | none => (s1, { code := 0x0A })

/-- A mailbox command held back until the command before it on its context is complete: MBCMD holds it, BUSY is set (R59, R60) (DEDUCED,
log entry 34). -/
def holdMb (i : Command) (fn op ctx : Nat) (s : State) : State :=
  if regBusy s fn ctx .mbcmd then s
  else modPage (holdBack s fn ctx i) fn fun p => { p with mbcmd := mbWord op ctx }

/-- A command that begins only once no other command that names its context runs (R60). -/
def runOwned (i : Command) (fn op ctx : Nat) (s : State) (f : Page → Ctx → State → State × MbRes) : Host.Outcome State Fault Refusal :=
  if ctxBusy s ctx then .next (holdMb i fn op ctx s) else runOwnedNow fn op ctx s f

/-- A command of the physical function on the device (R61). -/
def runPf (fn op ctx : Nat) (s : State) (f : Page → State → State × MbRes) : Host.Outcome State Fault Refusal :=
  runMb fn op ctx s fun p s1 => if fn = 0 then f p s1 else (s1, { code := 0x0A })

/-- Argument i of a page. -/
def mbArg (p : Page) (i : Nat) : Word := (lget p.mbarg i).getD 0

/-! ### CREATE, NEGOTIATE, RELEASE, QUERY (R61, R62, R65) -/

/-- The partition a function is bound to (R23). -/
def fnPart (s : State) (fn : Nat) : Option Nat := (s.parts.find? fun e => e.2.cfg.fns.contains fn).map (·.1)

/-- A ring argument (R61): its reserved bits are zero, and every page is mapped with R and W. -/
def ringOk (m : Memory) (root : Nat) (arg : Word) (size : Nat) : Bool :=
  decide (bits arg.toNat 57 7 = 0) && decide (bits arg.toNat 3 9 = 0) &&
    rangeOk m root (fun e => e.getLsbD 1 && e.getLsbD 2) (bits arg.toNat 12 45 * 4096) (size * 2 ^ (8 + bits arg.toNat 0 3))

/-- Bytes of bonded DRAM: 4 × 96 GB, and 1 GB is 10^9 bytes (R1, R10, R29). -/
def dramBytes : Nat := 384 * 10 ^ 9

/-- Whether the table at a root address can be read: no poison lies in it, and a device address lies in the bonded DRAM (DEDUCED, log entry 51). -/
def rootReadable (s : State) (root : Nat) : Bool := !poisonIn s root 4096 && (decide (root + 4096 ≤ dramBytes) || decide (2 ^ 51 ≤ root))

/-- Whether CREATE accepts its arguments (R61) (DEDUCED, log entry 50). -/
def createArgsOk (s : State) (p : Page) : Bool :=
  let root := (mbArg p 0).toNat
  decide (root % 4096 = 0) && decide (root < 2 ^ 52) && rootReadable s root && ringOk s.mem root (mbArg p 2) 32 && ringOk s.mem root (mbArg p 3) 64

/-- A heap as it is before any register of it is written (R211). -/
def freshHeap : Heap :=
  { enabled := false, heapva := 0, heapn := 0, hroot := 0, hrootn := 0, hapva := 0, hlive := 0, hstat := 0, hrsel := 0, regions := [],
    alloc := none, refBits := [] }

/-- A trace that is off (R402). -/
def freshTrace : Trace :=
  { trbase := 0, trcfg := 12, head := 0, tail := 0, base := 0, cfg := 0, dropped := 0, source := none, since := 0, reported := false }

/-- A context just created (R62). -/
def freshCtx (fn part : Nat) (asid : Word) (p : Page) : Ctx :=
  { st := .creating, owner := fn, part := part, asid := asid, pasid := bits (mbArg p 1).toNat 0 20, root := (mbArg p 0).toNat, features := 0
    fq := { base := BitVec.ofNat 64 (bits (mbArg p 2).toNat 12 45 * 4096), logn := 8 + bits (mbArg p 2).toNat 0 3, head := 0, tail := 0,
            waiting := [], pri := [], unresolved := [] }
    eq := { base := BitVec.ofNat 64 (bits (mbArg p 3).toNat 12 45 * 4096), logn := 8 + bits (mbArg p 3).toNat 0 3, head := 0, tail := 0,
            dropped := 0, closed := false }
    objs := [], handler := none, msgTable := 0, queues := [], nextQ := 0, tracked := [], heap := freshHeap, tfbase := 0, tfslots := 0, frames := [],
    trace := freshTrace, brkOn := false, broken := false, stalls := [] }

/-- Whether a PASID is bound: from CREATE to the end of the kill sequence (DEDUCED, log entry 50; DEDUCED, log entry 52). -/
def pasidBound (s : State) (pasid : Nat) : Bool := s.ctxs.any fun e => decide (e.2.pasid = pasid) && decide (e.2.st ≠ .dead)

/-- The first ASID of the device that no context holds: one is retired, and may be assigned again, once its context is DEAD (R62, R72)
(DESIGN CHOICE, log entry 4). -/
def freeAsid (s : State) : Option Word :=
  ((upFrom 0 (1 + Config.asidCount.toNat)).find? fun n => !(s.ctxs.any fun e => decide (e.2.asid = Config.asid n) && decide (e.2.st ≠ .dead))).map Config.asid

/-- CREATE (R61, R62): the lowest free number, for the issuing function (DESIGN CHOICE, log entry 4; DEDUCED, log entry 50). -/
def execCreate (fn ctx : Nat) (s : State) : Host.Outcome State Fault Refusal :=
  runMb fn 0x01 ctx s fun p s1 =>
    match lowestFree s1.ctxs 0 1024, fnPart s1 fn, freeAsid s1 with
    | some n, some part, some asid =>
      if pasidBound s1 (bits (mbArg p 1).toNat 0 20) then (s1, { code := 2 })
      else if !createArgsOk s1 p then (s1, { code := 9 })
      else
        ({ s1 with ctxs := tput s1.ctxs n (freshCtx fn part asid p) }, { code := 0, res0 := some (BitVec.ofNat 64 n), res1 := some asid })
    | _, _, _ => (s1, { code := 2 })

/-- Supported(partition) for a function (R65): 14 features, link only with a fabric port, uva and migr only with ATS enabled. -/
def supported (s : State) (fn part : Nat) : BitVec 128 :=
  let fabric := ((tget s.parts part).map fun x => x.cfg.fabric).getD false
  let ats := ((tget s.pages fn).map (·.ats)).getD false
  (if fabric then 0x3FFF#128 else 0x3FEF#128) &&& (if ats then 0x3FFF#128 else 0x3F3F#128)

/-- The granted vector (R65). -/
def grantOf (s : State) (fn part : Nat) (requested : BitVec 128) : BitVec 128 :=
  ((requested &&& supported s fn part) &&& 0x3FF8#128) ||| (if s.hub.microcodeMode then 3#128 else 5#128)

/-- NEGOTIATE (R65). -/
def execNegotiate (fn ctx : Nat) (s : State) : Host.Outcome State Fault Refusal :=
  runOwned .negotiate fn 0x02 ctx s fun p c s1 =>
    let g := grantOf s1 fn c.part (mbArg p 1 ++ mbArg p 0)
    if c.st ≠ .creating then (s1, { code := 1 })
    else if (mbArg p 3 ++ mbArg p 2) &&& ~~~g ≠ 0 then (s1, { code := 3 })
    else (modCtx s1 ctx fun c => { c with features := g, st := .negotiated },
      { code := 0, res0 := some (g.setWidth 64), res1 := some (BitVec.ofNat 64 (g.toNat / 2 ^ 64)) })

/-- A context's number is no context's any more: what is left of it, ended invocations and signals on their way, keeps no claim on a
later context of that number. -/
def forgetCtx (s : State) (cn : Nat) : State :=
  { s with
    ctxs := tdel s.ctxs cn
    invs := s.invs.filter fun e => decide (e.2.ctx ≠ cn)
    signals := s.signals.map fun g => if g.fromCtx = cn then { g with fromCtx := 1024 } else g }

/-- RELEASE (R62). -/
def execRelease (fn ctx : Nat) (s : State) : Host.Outcome State Fault Refusal :=
  runOwned .release fn 0x09 ctx s fun _ c s1 => if c.st = .dead then (forgetCtx s1 ctx, { code := 0 }) else (s1, { code := 1 })

/-- State codes of QUERY (R62). -/
def ctxCode : CtxSt → Nat
  | .creating => 1 | .negotiated => 2 | .loaded => 3 | .running => 4 | .suspended => 5 | .killing => 6 | .dead => 7

/-- QUERY (R62). A number of 1,024 or above, for which the spec gives no status, gives BAD-COMMAND (DESIGN CHOICE, log entry 85). -/
def execQuery (fn ctx : Nat) (s : State) : Host.Outcome State Fault Refusal :=
  if ctxBusy s ctx then .next (holdMb .query fn 0x0A ctx s) else runMb fn 0x0A ctx s fun _ s1 =>
    let counter := BitVec.ofNat 64 s1.hub.secver
    match getCtx s1 ctx with
    | none => if ctx < 1024 then (s1, { code := 0, res0 := some 0, res1 := some counter }) else (s1, { code := 0x0A })
    | some c => if c.owner = fn then (s1, { code := 0, res0 := some (BitVec.ofNat 64 (ctxCode c.st)), res1 := some counter }) else (s1, { code := 0x0A })

/-! ### Code objects (R67, R68, R163, R164) -/

/-- `n` bytes of an image at an offset, as a number. -/
def imgField (img : List Byte) (off n : Nat) : Nat := bytesNat ((img.drop off).take n)

/-- Bytes of a signature (R67). -/
def sigLen : Nat := 29792

/-- Whether a section of `n` bytes lies between the header and the signature. -/
def sectionOk (total off n : Nat) : Bool := decide (0x100 ≤ off) && decide (off + n + sigLen ≤ total)

/-- Continues a UTF-8 check: `need` bytes follow, the next of them from `lo` to `hi`. -/
def utf8From : Nat → Nat → Nat → List Byte → Bool
  | need, _, _, [] => decide (need = 0)
  | 0, _, _, b :: r =>
    let a := b.toNat
    if a < 0x80 then utf8From 0 0 0 r
    else if a < 0xC2 then false
    else if a < 0xE0 then utf8From 1 0x80 0xBF r
    else if a < 0xF0 then utf8From 2 (if a = 0xE0 then 0xA0 else 0x80) (if a = 0xED then 0x9F else 0xBF) r
    else if a < 0xF5 then utf8From 3 (if a = 0xF0 then 0x90 else 0x80) (if a = 0xF4 then 0x8F else 0xBF) r
    else false
  | n + 1, lo, hi, b :: r => decide (lo ≤ b.toNat) && decide (b.toNat ≤ hi) && utf8From n 0x80 0xBF r

/-- Whether a NAME is UTF-8, zero-padded (DEDUCED, log entry 55). -/
def nameOk (bs : List Byte) : Bool :=
  let text := bs.takeWhile fun b => decide (b ≠ 0)
  utf8From 0 0 0 text && (bs.drop text.length).all fun b => decide (b = 0)

/-- A kernel entry: a multiple of 4 below NLEN, when the object has a native section. -/
def entryOk (native : Bool) (nlen x : Nat) : Bool := decide (x % 4 = 0) && (!native || decide (x < nlen))

/-- A stream descriptor of an access slice; none when a reserved field is not zero. -/
def parseDesc (img : List Byte) (off : Nat) : Option Desc :=
  let d0 := imgField img off 8
  let n := bits d0 12 2 + 1
  if bits d0 40 24 ≠ 0 ∨ bits d0 19 13 ≠ 0 ∨ bits d0 4 4 ≠ 0 ∨ imgField img (off + 0x30) 16 ≠ 0 ∨
      (upFrom n (4 - n)).any (fun d => decide (imgField img (off + 0x10 + 8 * d) 8 ≠ 0)) then none
  else some { fmt := bits d0 0 4, boff := bits d0 8 2, dir := bits d0 10 2, ndim := bits d0 12 2, gate := bit d0 14, full := bit d0 15,
              chan := bits d0 16 3, mask := bits d0 32 8, ofs := signed 64 (imgField img (off + 8) 8),
              counts := (upFrom 0 n).map fun d => imgField img (off + 0x10 + 8 * d) 4,
              strides := (upFrom 0 n).map fun d => signed 32 (imgField img (off + 0x14 + 8 * d) 4) }

/-- The descriptors of a list of offsets, if each is well formed. -/
def parseDescs (img : List Byte) : List Nat → Option (List Desc)
  | [] => some []
  | o :: r => (parseDesc img o).bind fun d => (parseDescs img r).map fun t => d :: t

/-- The access slice of a kernel (R163); none when it is malformed (DEDUCED, log entry 55). -/
def parseSlice (img : List Byte) (noff nlen aentry : Nat) : Option (List Desc) :=
  if aentry = 0 then some []
  else
    let h := imgField img (noff + aentry) 8
    if h = 0 ∨ h > 64 ∨ imgField img (noff + aentry + 8) 56 ≠ 0 ∨ aentry + 64 + 64 * h > nlen then none
    else parseDescs img ((upFrom 0 h).map fun d => noff + aentry + 64 + 64 * d)

/-- A kernel descriptor (R68); none when a field is wrong, RegBytes below 8 among them (R105) (DEDUCED, log entry 55). -/
def parseKernel (img : List Byte) (native : Bool) (noff nlen off : Nat) : Option Kernel :=
  let f (o n : Nat) : Nat := imgField img (off + o) n
  if !(entryOk native nlen (f 0 8) && entryOk native nlen (f 8 8) && entryOk native nlen (f 0x10 8)) ∨ f 0x18 1 = 0 ∨ f 0x18 1 > 16 ∨
      f 0x19 1 > f 0x18 1 ∨ f 0x1A 1 > 3 ∨ f 0x1B 1 = 0 ∨ f 0x1B 1 > 8 ∨ f 0x1C 1 > 3 ∨ f 0x1D 1 > 3 ∨ 512 * f 0x1B 1 / (8 * 2 ^ f 0x1C 1 * 2 ^ f 0x1D 1) < 8 ∨ f 0x1E 1 > 2 ∨ f 0x1F 1 > 15 ∨
      !nameOk ((img.drop (off + 0x20)).take 32) then none
  else (if native then parseSlice img noff nlen (f 0x10 8) else some []).map fun ds =>
    { entry := f 0 8, mentry := f 8 8, aentry := f 0x10 8, groups := f 0x18 1, prod := f 0x19 1, width := f 0x1A 1, budget := f 0x1B 1,
      nv := 8 * 2 ^ f 0x1C 1, grp := 2 ^ f 0x1D 1, cls := f 0x1E 1, kflags := BitVec.ofNat 8 (f 0x1F 1), descs := ds }

/-- The kernels of `n` descriptors from an offset on. -/
def parseKernels (img : List Byte) (native : Bool) (noff nlen : Nat) : Nat → Nat → Option (List Kernel)
  | _, 0 => some []
  | off, n + 1 => (parseKernel img native noff nlen off).bind fun k => (parseKernels img native noff nlen (off + 64) n).map fun r => k :: r

/-- An object's header, as far as the steps after FORMAT need it. -/
structure ObjHead where
  native : Bool
  noff : Nat
  nlen : Nat
  secver : Nat
  features : BitVec 128
  signer : BitVec 512
  kernels : List Kernel

/-- MAGIC "LOLC", VERSION, FLAGS and the zero fields (R67). -/
def headerOk (img : List Byte) (len : Nat) : Bool :=
  decide (imgField img 0 4 = 0x434C4F4C) && decide (imgField img 4 2 = 1) && decide (imgField img 6 2 ≤ 3) && decide (imgField img 8 4 ≤ 255) &&
    decide (imgField img 0xC 4 = 0) && decide (imgField img 0x44 4 = 0) && decide (imgField img 0x98 104 = 0) && decide (imgField img 0x90 8 = len) &&
    decide (0x100 + sigLen ≤ len) && decide (1 ≤ imgField img 0x40 4) && decide (imgField img 0x40 4 ≤ 256)

/-- The sections of an object (R67): in bounds, aligned, apart from each other (DEDUCED, log entry 55). NOFF and NLEN of an object with
no native section are not checked (DESIGN CHOICE, log entry 87). -/
def sectionsOk (img : List Byte) (len : Nat) : Bool :=
  let native := bit (imgField img 6 2) 0
  let lpf := bit (imgField img 6 2) 1
  let noff := imgField img 0x20 8
  let nlen := imgField img 0x28 8
  let loff := imgField img 0x30 8
  let llen := imgField img 0x38 8
  let koff := imgField img 0x48 8
  let klen := 64 * imgField img 0x40 4
  (!native || (decide (noff % 256 = 0) && decide (nlen % 4 = 0) && sectionOk len noff nlen && !rangesMeet noff nlen koff klen)) &&
    (!lpf || (sectionOk len loff llen && !rangesMeet loff llen koff klen)) && (!native || !lpf || !rangesMeet noff nlen loff llen) &&
    decide (koff % 64 = 0) && sectionOk len koff klen

/-- Parses an object of a length; none gives FORMAT (R69) (DEDUCED, log entry 55). -/
def parseObject (img : List Byte) (len : Nat) : Option ObjHead :=
  if headerOk img len ∧ sectionsOk img len then
    let native := bit (imgField img 6 2) 0
    (parseKernels img native (imgField img 0x20 8) (imgField img 0x28 8) (imgField img 0x48 8) (imgField img 0x40 4)).map fun ks =>
      { native := native, noff := imgField img 0x20 8, nlen := imgField img 0x28 8, secver := imgField img 8 4,
        features := BitVec.ofNat 128 (imgField img 0x10 16), signer := BitVec.ofNat 512 (imgField img 0x50 64), kernels := ks }
  else none

/-! ### LOAD and UNLOAD (R62, R69) -/

/-- The feature a KFLAGS bit asks for (R64): `.migrate` xclass, `.coresident` cores, `.replayable` replay, `.sig on` sig (DEDUCED, log entry 56). -/
def kflagFeatures (kn : Kernel) : BitVec 128 :=
  (if kflag kn 0 then 0x400#128 else 0) ||| (if kflag kn 1 then 0x2000#128 else 0) ||| (if kflag kn 2 then 0x800#128 else 0) |||
    (if kflag kn 3 then 0x200#128 else 0)

/-- Whether a key may sign objects of a partition. -/
def keyKnown (s : State) (part : Nat) (k : BitVec 512) : Bool :=
  decide (k = Config.fusedKey) || ((tget s.parts part).map fun x => x.keys.contains k).getD false

/-- Writes bytes at a VA through the translation of a context, whether or not its leaves grant W (R69). -/
def installBytes (cn : Nat) : Nat → State → Nat → List Byte → State
  | 0, s, _, _ => s
  | fuel + 1, s, va, bs =>
    if bs = [] then s
    else
      let n := 4096 - va % 4096
      let s1 := match ctxTranslate s hubCore cn va .read with
        | (s', some (.ok pa _ _)) => clearRefsAt (putBytes (dirtyAt s' hubCore cn va) pa (bs.take n)) pa (bs.take n).length
        | (s', _) => s'
      installBytes cn fuel s1 (va + n) (bs.drop n)

/-- Checks 3 to 8 of R69 and the installation of an image that passed 1 and 2 (DEDUCED, log entry 56), under the lowest free handle
(DESIGN CHOICE, log entry 88). -/
def loadImage (s : State) (cn : Nat) (c : Ctx) (img : List Byte) (h : ObjHead) (dest : Word) : State × MbRes :=
  let wanted := h.kernels.foldl (fun f k => f ||| kflagFeatures k) h.features
  if !h.native then (s, { code := 7 })
  else if !keyKnown s c.part h.signer ∨ !Config.verifies h.signer img then (s, { code := 4 })
  else if h.secver < s.hub.secver then (s, { code := 5 })
  else if wanted &&& ~~~c.features ≠ 0 then (s, { code := 6 })
  else if !rangeOk (tables s) c.root (fun e => e.getLsbD 1 && e.getLsbD 3) dest.toNat h.nlen then (s, { code := 9 })
  else match lowestFree c.objs 0 256 with
  | none => (s, { code := 2 })
  | some n =>
    let s1 := installBytes cn (h.nlen / 4096 + 2) s dest.toNat ((img.drop h.noff).take h.nlen)
    let o : CodeObj := { base := dest, nlen := h.nlen, secver := h.secver, kernels := h.kernels }
    let s2 := modCtx s1 cn fun c => { c with objs := tput c.objs n o, st := if c.st = .negotiated then .loaded else c.st }
    ({ s2 with hub := { s2.hub with loadLog := s2.hub.loadLog ++ [{ ctx := cn, handle := n, secver := h.secver, measure := Config.shake img }] } },
      { code := 0, res0 := some (BitVec.ofNat 64 n) })

/-- Whether a context may hold code objects. -/
def takesObjects (c : Ctx) : Bool :=
  decide (c.st = .negotiated) || decide (c.st = .loaded) || decide (c.st = .running) || decide (c.st = .suspended)

/-- LOAD (R69) (DEDUCED, log entry 55). -/
def execLoad (fn ctx : Nat) (s : State) : Host.Outcome State Fault Refusal :=
  runOwned .load fn 0x03 ctx s fun p c s1 =>
    if !takesObjects c then (s1, { code := 1 })
    else match deviceReadLong ctx ((mbArg p 1).toNat / 4096 + 2) s1 (mbArg p 0).toNat (mbArg p 1).toNat with
    | (s2, .inr _) => (s2, { code := 9 })
    | (s2, .inl img) =>
      match parseObject img (mbArg p 1).toNat with
      | none => (s2, { code := 8 })
      | some h => loadImage s2 ctx c img h (mbArg p 2)

/-- Whether an object of a context has an invocation outside DONE and FAULTED. -/
def objectLive (s : State) (cn obj : Nat) : Bool := s.invs.any fun e => decide (e.2.ctx = cn) && decide (e.2.obj = obj) && invLive e.2

/-- UNLOAD (R62): a handle that names no object gives BAD-STATE (DEDUCED, log entry 54). -/
def execUnload (fn ctx : Nat) (s : State) : Host.Outcome State Fault Refusal :=
  runOwned .unload fn 0x04 ctx s fun p c s1 =>
    let n := (mbArg p 0).toNat
    if !takesObjects c ∨ (tget c.objs n).isNone ∨ objectLive s1 ctx n then (s1, { code := 1 })
    else (modCtx s1 ctx fun c => { c with objs := tdel c.objs n, st := if c.st = .loaded ∧ tdel c.objs n = [] then .negotiated else c.st }, { code := 0 })

/-! ### START, SUSPEND, RESUME, KILL (R62, R72) -/

/-- Whether START accepts the trap-handler kernel its ARG0 names (R378). -/
def handlerOk (c : Ctx) (obj kidx : Nat) : Bool :=
  ((findKernel c obj kidx).map fun p => decide (p.2.groups = 1) && decide (p.2.mentry = 0)).getD false

/-- START (R62, R234, R377, R378) (DEDUCED, log entry 54). -/
def execStart (fn ctx : Nat) (s : State) : Host.Outcome State Fault Refusal :=
  runOwned .start fn 0x05 ctx s fun p c s1 =>
    let obj := bits (mbArg p 0).toNat 8 8
    let kidx := bits (mbArg p 0).toNat 0 8
    let tab := mbArg p 1
    if c.st ≠ .loaded then (s1, { code := 1 })
    else if !handlerOk c obj kidx then (s1, { code := 8 })
    else if !rangeOk (tables s1) c.root (fun e => e.getLsbD 1 && e.getLsbD 2) c.tfbase.toNat (c.tfslots.toNat * frameSize) then (s1, { code := 9 })
    else if tab.toNat % 4096 ≠ 0 then (s1, { code := 8 })
    else if tab ≠ 0 ∧ !rangeOk (tables s1) c.root (fun e => e.getLsbD 1) tab.toNat 4096 then (s1, { code := 9 })
    else (modCtx s1 ctx fun c => { c with handler := some (obj, kidx), msgTable := if hasFeature c 4 then tab else 0, st := .running }, { code := 0 })

/-- The resident teams of a context. -/
def residentOf (s : State) (cn : Nat) : List Nat :=
  (s.teams.filter fun e => !e.2.saved && ((getInv s e.2.inv).map fun iv => decide (iv.ctx = cn)).getD false).map (·.1)

/-- SUSPEND (R62): placement stops and every team is pre-empted; the command stays BUSY until all are saved, with the CODE of the last
command (R59) (DEDUCED, log entry 57). -/
def execSuspend (fn ctx : Nat) (s : State) : Host.Outcome State Fault Refusal :=
  .next (match tget s.pages fn with
    | none => s
    | some p =>
      if p.mbstat.getLsbD 8 then s
      else if ctxBusy s ctx then holdMb .suspend fn 0x06 ctx s
      else
        let put (s : State) (stat : Word) : State := modPage (arbTick s) fn fun p => { p with mbcmd := mbWord 0x06 ctx, mbstat := stat }
        match getCtx s ctx with
        | some c =>
          if c.owner ≠ fn then put s 0x0A
          else if c.st ≠ .running then put s 1
          else put (requestPreempt s (residentOf s ctx)) (0x100 ||| p.mbstat &&& 0xFF)
        | none => put s 0x0A)

/-- SUSPEND_COMPLETE (R62) (DEDUCED, log entry 57). -/
def execSuspendComplete (ctx : Nat) (s : State) : Host.Outcome State Fault Refusal :=
  .next (match getCtx s ctx with
    | some c =>
      if !suspending s ctx ∨ residentOf s ctx ≠ [] then s
      else freeHeld (modPage (modCtx s ctx fun c => { c with st := .suspended }) c.owner fun p => { p with mbstat := 0 }) ctx
    | none => s)

/-- The invocations of a context in RECORDED go on: the messages held while it was SUSPENDED (R63). -/
def advanceRecorded (s : State) (cn : Nat) : State :=
  ((s.invs.filter fun e => decide (e.2.ctx = cn) && decide (e.2.st = .recorded)).map (·.1)).foldl advanceInv s

/-- RESUME (R62, R63). -/
def execResume (fn ctx : Nat) (s : State) : Host.Outcome State Fault Refusal :=
  runOwned .resume fn 0x07 ctx s fun _ c s1 =>
    if c.st ≠ .suspended then (s1, { code := 1 }) else (advanceRecorded (modCtx s1 ctx fun c => { c with st := .running }) ctx, { code := 0 })

/-- KILL (R62, R72): OK as soon as the sequence has begun; a second KILL has no further effect (DEDUCED, log entry 57). -/
def execKill (fn ctx : Nat) (s : State) : Host.Outcome State Fault Refusal :=
  runOwnedNow fn 0x08 ctx s fun _ _ s1 => (beginKill s1 ctx, { code := 0 })

/-- The last steps of a context's kill sequence (R72): writes drained, the ASID invalidated and retired, PASID and heap freed (DEDUCED, log entry 57). -/
def finishKill (s : State) (cn : Nat) : State :=
  match getCtx s cn with
  | some c =>
    let s1 := { s with tlb := tlbDrop s.tlb cn c.part 0 0 true false, hub := { s.hub with loadLog := s.hub.loadLog.filter fun r => decide (r.ctx ≠ cn) } }
    modCtx s1 cn fun c => { c with st := .dead, heap := disabledHeap c.heap }
  | none => s

/-- The rest of a kill sequence from wherever it stands (R72). -/
def endKill (s : State) (cn : Nat) : State := finishKill (closeJobs s cn) cn

/-- KILL_SEQUENCE_COMPLETE (R72): it waits for CancelInvocations (R390) (DEDUCED, log entry 57). -/
def execKillSequenceComplete (ctx : Nat) (s : State) : Host.Outcome State Fault Refusal :=
  .next (if ((getCtx s ctx).map fun c => decide (c.st = .killing)).getD false && !cancelsDue s ctx then endKill s ctx else s)

/-! ### Device commands (R66, R70) -/

/-- SETEXT (R66). -/
def execSetext (fn ctx : Nat) (s : State) : Host.Outcome State Fault Refusal :=
  runPf fn 0x10 ctx s fun p s1 =>
    if s1.ctxs ≠ [] then (s1, { code := 1 }) else ({ s1 with hub := { s1.hub with microcodeMode := (mbArg p 0).getLsbD 0 } }, { code := 0 })

/-- ADVSEC (R70). RES1 takes the counter under BAD-STATE too (DESIGN CHOICE, log entry 86). -/
def execAdvsec (fn ctx : Nat) (s : State) : Host.Outcome State Fault Refusal :=
  runPf fn 0x11 ctx s fun p s1 =>
    let v := (mbArg p 0).toNat
    if s1.hub.secver < v ∧ v ≤ 255 then ({ s1 with hub := { s1.hub with secver := v } }, { code := 0, res1 := some (BitVec.ofNat 64 v) })
    else (s1, { code := 1, res1 := some (BitVec.ofNat 64 s1.hub.secver) })

/-- The physical address of a host bus address (R191) (DEDUCED, log entry 58). -/
def hostPhys (a : Word) : Nat := 2 ^ 51 + a.toNat % 2 ^ 51

/-- LOADMC (R66): `ok` says whether the DMA read completed. The object lies in host memory and is signed under the fused key; its
entries, of which the store holds 256, are its own (DESIGN CHOICE, log entry 9; DEDUCED, log entry 58). -/
def execLoadmc (fn ctx : Nat) (ok : Bool) (s : State) : Host.Outcome State Fault Refusal :=
  runPf fn 0x12 ctx s fun p s1 =>
    if !s1.hub.microcodeMode ∨ s1.ctxs ≠ [] then (s1, { code := 1 })
    else if !ok then (s1, { code := 9 })
    else
      let img := readBytes s1.mem (hostPhys (mbArg p 0)) (mbArg p 1).toNat
      if !Config.verifies Config.fusedKey img then (s1, { code := 4 })
      else
        let m := Config.shake img
        ({ s1 with hub := { s1.hub with microcode := some m, store := (Config.microcodeEntries m).take 256 } }, { code := 0 })

/-- ADDKEY (R61): `ok` says whether the DMA read completed (DEDUCED, log entry 58). -/
def execAddkey (fn ctx : Nat) (ok : Bool) (s : State) : Host.Outcome State Fault Refusal :=
  runPf fn 0x13 ctx s fun p s1 =>
    let part := (mbArg p 0).toNat
    if (tget s1.parts part).isNone then (s1, { code := 0x0A })
    else if !ok then (s1, { code := 9 })
    else
      let k := BitVec.ofNat 512 (readNat s1.mem (hostPhys (mbArg p 1)) 64)
      ({ s1 with parts := tmod s1.parts part fun x => { x with keys := x.keys ++ [k] } }, { code := 0 })

/-- Whether an OP of R61 may be issued by a function. -/
def knownOp (fn op : Nat) : Bool := (decide (1 ≤ op) && decide (op ≤ 10)) || (decide (fn = 0) && decide (0x10 ≤ op) && decide (op ≤ 0x13))

/-- MAILBOX_UNKNOWN_COMMAND (R61). A known OP the function may issue is the row of that command. -/
def execMailboxUnknownCommand (fn : Nat) (val : BitVec 64) (s : State) : Host.Outcome State Fault Refusal :=
  let op := bits val.toNat 0 8
  if knownOp fn op then .next s else runMb fn op (bits val.toNat 16 16) s fun _ s1 => (s1, { code := 0x0A })

/-! ### Register writes without behaviour of their own (R77) -/

/-- The context DBGSEL names, when the function owns it. -/
def debugCtx (s : State) (fn : Nat) : Option (Nat × Ctx) :=
  (tget s.pages fn).bind fun p =>
    let cn := bits p.dbgsel.toNat 48 10
    (getCtx s cn).bind fun c => if c.owner = fn then some (cn, c) else none

/-- Keeps the RW bits of a value: those of `n` bits from `lo`. -/
def keep (val : Word) (lo n : Nat) : Word := BitVec.ofNat 64 (bits val.toNat lo n * 2 ^ lo)

/-- A write to a register of the page itself; none for an offset that names none. -/
def writePage (p : Page) (off : Nat) (val : Word) : Option Page :=
  match off with
  | 0x08 | 0x10 | 0x18 | 0x20 => some (if p.mbstat.getLsbD 8 then p else { p with mbarg := lset p.mbarg (off / 8 - 1) val })
  | 0x100 => some { p with qsel := keep val 16 10 ||| keep val 0 6 }
  | 0x180 => some { p with invva := keep val 12 45 }
  | 0x188 => some { p with invlen := keep val 0 32 }
  | 0x240 => some { p with dbgsel := keep val 48 10 ||| keep val 0 48 }
  | 0x248 => some { p with dbgarg := val }
  | _ => none

/-- A write to a queue register takes effect only while the queue is DISABLED (R77). -/
def writeQueue (s : State) (cn q : Nat) (f : Queue → Queue) : State := modQueue s cn q fun x => if x.st = .disabled then f x else x

/-- A write to a heap register that takes effect only while the heap is disabled (R211). -/
def writeHeap (s : State) (cn : Nat) (f : Heap → Heap) : State := modHeap s cn fun h => if h.enabled then h else f h

/-- Whether the trap-frame registers may be written (R377). -/
def framesOpen (c : Ctx) : Bool := decide (c.st = .creating) || decide (c.st = .negotiated) || decide (c.st = .loaded)

/-- A write to a register of the context QSEL names. -/
def writeSelected (s : State) (cn q : Nat) (c : Ctx) (off : Nat) (val : Word) : State :=
  match off with
  | 0x108 => writeQueue s cn q fun x => { x with base := keep val 12 45 }
  | 0x110 => writeQueue s cn q fun x => { x with geom := keep val 29 3 ||| keep val 24 2 ||| keep val 16 4 ||| keep val 0 5 }
  | 0x160 =>
    if (val.setWidth 32 - c.eq.head).toNat ≤ (c.eq.tail - c.eq.head).toNat then modCtx s cn fun c => { c with eq := { c.eq with head := val.setWidth 32 } }
    else s
  | 0x1C0 => writeHeap s cn fun h => { h with heapva := keep val 21 36 }
  | 0x1C8 => writeHeap s cn fun h => { h with heapn := keep val 0 17 }
  | 0x1D0 => writeHeap s cn fun h => { h with hroot := keep val 12 45 }
  | 0x1D8 => writeHeap s cn fun h => { h with hrootn := keep val 0 16 }
  | 0x1E0 => writeHeap s cn fun h => { h with hapva := keep val 25 32 }
  | 0x1F0 => modHeap s cn fun h => { h with hlive := keep val 0 57 }
  | 0x200 => modHeap s cn fun h => { h with hrsel := keep val 0 16 }
  | 0x220 => if framesOpen c then modCtx s cn fun c => { c with tfbase := keep val 19 38 } else s
  | 0x228 => if framesOpen c then modCtx s cn fun c => { c with tfslots := keep val 0 8 } else s
  | _ => s

/-- A write to a trace register of the context DBGSEL names (R402). -/
def writeTrace (s : State) (cn off : Nat) (val : Word) : State :=
  match off with
  | 0x260 => modCtx s cn fun c => { c with trace := { c.trace with trbase := keep val 12 45 } }
  | 0x268 => modCtx s cn fun c => { c with trace := { c.trace with trcfg := keep val 8 2 ||| keep val 0 5 } }
  | 0x270 => modCtx s cn fun c => { c with trace := { c.trace with head := val.setWidth 32 } }
  | _ => s

/-- REGISTER_WRITE (R77): a read-only register, an offset that names none, and a register whose write is a row of its own leave
the state alone. -/
def execRegisterWrite (fn off : Nat) (val : BitVec 64) (s : State) : Host.Outcome State Fault Refusal :=
  .next (match tget s.pages fn with
    | none => s
    | some p =>
      match writePage p off val with
      | some p' => modPage s fn fun _ => p'
      | none =>
        if 0x260 ≤ off ∧ off ≤ 0x270 then (match debugCtx s fn with | some (cn, _) => writeTrace s cn off val | none => s)
        else match selected s fn with
          | some (cn, q, c) => writeSelected s cn q c off val
          | none => s)

/-! ### Register reads -/

/-- STATE code of a region (R211). -/
def regionCode : RegSt → Nat
  | .free => 0 | .allocating => 1 | .live => 2 | .evacuating => 3 | .relocated => 4

/-- HRENT (R211). -/
def hrentWord (r : Region) : Word := BitVec.ofNat 64 (r.top * 2 ^ 32 + (if r.large then 256 else 0) + r.gen * 16 + regionCode r.st)

/-- What a register of the context QSEL names reads as. -/
def readSelected (q : Nat) (c : Ctx) (off : Nat) : Word :=
  let x := getQueue c q
  match off with
  | 0x108 => x.base
  | 0x110 => x.geom
  | 0x120 => BitVec.ofNat 64 (x.last * 2 ^ 32 + qStCode x.st)
  | 0x128 => BitVec.ofNat 64 ((qIdx x 0).2.toNat * 2 ^ 32 + (qIdx x 0).1.toNat)
  | 0x140 => c.fq.head.setWidth 64
  | 0x148 => c.fq.tail.setWidth 64
  | 0x160 => c.eq.head.setWidth 64
  | 0x168 => c.eq.tail.setWidth 64
  | 0x1C0 => c.heap.heapva
  | 0x1C8 => c.heap.heapn
  | 0x1D0 => c.heap.hroot
  | 0x1D8 => c.heap.hrootn
  | 0x1E0 => c.heap.hapva
  | 0x1F0 => c.heap.hlive
  | 0x200 => c.heap.hrsel
  | 0x208 => hrentWord (getRegion c.heap c.heap.hrsel.toNat)
  | 0x220 => c.tfbase
  | 0x228 => c.tfslots
  | _ => 0

/-- STATE code of a link (R230). -/
def linkCode : LinkSt → Nat
  | .down => 0 | .training => 1 | .active => 2 | .degraded => 3 | .retrain => 4 | .failed => 5

/-- LSTAT (R230) (DEDUCED, log entry 43). -/
def lstatWord (l : Link) : Word :=
  BitVec.ofNat 64 (Nat.min l.retrains 65535 * 2 ^ 48 + Nat.min l.replays (2 ^ 32 - 1) * 2 ^ 16 + l.lanes * 16 + linkCode l.st)

/-- Whether an offset of the physical function's BAR0 lies outside its mailbox page and the link registers: the identity, partition and
error registers, which R24 names and no rule lays out, are among those words (DESIGN CHOICE, log entry 102). -/
def pfUnlaid (off : Nat) : Bool := (decide (0x10000 ≤ off) && decide (off < 0x400000)) || (decide (0x400200 ≤ off) && decide (off < 2 ^ 25))

/-- The offset of the identity register with the device number, one of those words (DESIGN CHOICE, log entry 102). -/
def identityOffset : Nat :=
  let i := Config.identityIndex % 0x3F_DFC0
  if i < 0x7E000 then 0x10000 + 8 * i else 0x400200 + 8 * (i - 0x7E000)

/-- What such a word reads as: the device number in bits 12:0 of the identity register (R232), all else free (DESIGN CHOICE, log entry
102). -/
def readPf (s : State) (off : Nat) : Word :=
  let w := Config.freeWord s.draws (2 ^ 100 + off)
  if off = identityOffset then (w >>> 13 <<< 13) ||| Config.deviceNumber.setWidth 64 else w

/-- What a register of a function's page, or a register of the physical function, reads as. A write-only register and an
offset that names none read as zero (DEDUCED, log entry 14). -/
def readRegister (s : State) (fn off : Nat) : Word :=
  match tget s.pages fn with
  | none => 0
  | some p =>
    match off with
    | 0x00 => p.mbcmd
    | 0x08 | 0x10 | 0x18 | 0x20 => mbArg p (off / 8 - 1)
    | 0x40 => p.mbstat
    | 0x48 => p.mbres0
    | 0x50 => p.mbres1
    | 0x100 => p.qsel
    | 0x180 => p.invva
    | 0x188 => p.invlen
    | 0x198 => p.invstat
    | 0x240 => p.dbgsel
    | 0x248 => p.dbgarg
    | 0x258 => p.dbgstat
    | 0x1F8 => match selected s fn with
      | some x => x.2.2.heap.hstat
      | none => if (getCtx s (bits p.qsel.toNat 16 10)).isNone then BitVec.ofNat 64 p.hfree else 0
    | 0x260 => ((debugCtx s fn).map fun x => x.2.trace.trbase).getD 0
    | 0x268 => ((debugCtx s fn).map fun x => x.2.trace.trcfg).getD 0
    | 0x270 => ((debugCtx s fn).map fun x => x.2.trace.head.setWidth 64).getD 0
    | 0x278 => ((debugCtx s fn).map fun x => x.2.trace.tail.setWidth 64).getD 0
    | _ =>
      if fn = 0 ∧ pfUnlaid off then readPf s off
      else if fn = 0 ∧ 0x400000 ≤ off then (if off % 0x20 = 0 then ((tget s.links ((off - 0x400000) / 0x20)).map lstatWord).getD 0 else 0)
      else ((selected s fn).map fun x => readSelected x.2.1 x.2.2 off).getD 0

end Sys2Proof.Machine
end

