-- ==== Sys2Proof/Machine/Streams.lean ====
section
/-! DEFINITION. Vector configuration (R306, R307) and stream slots (R163 to R170, R360, R361): SCFG, SMC, SREL, SDRAIN, the strip advance of VSETVL, and the access engine's delivery of elements. -/
namespace Sys2Proof.Machine

/-- Every bit of one vector register of a group. -/
def regMask (kn : Kernel) (g : Group) : Nat := 2 ^ (8 * vBytes kn g) - 1

/-- Replaces the whole of a vector register. -/
def setVec (kn : Kernel) (g : Group) (n v : Nat) : Group := putVec g n (regMask kn g) v

/-- Puts slot `q` of a group. -/
def putSlot (g : Group) (q : Nat) (x : Slot) : Group := { g with slots := lset g.slots q x }

/-- Slot `q` of a group. -/
def getSlot (g : Group) (q : Nat) : Slot := (lget g.slots q).getD idleSlot

/-- A slot that has left stream mode. -/
def freeSlot (x : Slot) : Slot := { x with st := .idle, slen := 0, ahead := [], written := 0, spare := 0, blocked := none, wanted := false, multicast := false, ended := false }

/-! ### Addresses (R165) -/

/-- Stream length: the product of the counts. -/
def descLen (d : Desc) : Nat := d.counts.foldl (fun a c => a * c) 1

/-- The offset in bytes that the dimensions from a list of counts and strides give element n. -/
def dimOffset : List Nat → List Int → Nat → Int
  | c :: cs, st :: ss, n => Int.ofNat (n % c) * st + dimOffset cs ss (n / c)
  | _, _, _ => 0

/-- Bit address of element n (R165): packed in dimension 0 when its stride is 0. -/
def streamAddr (x : Slot) (n : Nat) : Nat :=
  let d := x.desc
  let b := 8 * (x.base + BitVec.ofInt 64 (d.ofs + dimOffset d.counts d.strides n)).toNat
  match d.strides, d.counts with
  | 0 :: _, c :: _ => b + 2 * d.boff + n % c * fmtWidth d.fmt
  | _, _ => b

/-! ### Checks of SCFG and SMC (R165, R166, R170, R360) -/

/-- Whether a descriptor passes R165 for a team of a gang. -/
def descOk (d : Desc) (gang : Nat) : Bool :=
  decide (d.fmt ≤ 11) && decide (d.dir ≠ 3) && (decide (d.boff = 0) || decide (d.fmt = 5) || decide (d.fmt = 6)) &&
    (decide (d.boff = 0) || decide (d.strides.head? = some 0)) && (decide (8 ≤ fmtWidth d.fmt) || decide (d.strides.head? = some 0)) &&
    d.counts.all (fun c => decide (c ≠ 0)) && decide (descLen d < 2 ^ 48) && decide (d.mask < 2 ^ gang)

/-- The teams present of the gang of a team. -/
def gangTeams (s : State) (k : Nat) : List Nat :=
  match getTeam s k, invOf s k with
  | some t, some iv => (upFrom 0 iv.gang).filterMap fun m => if (getTeam s (gangMember iv t m)).isSome then some (gangMember iv t m) else none
  | _, _ => []

/-- The slots of a team: group, slot number, slot. -/
def teamSlots (t : Team) : List (Nat × Nat × Slot) :=
  (upFrom 0 t.groups.length).flatMap fun i => match lget t.groups i with
    | some g => (upFrom 0 g.slots.length).map fun q => (i, q, getSlot g q)
    | none => []

/-- The sender's slot on a channel of the gang of a team, if one is bound: team, group, slot number, slot. -/
def chanSender (s : State) (k chan : Nat) : Option (Nat × Nat × Nat × Slot) :=
  ((gangTeams s k).flatMap fun m => ((getTeam s m).map fun t => (teamSlots t).map fun e => (m, e)).getD []).find?
    fun e => decide (e.2.2.2.st = .read) && e.2.2.2.multicast && decide (e.2.2.2.desc.chan = chan)

/-- A slot newly bound by the instruction at an address. -/
def boundSlot (d : Desc) (vd : Nat) (base pc : Word) (multicast : Bool) : Slot :=
  { st := if d.dir = 1 then .write else .read, vd := vd, desc := d, base := base, len := descLen d, pos := 0, slen := 0, ahead := [], written := 0,
    spare := 0, blocked := none, wanted := false, need := 0, pc := pc, multicast := multicast, ended := false }

/-- SCFG and SMC: `multicast` is SMC. -/
def bindSlot (i : Instr) (v a : BitVec 6) (q : BitVec 2) (idx : BitVec 6) (multicast : Bool) (cx : Cx) : Out :=
  let n := v.toNat
  let gang := ((invOf cx.s cx.k).map (·.gang)).getD 1
  match lget cx.kn.descs idx.toNat with
  | none => illegal cx (encode i)
  | some d =>
    if (getSlot cx.g q.toNat).st ≠ .idle ∨ !vReadOk cx.g n ∨ (cx.g.slots.any fun x => decide (x.st ≠ .idle) && decide (x.vd = n)) ∨
        (multicast ∧ (chanSender cx.s cx.k d.chan).isSome) then illegal cx (encode i)
    else if !descOk d gang ∨ (multicast ∧ d.dir ≠ 0) then illegalFormat cx (encode i)
    else ok { cx with g := putSlot (setVec cx.kn cx.g n 0) q.toNat (boundSlot d n (readS cx a.toNat) cx.g.th.pc multicast) }

/-- SCFG (R166, R360). -/
def execScfg (v a : BitVec 6) (q : BitVec 2) (idx : BitVec 6) (s : State) : Host.Outcome State Fault Refusal :=
  runGroup vecRules (.scfg v a q idx) (bindSlot (.scfg v a q idx) v a q idx false) s

/-- SMC (R170, R360). -/
def execSmc (v a : BitVec 6) (q : BitVec 2) (idx : BitVec 6) (s : State) : Host.Outcome State Fault Refusal :=
  runGroup vecRules (.smc v a q idx) (bindSlot (.smc v a q idx) v a q idx true) s

/-! ### Closing a write strip (R166, R168) -/

/-- Result of closing: the state and group, or the element and fault the close stops at. -/
inductive Closed where
  | done (cx : Cx)
  | bad (cx : Cx) (j : Nat) (f : Fate)
deriving DecidableEq, Repr

/-- Performs the pushed elements of a strip in ascending order. -/
def pushElems (x : Slot) : List Nat → Cx → Closed
  | [], cx => .done (settleCover cx)
  | e :: r, cx =>
    let w := fmtWidth x.desc.fmt
    match storeElem { cx with stream := true } (streamAddr x (x.pos + e)) w (elem cx x.vd w e) 0 with
      | .val cx1 _ => pushElems x r { cx1 with stream := false }
      | .bad cx1 f => .bad { settleCover cx1 with stream := false } e f
      | .spec => .bad cx e .stay

/-- A write strip whose elements below `j` have been performed: they are not pushed again (R168). -/
def pushedBelow (x : Slot) (j : Nat) : Slot := { x with written := setBits x.written 0 j 0 }

/-- Closes the strip of WRITE slot `q`, from the element on at which an earlier close of it stopped (R168). `keep` says that vd keeps its
value. -/
def closeStrip (cx : Cx) (q : Nat) (keep : Bool) : Closed :=
  let x := getSlot cx.g q
  if x.st ≠ .write then .done cx
  else
    match pushElems x ((upFrom 0 x.slen).filter fun e => bit x.written e) cx with
    | .done cx1 =>
      let g1 := if keep then cx1.g else setVec cx1.kn cx1.g x.vd 0
      .done { cx1 with g := putSlot g1 q { x with pos := x.pos + x.slen, slen := 0, written := 0 } }
    | .bad cx1 j f => .bad { cx1 with g := putSlot cx1.g q (pushedBelow x j) } j f

/-- Closes the WRITE slots of a list. -/
def closeStrips : List Nat → Cx → Closed
  | [], cx => .done cx
  | q :: r, cx => match closeStrip cx q false with
    | .done cx1 => closeStrips r cx1
    | b => b

/-- How an instruction ends whose close failed: RIDX names the element. -/
def closeFault (cx : Cx) (j : Nat) (f : Fate) : Out := { cx := { cx with g := { cx.g with ridx := BitVec.ofNat 64 j } }, fate := f }

/-- SDRAIN (R361). -/
def execSdrain (q : BitVec 2) (s : State) : Host.Outcome State Fault Refusal :=
  runGroup vecRules (.sdrain q) (fun cx => match closeStrip cx q.toNat false with
    | .done cx1 => ok cx1
    | .bad cx1 j f => closeFault cx1 j f) s

/-- Whether a slot receives the stream that a channel carries now: one whose sender has released it no longer does (R361). -/
def receives (chan : Nat) (x : Slot) : Bool := decide (x.st = .read) && decide (x.desc.dir = 2) && decide (x.desc.chan = chan) && !x.ended

/-- Ends the streams of a channel's receivers at the elements already delivered (R361). -/
def endReceivers (s : State) (k chan mask : Nat) : State :=
  match invOf s k with
  | none => s
  | some iv =>
    (gangTeams s k).foldl (fun s m => modTeam s m fun t =>
      if bit mask (t.tidx % iv.gang) then
        { t with groups := t.groups.map fun (g : Group) => { g with slots := g.slots.map fun x =>
            if (receives chan x) = true then { x with len := x.pos + x.ahead.length, ended := true } else x } }
      else t) s

/-- SREL (R166, R361). -/
def execSrel (q : BitVec 2) (s : State) : Host.Outcome State Fault Refusal :=
  runGroup vecRules (.srel q) (fun cx =>
    let x := getSlot cx.g q.toNat
    match x.st with
    | .idle => ok cx
    | .read =>
      let g1 := putSlot cx.g q.toNat (freeSlot x)
      if x.multicast then
        let s1 := endReceivers (putGroup cx.s cx.k cx.i g1) cx.k x.desc.chan x.desc.mask
        ok { cx with s := s1, g := (getGroup s1 cx.k cx.i).getD g1 }
      else ok { cx with g := g1 }
    | .write => match closeStrip cx q.toNat true with
      | .done cx1 => ok { cx1 with g := putSlot cx1.g q.toNat (freeSlot (getSlot cx1.g q.toNat)) }
      | .bad cx1 j f => closeFault cx1 j f) s

/-! ### The strip advance (R167) -/

/-- Elements of a slot's format one register holds. -/
def slotCap (kn : Kernel) (g : Group) (x : Slot) : Nat := capElems kn g (fmtWidth x.desc.fmt)

/-- Spare registers a READ slot needs for what is delivered to it. -/
def spareNeed (cap : Nat) (x : Slot) : Nat := if cap = 0 then 0 else ceilDiv x.ahead.length cap - 1

/-- A READ slot moves past its strip, freeing spare registers. -/
def passStrip (cap : Nat) (x : Slot) : Slot :=
  let y := { x with pos := x.pos + x.slen, ahead := x.ahead.drop x.slen, slen := 0 }
  { y with spare := Nat.min y.spare (spareNeed cap y) }

/-- Moves every READ slot past its strip; its register reads as zero until the next strip. -/
def passStrips (kn : Kernel) (g : Group) : Group :=
  (upFrom 0 4).foldl (fun g q =>
    let x := getSlot g q
    if x.st = .read ∧ x.slen ≠ 0 then putSlot (setVec kn g x.vd 0) q (passStrip (slotCap kn g x) x) else g) g

/-- What a VSETVL comes to: a strip of n elements, a wait for elements of a slot, or the fault that blocks it. -/
inductive Strip where
  | go (n : Nat)
  | wait (q need : Nat)
  | fault (q : Nat) (b : Bad)
deriving DecidableEq, Repr

/-- A wait for `need` elements of slot `q`, or the fault that blocks it with nothing ready (R168). -/
def stripWait (x : Slot) (q need : Nat) : Strip :=
  match x.blocked with
  | some b => if x.ahead = [] then .fault q b else .wait q need
  | none => .wait q need

/-- The waits on the gated READ slots of a list, in order, with n as it comes out. -/
def gatedWaits (g : Group) : List Nat → Nat → Strip
  | [], n => .go n
  | q :: r, n =>
    let x := getSlot g q
    let ready := x.ahead.length
    if x.st = .read ∧ x.desc.gate then
      if ready = 0 ∧ x.pos ≠ x.len then stripWait x q (if x.desc.full then n else 1)
      else if x.desc.full then (if ready < n then stripWait x q n else gatedWaits g r n)
      else gatedWaits g r (Nat.min n ready)
    else gatedWaits g r n

/-- The waits on the ungated READ slots. -/
def ungatedWaits (g : Group) (n : Nat) : List Nat → Strip
  | [] => .go n
  | q :: r =>
    let x := getSlot g q
    if x.st = .read ∧ !x.desc.gate ∧ x.ahead.length < Nat.min n (x.len - x.pos) then stripWait x q (Nat.min n (x.len - x.pos)) else ungatedWaits g n r

/-- n before the waits: the request, VLMAX and what remains of each gated stream. -/
def stripCap (g : Group) (n : Nat) : Nat :=
  g.slots.foldl (fun n x => if x.st ≠ .idle ∧ x.desc.gate then Nat.min n (x.len - x.pos) else n) n

/-- What a VSETVL with request `req` comes to once its write strips are closed and its read strips passed. -/
def stripOf (cx : Cx) (req : Nat) : Strip :=
  match gatedWaits cx.g (upFrom 0 4) (stripCap cx.g (Nat.min req (cxVlmax cx))) with
  | .go n => ungatedWaits cx.g n (upFrom 0 4)
  | r => r

/-- Gives every slot its strip of a VSETVL that sets VLEN to n. -/
def takeStrips (kn : Kernel) (g : Group) (n : Nat) : Group :=
  (upFrom 0 4).foldl (fun g q =>
    let x := getSlot g q
    let m := Nat.min n (x.len - x.pos)
    let y := { x with slen := m, wanted := false }
    match x.st with
    | .idle => g
    | .read => putSlot (setVec kn g x.vd (packElems (fmtWidth x.desc.fmt) ((upFrom 0 m).zip x.ahead)).2) q y
    | .write => putSlot (setVec kn g x.vd 0) q { y with written := 0 }) g

/-- The request, VLMAX and what remains of each gated stream behind its present strip. -/
def stripReach (g : Group) (n : Nat) : Nat :=
  g.slots.foldl (fun n x => if x.st ≠ .idle ∧ x.desc.gate then Nat.min n (x.len - (x.pos + x.slen)) else n) n

/-- Whether a VSETVL that reaches `n` elements gates or waits on a receiving slot whose sender has another format or length (R170). -/
def receiverWrong (s : State) (k n : Nat) (x : Slot) : Bool :=
  receives x.desc.chan x && (x.desc.gate || decide (n ≠ 0)) &&
    (match chanSender s k x.desc.chan with
      | some (_, _, _, y) => decide (y.desc.fmt ≠ x.desc.fmt) || decide (y.len ≠ x.len)
      | none => false)

/-- The slot a VSETVL now waits on, and no other. -/
def awaitSlot (g : Group) (q : Nat) (f : Slot → Slot) : Group :=
  let g1 := { g with slots := g.slots.map fun x => { x with wanted := false } }
  putSlot g1 q (f (getSlot g1 q))

/-- VSETVL with a request (R307). -/
def advanceStrips (i : Instr) (d : BitVec 6) (req : Nat) (cx : Cx) : Out :=
  let finish := fun (cx : Cx) (n : Nat) => okWrite { cx with g := putVlen cx.g n } d.toNat (BitVec.ofNat 64 n) 0
  if cx.g.slots.all fun x => x.st = .idle then finish cx (Nat.min req (cxVlmax cx))
  else if cx.g.slots.any fun x => decide (x.st ≠ .idle) && decide (fmtWidth x.desc.fmt ≠ elemWidth cx.g) then illegalFormat cx (encode i)
  else if cx.g.slots.any (receiverWrong cx.s cx.k (stripReach cx.g (Nat.min req (cxVlmax cx)))) then illegalFormat cx (encode i)
  else match closeStrips (upFrom 0 4) cx with
    | .bad cx1 j f => closeFault cx1 j f
    | .done cx1 =>
      let cx2 := { cx1 with g := passStrips cx1.kn cx1.g }
      match stripOf cx2 req with
      | .go n => finish { cx2 with g := takeStrips cx2.kn cx2.g n } n
      | .wait q need => { cx := { cx2 with g := awaitSlot cx2.g q fun x => { x with wanted := true, need := need } }, fate := .stay }
      | .fault q b => { cx := { cx2 with g := awaitSlot cx2.g q fun x => { x with blocked := none, wanted := true, need := 1 } }, fate := badFate b 0 }

/-- VSETVL (R307). -/
def execVsetvl (d a : BitVec 6) (s : State) : Host.Outcome State Fault Refusal :=
  runGroup vecRules (.vsetvl d a) (fun cx => advanceStrips (.vsetvl d a) d (readS cx a.toNat).toNat cx) s

/-- VSETVLI (R307). -/
def execVsetvli (d : BitVec 6) (i : BitVec 12) (s : State) : Host.Outcome State Fault Refusal :=
  runGroup vecRules (.vsetvli d i) (advanceStrips (.vsetvli d i) d i.toNat) s

/-- VCFG (R105, R306): every vector register zero, VLEN 0. -/
def execVcfg (n g : BitVec 2) (s : State) : Host.Outcome State Fault Refusal :=
  runGroup vecRules (.vcfg n g) (fun cx =>
    if regBytes cx.kn (8 * 2 ^ n.toNat) (2 ^ g.toNat) < 8 ∨ (cx.g.slots.any fun x => decide (x.st ≠ .idle)) then illegal cx (encode (.vcfg n g))
    else
      let g1 := (upFrom 0 64).foldl (fun h r => pokeGroup h (.v r) (2 ^ (8 * 32768) - 1) 0) cx.g
      let g2 := putVlen { g1 with v := [] } 0
      ok { cx with g := { g2 with vtype := BitVec.ofNat 64 (setBits cx.g.vtype.toNat 8 4 (n.toNat + 4 * g.toNat)) } }) s

/-! ### The access engine (R166, R168 to R170) -/

/-- Spare registers of a group (R107). -/
def sparePool (kn : Kernel) (g : Group) : Nat :=
  let one := grpFactor g * regBytes kn (nvCount g) (grpFactor g)
  if one = 0 then 0 else (4096 - nvCount g * one) / one

/-- Whether a slot has room for its next element in the registers it holds (R169). -/
def slotRoom (kn : Kernel) (g : Group) (x : Slot) : Bool := decide (x.ahead.length < (1 + x.spare) * slotCap kn g x)

/-- Whether a READ slot waits for a spare register. -/
def slotWaits (kn : Kernel) (g : Group) (x : Slot) : Bool :=
  decide (x.st = .read) && !slotRoom kn g x && decide (x.pos + x.ahead.length < x.len) && x.blocked.isNone

/-- The group with room for the next element of slot `q`: a spare register goes to the waiting slot that holds fewest. -/
def makeRoom (kn : Kernel) (g : Group) (q : Nat) : Option Group :=
  let x := getSlot g q
  if slotRoom kn g x then some g
  else
    let used := g.slots.foldl (fun a y => a + y.spare) 0
    let first := (upFrom 0 4).all fun p =>
      let y := getSlot g p
      !slotWaits kn g y || decide (p = q) || decide (x.spare < y.spare) || (decide (x.spare = y.spare) && decide (q < p))
    if used < sparePool kn g ∧ first then some (putSlot g q { x with spare := x.spare + 1 }) else none

/-- The slots that receive element `x` of a multicast, of the present members that MASK names: team, group, slot number. -/
def receivers (s : State) (k : Nat) (x : Slot) (n : Nat) : List (Nat × Nat × Nat) :=
  match invOf s k with
  | none => []
  | some iv =>
    (gangTeams s k).flatMap fun m => match getTeam s m with
      | some t =>
        if bit x.desc.mask (t.tidx % iv.gang) then
          ((teamSlots t).filter fun e => receives x.desc.chan e.2.2 &&
            decide (e.2.2.pos + e.2.2.ahead.length = n) && decide (e.2.2.desc.fmt = x.desc.fmt) && decide (e.2.2.len = x.len)).map fun e => (m, e.1, e.2.1)
        else []
      | none => []

/-- Whether every present member that MASK names has bound the channel. -/
def allBound (s : State) (k : Nat) (x : Slot) : Bool :=
  match invOf s k with
  | none => true
  | some iv =>
    (gangTeams s k).all fun m => match getTeam s m with
      | some t => !bit x.desc.mask (t.tidx % iv.gang) ||
          (teamSlots t).any fun e => receives x.desc.chan e.2.2
      | none => true

/-- Makes room in every receiving slot, or none if one of them has none. -/
def roomEverywhere (kn : Kernel) : List (Nat × Nat × Nat) → State → Option State
  | [], s => some s
  | (m, i, q) :: r, s => match getGroup s m i with
    | some g => (makeRoom kn g q).bind fun g1 => roomEverywhere kn r (putGroup s m i g1)
    | none => none

/-- Appends an element to a slot. -/
def appendElem (s : State) (v : Nat) (e : Nat × Nat × Nat) : State :=
  match getGroup s e.1 e.2.1 with
  | some g => putGroup s e.1 e.2.1 (putSlot g e.2.2 { getSlot g e.2.2 with ahead := (getSlot g e.2.2).ahead ++ [v] })
  | none => s

/-- What the engine's read of an element gives. -/
def readStream (cx : Cx) (x : Slot) (n : Nat) : Got :=
  loadElem { cx with stream := true, awaited := x.wanted && decide (n < x.pos + x.need), g := { cx.g with txn := none } } (streamAddr x n) (fmtWidth x.desc.fmt) 0 (decide (n = x.pos) && x.wanted)

/-- The fault that stops a slot. -/
def slotBad : Fate → Option Bad
  | .trap c v => some (.trap c v)
  | .page va kind acc _ => some (.page va kind acc)
  | _ => none

/-- STREAM_ELEMENT_DELIVER (R166, R168 to R170): the engine delivers the next element of a READ slot within its run-ahead,
and on a multicast to every receiver; a fault stops the slot. -/
def execStreamElementDeliver (team group slot : Nat) (s : State) : Host.Outcome State Fault Refusal :=
  match getTeam s team, cxFor s team group with
  | some t, some cx =>
    let x := getSlot cx.g slot
    let n := x.pos + x.ahead.length
    if t.saved ∨ 4 ≤ slot ∨ x.st ≠ .read ∨ x.desc.dir = 2 ∨ x.blocked.isSome ∨ x.len ≤ n then .next s
    else
      let to' := if x.multicast then receivers s team x n else []
      if x.multicast ∧ !allBound s team x then .next s
      else match roomEverywhere cx.kn ((team, group, slot) :: to') s with
        | none => .next s
        | some s1 =>
          match readStream { cx with s := s1 } x n with
          | .val cx1 v => .next (((team, group, slot) :: to').foldl (fun s e => appendElem s v e) cx1.s)
          | .spec => .next s
          | .bad cx1 .lost => .next (beginKill cx1.s cx.cn)
          | .bad cx1 f => .next (match getGroup cx1.s team group with
              | some g => putGroup cx1.s team group (putSlot g slot { getSlot g slot with blocked := slotBad f })
              | none => cx1.s)
  | _, _ => .next s

end Sys2Proof.Machine
end

