-- ==== Sys2Proof/Machine/Engines.lean ====
section
/-! DEFINITION. The copy engine and tokens (R139, R140, R171, R172, R357, R362, R363), and the tag table of the scratchpad (R175, R176, R364). -/
namespace Sys2Proof.Machine

/-! ### Operand records (R149) -/

def recField (r : BitVec 256) (lo n : Nat) : Nat := bits r.toNat lo n
def recOffset (r : BitVec 256) : Nat := recField r 0 19
def recMember (r : BitVec 256) : Nat := recField r 19 3
def recPitch (r : BitVec 256) : Nat := recField r 32 20
def recFmt (r : BitVec 256) : Nat := recField r 52 4
def recExtent (r : BitVec 256) : Nat := recField r 64 20
def recRows (r : BitVec 256) : Nat := recField r 96 16
def recCols (r : BitVec 256) : Nat := recField r 112 16
def recSbase (r : BitVec 256) : Nat := recField r 128 57
def recShift (r : BitVec 256) : Nat := recField r 185 6
def recEorg (r : BitVec 256) : Nat := recField r 192 36
def recEld (r : BitVec 256) : Nat := recField r 228 24

/-- Whether the reserved fields of a record are zero. -/
def recReservedOk (r : BitVec 256) : Bool :=
  decide (recField r 22 10 = 0) && decide (recField r 56 8 = 0) && decide (recField r 84 4 = 0) && decide (recField r 191 1 = 0) && decide (recField r 252 4 = 0)

/-- Global element number of element (i, j) of a record's view (R357). -/
def recElem (r : BitVec 256) (i j : Nat) : Nat := recEorg r + i * recEld r + j

/-- Scratchpad bit offset of element (i, j) of width w (R150). -/
def recBit (r : BitVec 256) (w i j : Nat) : Nat := 8 * (recOffset r + i * recPitch r) + j * w

/-- VA of the header of element (i, j) (R155). -/
def headerVa (r : BitVec 256) (i j : Nat) : Word := BitVec.ofNat 64 (recSbase r + recElem r i j / 2 ^ recShift r * 2)

/-! ### Scratchpad by bits -/

/-- `w` bits of a scratchpad allocation. -/
def spadBits (t : Team) (b w : Nat) : Nat := bits (bytesNat (spadBytes t (b / 8) (ceilDiv (b % 8 + w) 8))) (b % 8) w

/-- Writes `w` bits of a scratchpad allocation, merged with the bits around them (R44, R131). -/
def spadPutBits (t : Team) (b w v : Nat) : Team :=
  let n := ceilDiv (b % 8 + w) 8
  spadWrite t (b / 8) (natBytes (setBits (bytesNat (spadBytes t (b / 8) n)) (b % 8) w v) n)

/-- The 8-byte units that `n` bytes from an offset meet. -/
def spadUnits (off n : Nat) : List Nat := upFrom (off / 8) ((off + n - 1) / 8 - off / 8 + 1)

/-- Marks the 8-byte units as poisoned, or clears those wholly written. -/
def spadMark (t : Team) (off n : Nat) (poison : Bool) : Team :=
  if poison then { t with spadPoison := (t.spadPoison ++ spadUnits off n).eraseDups }
  else { t with spadPoison := t.spadPoison.filter fun u => !(decide (off ≤ 8 * u) && decide (8 * u + 8 ≤ off + n)) }

/-- Writes the bits under a mask of `w` bits of a scratchpad allocation. -/
def spadPutMask (t : Team) (b w mask v : Nat) : Team := if mask = 0 then t else spadPutBits t b w (merge (spadBits t b w) mask v)

/-- The bits of element (i, j) of a view of `nr` rows and `nc` columns that no higher row covers: where rows overlap each byte keeps
the element of the higher row (R150). -/
def ownBits (r : BitVec 256) (nr nc w i j : Nat) : Nat :=
  if nc * w ≤ 8 * recPitch r then lowMask w
  else
    let b := recBit r w i j
    (upFrom 0 w).foldl (fun m x =>
      if (upFrom (i + 1) (nr - 1 - i)).any fun i' => decide (recBit r w i' 0 ≤ b + x) && decide (b + x < recBit r w i' nc) then m else setBit m x true) 0

/-! ### One element of an engine operation (R172) -/

/-- What an access of the engine gives; a fault comes with the address of the access. -/
inductive Eng (α : Type) where
  | ok (s : State) (v : α)
  | bad (s : State) (b : Bad) (va : Word)
  | lost (s : State)
deriving DecidableEq, Repr

/-- Resolves an address for the engine; a store is performed once every byte it writes is translated. -/
def engResolve (s : State) (q : Asker) (va : Word) (n : Nat) (u : Use) : Eng Loc :=
  match resolve s q va n u 0 with
  | (s1, .at l) => .ok s1 l
  | (s1, .bad b) => .bad s1 b va
  | (s1, .lost) => .lost s1

/-- Goes on with what an access of the engine gave. -/
def Eng.then {α β : Type} (r : Eng α) (f : State → α → Eng β) : Eng β :=
  match r with
  | .ok s v => f s v
  | .bad s b va => .bad s b va
  | .lost s => .lost s

/-- Reads `n` bytes: the number and whether it is poisoned, which the engine passes on (R374). -/
def engRead (s : State) (q : Asker) (va : Word) (n : Nat) : Eng (Nat × Bool) :=
  (engResolve s q va n .read).then fun s1 l => let r := locLoad s1 l n; .ok r.1 (r.2, poisoned s1 l n)

/-- Reads `w` bits at a bit address. -/
def engReadBits (s : State) (q : Asker) (b w : Nat) : Eng (Nat × Bool) :=
  let (va, o) := byteOf b
  if w ≥ 8 then engRead s q va (w / 8)
  else (engRead s q va 1).then fun s1 (lo, p) =>
    if o + w ≤ 8 then .ok s1 (bits lo o w, p)
    else (engRead s1 q (va + 1) 1).then fun s2 (hi, p2) => .ok s2 (bits (lo + 256 * hi) o w, p || p2)

/-- The bits of a poisoned line written so far, as a mask, with `w` more from bit `o` of the byte at `pa` on. -/
def coverAdd (cover : Tbl Nat) (pa o w : Nat) : Tbl Nat := tput cover (pa / 64) (tgetD cover (pa / 64) 0 ||| (2 ^ w - 1) * 2 ^ (8 * (pa % 64) + o))

/-- Writes `n` bytes at a resolved place, of which bits `o` to `o + w - 1` are the data's, with the poison the data carries (R386); its leaf
gets D first (R195). Answers the bits of poisoned lines written so far; a line wholly written loses its poison (DESIGN CHOICE, log
entry 2). -/
def engWriteAt (s : State) (q : Asker) (cover : Tbl Nat) (l : Loc) (n o w v : Nat) (poison : Bool) : State × Tbl Nat :=
  let s0 := match l with
    | .glob _ gva _ => dirtyAt s (coreOf s q.team) q.ctx gva
    | _ => s
  let s1 := locWrite s0 q l n v
  match l with
  | .glob pa _ _ =>
    if poison then ({ s1 with poison := if s1.poison.contains (pa / 64) then s1.poison else s1.poison ++ [pa / 64] }, cover)
    else if s1.poison.contains (pa / 64) then
      let c := coverAdd cover pa o w
      if tgetD c (pa / 64) 0 = 2 ^ 512 - 1 then ({ s1 with poison := s1.poison.filter fun x => x ≠ pa / 64 }, tdel c (pa / 64)) else (s1, c)
    else (s1, cover)
  | .spad k off => (modTeam s1 k fun t => spadMark t off n poison, cover)
  | .gone _ => (s1, cover)

/-- Writes `n` bytes at a VA. -/
def engWrite (s : State) (q : Asker) (cover : Tbl Nat) (va : Word) (n v : Nat) (poison : Bool) : Eng (Tbl Nat) :=
  (engResolve s q va n .stage).then fun s1 l => let r := engWriteAt s1 q cover l n 0 (8 * n) v poison; .ok r.1 r.2

/-- Writes bits `o` to `o + n - 1` of a byte, merged with its other bits (R44, R131). -/
def engMerge (s : State) (q : Asker) (cover : Tbl Nat) (l : Loc) (o n v : Nat) : State × Tbl Nat :=
  engWriteAt s q cover l 1 o n (setBits (locRead s l 1) o n v) (match l with | .spad .. => poisoned s l 1 | _ => false)

/-- Writes `w` bits at a bit address. -/
def engWriteBits (s : State) (q : Asker) (cover : Tbl Nat) (b w v : Nat) : Eng (Tbl Nat) :=
  let (va, o) := byteOf b
  if w ≥ 8 then engWrite s q cover va (w / 8) v false
  else (engResolve s q va 1 .stage).then fun s1 l =>
    if o + w ≤ 8 then let r := engMerge s1 q cover l o w v; .ok r.1 r.2
    else (engResolve s1 q (va + 1) 1 .stage).then fun s2 l2 =>
      let r := engMerge s2 q cover l o (8 - o) v
      let r2 := engMerge r.1 q r.2 l2 0 (o + w - 8) (v >>> (8 - o))
      .ok r2.1 r2.2

/-- Bytes a CPY moves at a time (R141). -/
def cpyUnit (dst src : Word) (len : Nat) : Nat := if dst.toNat % 8 = 0 ∧ src.toNat % 8 = 0 ∧ len % 8 = 0 then 8 else 1

/-- Elements of an operation. -/
def engTotal (op : EngOp) : Nat :=
  match op.kind with
  | .cpy d s len => len / cpyUnit d s len
  | .tld _ _ _ cells _ => cells.length
  | .tst _ _ _ vals headers => vals.length + headers.length

/-- The asker of an operation: TLD and TST address global memory alone (R357) (log entry 18). -/
def engAsker (s : State) (k : Nat) (op : EngOp) : Asker :=
  { ctx := ctxNum s k, team := k, agent := op.agent, pins := ((getGroup s k op.agent).map (·.pins)).getD []
    glob := match op.kind with | .cpy .. => false | .tld .. => true | .tst .. => true }

/-- Reads the header of an element into the team's scale cache (R155). A poisoned header is not held: the multiply that needs it
reads it again, and consumes the poison (R374, R386). -/
def engHeader (s : State) (k : Nat) (q : Asker) (va : Word) : Eng Unit :=
  (engRead s q va 2).then fun s1 (h, p) =>
    .ok (modTeam s1 k fun t => { t with seq := t.seq.map fun x =>
      { x with cache := if p then tdel x.cache va.toNat else tput x.cache va.toNat (BitVec.ofNat 16 h) } }) ()

/-- The team whose allocation a record of a team names. -/
def recTeam (s : State) (k : Nat) (r : BitVec 256) : Nat :=
  match getTeam s k, invOf s k with
  | some t, some iv => gangMember iv t (recMember r)
  | _, _ => k

/-- Reads what the present element of a CPY or TLD moves, a TLD's header with it (R155, R172). -/
def engFetch (s : State) (k : Nat) (op : EngOp) : Eng (Nat × Bool) :=
  let q := engAsker s k op
  match op.kind with
  | .cpy d src len => let n := cpyUnit d src len; engRead s q (src + BitVec.ofNat 64 (op.pos * n)) n
  | .tld r base fmt cells headers =>
    let w := fmtWidth fmt
    let (i, j) := (lget cells op.pos).getD (0, 0)
    (engReadBits s q (8 * base.toNat + recElem r i j * w) w).then fun s1 v =>
      if headers then (engHeader s1 k q (headerVa r i j)).then fun s2 _ => .ok s2 v else .ok s1 v
  | .tst .. => .ok s (0, false)

/-- The bit address and width of what an element of a TST writes, and its value. -/
def tstPlace (r : BitVec 256) (base : Word) (fmt : Nat) (vals headers : List (Nat × Nat)) (pos : Nat) : Option (Nat × Nat × Nat) :=
  let w := fmtWidth fmt
  if pos < vals.length then (lget vals pos).map fun e => (8 * base.toNat + e.1 * w, w, e.2)
  else (lget headers (pos - vals.length)).map fun e => (8 * (recSbase r + e.1 * 2), 16, e.2)

/-- Writes the present element of an operation, of a CPY or TLD the value it has read; answers its cover. -/
def engPut (s : State) (k : Nat) (op : EngOp) (v : Nat × Bool) : Eng (Tbl Nat) :=
  let q := engAsker s k op
  match op.kind with
  | .cpy d src len => let n := cpyUnit d src len; engWrite s q op.cover (d + BitVec.ofNat 64 (op.pos * n)) n v.1 v.2
  | .tld r _ fmt cells _ =>
    let w := fmtWidth fmt
    let (i, j) := (lget cells op.pos).getD (0, 0)
    let rows := cells.foldl (fun a e => Nat.max a (e.1 + 1)) 0
    let cols := cells.foldl (fun a e => Nat.max a (e.2 + 1)) 0
    let own := ownBits r rows cols w i j
    let b := recBit r w i j
    .ok (modTeam s (recTeam s k r) fun t => if own = 0 then t else spadMark (spadPutMask t b w own v.1) (b / 8) (ceilDiv (b % 8 + w) 8) v.2) op.cover
  | .tst r base fmt vals headers =>
    match tstPlace r base fmt vals headers op.pos with
    | some (b, w, v) => engWriteBits s q op.cover b w v
    | none => .ok s op.cover

/-- Whether a bit address of a context lies on an HS page. -/
def onHs (s : State) (cn b : Nat) : Bool :=
  ((getCtx s cn).bind fun c => peek (tables s) c.root (b / 8)).any fun p => p.2.getLsbD 5

/-- The bit addresses an operation has yet to write, of a TST. -/
def tstLeft (op : EngOp) : List Nat :=
  match op.kind with
  | .tst r base fmt vals headers => (upFrom op.pos (engTotal op - op.pos)).filterMap fun n => (tstPlace r base fmt vals headers n).map (·.1)
  | _ => []

/-- Whether the next write of an operation waits for an earlier TST of its stream: their writes to HS pages are performed in program
order (R144). -/
def hsWaits (s : State) (cn : Nat) (t : Team) (op : EngOp) : Bool :=
  ((tstLeft op).head?.any (onHs s cn)) &&
    (t.ops.takeWhile fun o => !(decide (o.agent = op.agent) && decide (o.tok = op.tok))).any fun o => (tstLeft o).any (onHs s cn)

/-! ### Tokens (R140, R171) -/

/-- Whether an operation is that of a token of an agent. -/
def opIs (a tok : Nat) (op : EngOp) : Bool := decide (op.agent = a) && decide (op.tok = tok)

def getOp (s : State) (k a tok : Nat) : Option EngOp := (getTeam s k).bind fun t => t.ops.find? (opIs a tok)

def putOp (s : State) (k : Nat) (op : EngOp) : State :=
  modTeam s k fun t => { t with ops := t.ops.map fun o => if opIs op.agent op.tok o then op else o }

/-- Bit n of a token set. -/
def tokBit (n : Nat) : BitVec 8 := BitVec.ofNat 8 (2 ^ n)

/-- A token completes: PEND clears, ERR is set where the operation failed, and the stream that waits for the last of its
tokens goes on (R140, R171). -/
def finishToken (s : State) (k a tok : Nat) (err : Bool) : State :=
  let s1 := modTeam s k fun t => { t with ops := t.ops.filter fun o => !opIs a tok o }
  let s2 := modThread s1 k a fun th => { th with pend := th.pend &&& ~~~tokBit tok, err := if err then th.err ||| tokBit tok else th.err }
  match getThread s2 k a with
  | some th => (match waitOf th with
      | .waitToken m => if th.pend &&& m = 0 then completeWait s2 k a else s2
      | _ => s2)
  | none => s2

/-- CODE of an ENGINE error record (R417) for a trap condition. -/
def engCode (cause : BitVec 8) : Nat := if cause = 4 then 9 else 8

/-- An operation ends with ERR (R172): its error record names the address, the agent, the token and the team. -/
def failOp (s : State) (k : Nat) (op : EngOp) (code : Nat) (va : Word) : State :=
  match getTeam s k with
  | some t =>
    let s1 := errorRecord s (ctxNum s k) 0x07 code (invNum t.inv) va.toNat (op.agent + 256 * op.tok) t.tidx
    finishToken s1 k op.agent op.tok true
  | none => s

/-- AGENT of a fault-queue entry for an engine operation (R203). -/
def engAgentBits (op : EngOp) : Nat := op.agent + 32 + 64 * op.tok

/-- A recoverable fault of an operation: it waits for its entry (R172). -/
def parkOp (s : State) (k : Nat) (op : EngOp) (va : Word) (kind access : Nat) : State :=
  match getTeam s k with
  | some t =>
    faultReport (putOp s k { op with parked := true }) (ctxNum s k)
      { who := .engine k op.agent op.tok, va := va, seq := 0, tidx := t.tidx, inv := invNum t.inv, agentBits := engAgentBits op, elem := 0,
        kind := kind, access := access }
  | none => s

/-- Takes an operation on with what its access gave: it parks on a recoverable fault, or ends with ERR on any other (R172). -/
def engNext {α : Type} (team : Nat) (op : EngOp) (r : Eng α) (f : State → α → State) : State :=
  match r with
  | .ok s v => f s v
  | .bad s (.page va kind acc) _ => parkOp s team op va kind acc
  | .bad s (.trap c _) va => failOp s team op (engCode c) va
  | .lost s => beginKill s (ctxNum s team)

/-- Whether an operation reads its element before it writes it, as an access of its own (R139). -/
def engReads (op : EngOp) : Bool := match op.kind with | .tst .. => false | _ => true

/-- ENGINE_ELEMENT_TRANSFER (R139, R172): the next element of an operation is read, or what was read is written. An operation reads an
element only once the one before it is written (DESIGN CHOICE, log entry 110). -/
def execEngineElementTransfer (team agent tok : Nat) (s : State) : Host.Outcome State Fault Refusal :=
  match getTeam s team, getOp s team agent tok with
  | some t, some op =>
    if t.saved ∨ op.parked ∨ engTotal op ≤ op.pos then .next s
    else if hsWaits s (ctxNum s team) t op then .next s
    else match op.held, engReads op with
      | none, true => .next (engNext team op (engFetch s team op) fun s1 v => putOp s1 team { op with held := some v })
      | h, _ => .next (engNext team op (engPut s team op (h.getD (0, false))) fun s1 c => putOp s1 team { op with pos := op.pos + 1, held := none, cover := c })
  | _, _ => .next s

/-- TOKEN_COMPLETE (R140): an operation with every element performed completes its token. -/
def execTokenComplete (team agent tok : Nat) (s : State) : Host.Outcome State Fault Refusal :=
  match getTeam s team, getOp s team agent tok with
  | some t, some op => .next (if t.saved ∨ op.parked ∨ op.pos < engTotal op then s else finishToken s team agent tok false)
  | _, _ => .next s

/-- An operation that an instruction at an address starts under a token. -/
def freshOp (a tok : Nat) (kind : EngKind) (pc : Word) : EngOp :=
  { agent := a, tok := tok, kind := kind, pos := 0, parked := false, held := none, pc := pc, cover := [] }

/-- Starts an operation under a token, or completes the token at once when it has no element. -/
def startOp (s : State) (k a tok : Nat) (kind : EngKind) (pc : Word) : State :=
  let op := freshOp a tok kind pc
  if engTotal op = 0 then s else modTeam s k fun t => { t with ops := t.ops ++ [op] }

/-- PEND of a thread once an operation starts. -/
def pendWith (th : Thread) (tok : Nat) (kind : EngKind) : Thread :=
  if engTotal (freshOp 0 tok kind 0) = 0 then th else { th with pend := th.pend ||| tokBit tok }

/-- Whether a range of a CPY lies in the scratchpad window and breaks R249 (DEDUCED, log entry 18). -/
def windowBad (s : State) (k : Nat) (va : Word) (len : Nat) : Bool :=
  decide (len ≠ 0) && inWindow va.toNat && (match resolveWindow s k va.toNat len with
    | .bad _ => true
    | _ => false)

/-- CPY (R362), of a group or, on k registers, the sequencer. -/
def execCpy (d a b : BitVec 6) (t : BitVec 3) (s : State) : Host.Outcome State Fault Refusal :=
  let i := Instr.cpy d a b t
  let tok := t.toNat
  runBoth {} i
    (fun cx =>
      let len := (readS cx b.toNat).toNat
      let dst := readS cx d.toNat
      let src := readS cx a.toNat
      let kind := EngKind.cpy dst src len
      if 2 ^ 32 ≤ len then illegal cx (encode i)
      else if windowBad cx.s cx.k dst len ∨ windowBad cx.s cx.k src len then { cx := cx, fate := .trap 5 1 }
      else if cx.g.th.pend.getLsbD tok then { cx := cx, fate := .stay }
      else ok (withTh { cx with s := startOp cx.s cx.k cx.i tok kind cx.g.th.pc } (pendWith cx.g.th tok kind)))
    (fun sx =>
      let len := (readX sx.q.th b.toNat).toNat
      let dst := readX sx.q.th d.toNat
      let src := readX sx.q.th a.toNat
      let kind := EngKind.cpy dst src len
      if !kOk [d, a, b] ∨ 2 ^ 32 ≤ len then illegalSeq sx (encode i)
      else if windowBad sx.s sx.k dst len ∨ windowBad sx.s sx.k src len then { sx := sx, fate := .trap 5 1 }
      else if sx.q.th.pend.getLsbD tok then { sx := sx, fate := .stay }
      else okSeq (withSeqTh { sx with s := startOp sx.s sx.k 16 tok kind sx.q.th.pc } (pendWith sx.q.th tok kind))) s

/-- TWAIT (R363). -/
def execTwait (w : BitVec 8) (s : State) : Host.Outcome State Fault Refusal :=
  runBoth {} (.twait w)
    (fun cx => if cx.g.th.pend &&& w = 0 then ok cx else { cx := cx, fate := .park (.waitToken w) })
    (fun sx => if sx.q.th.pend &&& w = 0 then okSeq { sx with q := { sx.q with cache := if w = 0 then sx.q.cache else [] } }
      else { sx := sx, fate := .park (.waitToken w) }) s

/-- TPOLL (R363): reads TOKS, clears ERR for the mask, acquires its completed tokens. -/
def execTpoll (d : BitVec 6) (w : BitVec 8) (s : State) : Host.Outcome State Fault Refusal :=
  let i := Instr.tpoll d w
  runBoth {} i
    (fun cx => okWrite (withTh cx { cx.g.th with err := cx.g.th.err &&& ~~~w }) d.toNat (toksWord cx.g.th) 0)
    (fun sx =>
      if !kOk [d] then illegalSeq sx (encode i)
      else
        let th := sx.q.th
        let q := { sx.q with cache := if w &&& ~~~th.pend = 0 then sx.q.cache else [], th := { th with err := th.err &&& ~~~w } }
        okWriteSeq { sx with q := q } d.toNat (toksWord th) 0) s

/-! ### The tag table (R175, R364) -/

/-- The line an address names: VA bits 56:8. -/
def tagLine (va : Word) : Nat := bits va.toNat 8 49

/-- The team of a group. -/
def cxTeam (cx : Cx) : Option Team := getTeam cx.s cx.k

/-- SPLK (R364). -/
def execSplk (d a : BitVec 6) (s : State) : Host.Outcome State Fault Refusal :=
  runGroup {} (.splk d a) (fun cx =>
    let slot := (cxTeam cx).bind fun t => tget t.tags (tagLine (readS cx a.toNat))
    okWrite cx d.toNat (BitVec.ofNat 64 (slot.getD 0xFFFFFFFF)) 0) s

/-- What SPINS does with a team's entries: the entries and the result. -/
def spins (t : Team) (spad line slot : Nat) : Team × Nat :=
  if slot % 256 ≠ 0 ∨ spad * 4096 ≤ slot then (t, 2)
  else if (tget t.tags line).isNone ∧ 8 * spad ≤ t.tags.length then (t, 1)
  else ({ t with tags := tput t.tags line slot }, 0)

/-- SPINS (R175, R364). -/
def execSpins (d a b : BitVec 6) (s : State) : Host.Outcome State Fault Refusal :=
  runGroup {} (.spins d a b) (fun cx =>
    match cxTeam cx, invOf cx.s cx.k with
    | some t, some iv =>
      let r := spins t iv.spad (tagLine (readS cx a.toNat)) (readS cx b.toNat).toNat
      okWrite { cx with s := modTeam cx.s cx.k fun _ => r.1 } d.toNat (BitVec.ofNat 64 r.2) 0
    | _, _ => ok cx) s

/-- SPINV (R364). -/
def execSpinv (a : BitVec 6) (s : State) : Host.Outcome State Fault Refusal :=
  runGroup {} (.spinv a) (fun cx =>
    ok { cx with s := modTeam cx.s cx.k fun t => { t with tags := tdel t.tags (tagLine (readS cx a.toNat)) } }) s

/-- SPINV.ALL (R364). -/
def execSpinvAll (s : State) : Host.Outcome State Fault Refusal :=
  runGroup {} .spinvAll (fun cx => ok { cx with s := modTeam cx.s cx.k fun t => { t with tags := [] } }) s

end Sys2Proof.Machine
end

