-- ==== Sys2Proof/Machine/Pages.lean ====
section
/-! DEFINITION. The fault queue's resolution (R203 to R205), invalidation (R206, R207) and migration (R208). -/
namespace Sys2Proof.Machine

/-! ### Resolving faults (R205) -/

/-- The invocation a MIGREQ entry was posted for, if it is still that one: a later one of the same number has another place in the
arbiter's order. -/
def boardInv (s : State) (ik order : Nat) : Option Invoc := (getInv s ik).bind fun iv => if iv.order = order then some iv else none

/-- Ends an invocation on the scoreboard with BAD-HANDLE (R93). -/
def failBoard (s : State) (ik order : Nat) : State :=
  match boardInv s ik order with
  | some iv => if iv.st = .waitInput ∨ iv.st = .waitSpace then endInvocation s ik 3 0 0 0 else s
  | none => s

/-- The page an invocation asked for is examined again (R91). -/
def retryBoard (s : State) (ik order va : Nat) : State :=
  match boardInv s ik order with
  | some iv =>
    advanceInv (trackNow (modInv s ik fun iv => { iv with asked := iv.asked.filter fun p => !(decide (p.1 ≤ va) && decide (va < p.1 + p.2)) }) iv.ctx) ik
  | none => s

/-- Whether an agent still waits for a fault-queue entry. -/
def awaitsEntry (th : Thread) : Bool := decide (th.run = .parkedFault) && decide (th.park = .entry)

/-- A fault is resolved with RETRY: the agent becomes READY, the operation continues, the page is examined again. -/
def retryFault (s : State) (e : FaultEntry) : State :=
  match e.who with
  | .agent k a => if ((getThread s k a).map awaitsEntry).getD false then modThread s k a (resumeThread a) else s
  | .engine k a tok => modTeam s k fun t => { t with ops := t.ops.map fun o => if o.agent = a ∧ o.tok = tok then { o with parked := false } else o }
  | .board ik order => retryBoard s ik order e.va.toNat

/-- A fault is resolved with FAIL: the page-fault trap, the token with ERR, the invocation FAULTED. -/
def failFault (s : State) (e : FaultEntry) : State :=
  match e.who with
  | .agent k a =>
    (match getThread s k a with
      | some th => if awaitsEntry th then takeTrap s k a 0x0A e.va (th.inBlock.getD th.pc) th.inBlock else s
      | none => s)
  | .engine k a tok =>
    (match getOp s k a tok with
      | some op => if op.parked then failOp s k op e.kind e.va else s
      | none => s)
  | .board ik order => failBoard s ik order

/-- Whether the unit that the resolution of a fault reaches is being rebuilt (R390): the Timetable's root, or the scheduler of the
cluster of a resident team. -/
def rebuildHolds (s : State) (e : FaultEntry) : Bool :=
  let stopped := fun k => ((getTeam s k).map fun t => !t.saved && clusterStopped s t).getD false
  match e.who with
  | .agent k _ => stopped k
  | .engine k _ _ => stopped k
  | .board .. => s.hub.rebuilding

/-- PRI_RESPONSE (R203): the n-th PRI request of a context. A response to an agent of a cluster under rebuild is taken when the
rebuild is complete (R390). -/
def execPriResponse (ctx n : Nat) (ok : Bool) (s : State) : Host.Outcome State Fault Refusal :=
  .next (match (getCtx s ctx).bind fun c => lget c.fq.pri n with
    | some e =>
      if rebuildHolds s e then s else
      let s1 := modCtx s ctx fun c => { c with fq := { c.fq with pri := c.fq.pri.eraseIdx n } }
      if ok then retryFault s1 e else faultAppend s1 ctx e
    | none => s)

/-- FAULT_ENTRY_DEFERRED_WRITE (R204). -/
def execFaultEntryDeferredWrite (ctx : Nat) (s : State) : Host.Outcome State Fault Refusal := .next (faultRetry s ctx)

/-- The context a function's QSEL names (R77). -/
def selectedCtx (s : State) (fn : Nat) : Option (Nat × Ctx) := (selected s fn).map fun x => (x.1, x.2.2)

/-- FQHEAD_WRITE (R204): a write outside HEAD to TAIL is ignored. -/
def execFqheadWrite (fn : Nat) (val : BitVec 64) (s : State) : Host.Outcome State Fault Refusal :=
  .next (match selectedCtx s fn with
    | some (cn, c) =>
      let h := val.setWidth 32
      if (h - c.fq.head).toNat ≤ (c.fq.tail - c.fq.head).toNat then faultRetry (modCtx s cn fun c => { c with fq := { c.fq with head := h } }) cn else s
    | none => s)

/-- The unresolved entry at an index, for a context the function owns. -/
def entryFor (s : State) (fn ctx : Nat) (index : BitVec 32) : Option FaultEntry :=
  (getCtx s ctx).bind fun c => if c.owner = fn then (c.fq.unresolved.find? fun e => decide (e.1 = index.toNat)).map (·.2) else none

/-- Takes an entry off the unresolved ones. -/
def settleEntry (s : State) (ctx : Nat) (index : BitVec 32) : State :=
  modCtx s ctx fun c => { c with fq := { c.fq with unresolved := c.fq.unresolved.filter fun e => decide (e.1 ≠ index.toNat) } }

/-- A write to FQRES (R205). It is held while the unit it reaches is being rebuilt (R390). -/
def resolveEntry (s : State) (fn ctx : Nat) (index : BitVec 32) (retry : Bool) : State :=
  match entryFor s fn ctx index with
  | some e =>
    if rebuildHolds s e then { s with hub := { s.hub with held := s.hub.held ++ [(fn, ctx, index, retry)] } }
    else (if retry then retryFault else failFault) (settleEntry s ctx index) e
  | none => s

/-- FQRES_RETRY (R205). -/
def execFqresRetry (fn ctx : Nat) (index : BitVec 32) (s : State) : Host.Outcome State Fault Refusal := .next (resolveEntry s fn ctx index true)

/-- FQRES_FAIL (R205). -/
def execFqresFail (fn ctx : Nat) (index : BitVec 32) (s : State) : Host.Outcome State Fault Refusal := .next (resolveEntry s fn ctx index false)

/-- The held writes to FQRES are applied in their order (R390). -/
def applyHeld (s : State) : State :=
  s.hub.held.foldl (fun s h => resolveEntry s h.1 h.2.1 h.2.2.1 h.2.2.2) { s with hub := { s.hub with held := [] } }

/-! ### Invalidation (R206, R207) -/

/-- INVSTAT while a command runs, and a CODE. -/
def invBusy : Word := 0x100

/-- Starts an INVCTL command on a context; while one runs the write is ignored. A context not owned, or FREE, gives BAD-STATE. A
command that names a context another command still names is held back, with BUSY set, until that one is complete (R60, R206) (DEDUCED,
log entry 34). -/
def startInv (s : State) (fn ctx : Nat) (cmd : InvCmd) (i : Command) : State :=
  match tget s.pages fn with
  | none => s
  | some p =>
    if p.invstat.getLsbD 8 then s
    else match getCtx s ctx with
    | some c =>
      if c.owner ≠ fn then modPage s fn fun p => { p with invstat := 1 }
      else if ctxBusy s ctx then holdBack s fn ctx i
      else modPage s fn fun p => { p with invstat := invBusy, invcmd := cmd }
    | none => modPage s fn fun p => { p with invstat := 1 }

/-- INVALIDATE (R207). -/
def execInvalidate (fn ctx : Nat) (global : Bool) (s : State) : Host.Outcome State Fault Refusal :=
  .next (startInv s fn ctx (.invalidate ctx global) (.invalidate global))

/-- Drops every cached leaf of a range, and every team's scale headers in it (R207) (DEDUCED, log entry 48). -/
def dropRange (s : State) (cn : Nat) (r : Nat × Nat × Bool) (glob : Bool) : State :=
  match getCtx s cn with
  | none => s
  | some c =>
    let keep (e : Nat × BitVec 16) : Bool := !(r.2.2 || (decide (r.1 ≤ e.1) && decide (e.1 < r.2.1)))
    { s with
      tlb := tlbDrop s.tlb cn c.part r.1 r.2.1 r.2.2 glob
      teams := tmap s.teams fun _ t => { t with seq := t.seq.map fun q => { q with cache := q.cache.filter keep } } }

/-- Whether a transaction holds a store that it translated through a leaf a range drops, still cached or not, and that is yet to be performed
(R187, R207). -/
def storesThrough (s : State) (cn : Nat) (r : Nat × Nat × Bool) (glob : Bool) : Bool :=
  match getCtx s cn with
  | none => false
  | some c => s.teams.any fun t => t.2.groups.any fun g => match g.txn with
      | some x => x.staged.any fun e => decide (tlbDrop [e] cn c.part r.1 r.2.1 r.2.2 glob = [])
      | none => false

/-- A command completes with OK; the fault queue's waiting entries are tried again (R204), and the next command on the context begins
(R60). -/
def endInv (s : State) (fn cn : Nat) : State := freeHeld (faultRetry (modPage s fn fun p => { p with invstat := 0, invcmd := .none }) cn) cn

/-- The residency of the tracked pages that meet a range is examined again (R90, R208). -/
def retrack (s : State) (cn : Nat) (r : Nat × Nat × Bool) : State :=
  reexamine s cn (pageMeets (tables s) (((getCtx s cn).map (·.root)).getD 0) r)

/-- INVALIDATION_COMPLETE (R207). -/
def execInvalidationComplete (fn : Nat) (s : State) : Host.Outcome State Fault Refusal :=
  .next (match tget s.pages fn with
    | some p => (match p.invcmd with
      | .invalidate cn g =>
        if storesThrough s cn (invRange p) g then s else retrack (endInv (dropRange s cn (invRange p) g) fn cn) cn (invRange p)
      | _ => s)
    | none => s)

/-- INVCTL_INVALID (R206). -/
def execInvctlInvalid (fn _ctx : Nat) (_op : BitVec 3) (s : State) : Host.Outcome State Fault Refusal :=
  .next (modPage s fn fun p => if p.invstat.getLsbD 8 then p else { p with invstat := 2 })

/-! ### Migration (R208) -/

/-- Whether a range meets a page of a region that moves, or of its to-space (R222): the whole page of a larger leaf. -/
def meetsMoving (s : State) (c : Ctx) (r : Nat × Nat × Bool) : Bool :=
  let meets := pageMeets (tables s) c.root r
  c.heap.regions.any fun e => e.2.leaves.any fun l => meets (l.1 * 4096)

/-- MIGRATE (R208, R222). A context without the migr feature gives BAD-CONFIG (R64) (DESIGN CHOICE, log entry 83). From its start on
the range is non-resident for the scoreboard. -/
def execMigrate (fn ctx : Nat) (global : Bool) (s : State) : Host.Outcome State Fault Refusal :=
  .next (
    let s1 := startInv s fn ctx (.migrate ctx global) (.migrate global)
    match tget s.pages fn, getCtx s ctx with
    | some p, some c =>
      if p.invstat.getLsbD 8 ∨ c.owner ≠ fn ∨ ctxBusy s ctx then s1
      else if !hasFeature c 7 then modPage s fn fun p => { p with invstat := 2 }
      else if meetsMoving s c (invRange p) then beginKill (endInv s1 fn ctx) ctx
      else retrack s1 ctx (invRange p)
    | _, _ => s1)

/-- Whether a range meets a page the device holds resident in a context: those of its invocations (R91), the storage of its queues
(R78), the frame area (R377). -/
def heldIn (s : State) (cn : Nat) (c : Ctx) (r : Nat × Nat × Bool) : Bool :=
  let hit := pageMeets (tables s) c.root r
  (s.invs.any fun e => decide (e.2.ctx = cn) && e.2.held.any hit) ||
    (c.queues.any fun e => decide (e.2.st ≠ .disabled) && (pagesOf e.2.base.toNat (storageLen e.2)).any hit) ||
    ((decide (c.st = .running) || decide (c.st = .suspended)) && (pagesOf c.tfbase.toNat (c.tfslots.toNat * frameSize)).any hit)

/-- The leaf entries below a table: their physical addresses, VA and size. `n` is the level of the table's entries (DEDUCED, log entry 47). -/
def leavesBelow (m : Memory) : Nat → Nat → Nat → List (Nat × Nat × Nat)
  | 0, table, va => (upFrom 0 512).filterMap fun i => if (entryAt m (table + 8 * i)).getLsbD 0 then some (table + 8 * i, va + 4096 * i, 4096) else none
  | n + 1, table, va => (upFrom 0 512).flatMap fun i =>
      let e := entryAt m (table + 8 * i)
      let size := 2 ^ (21 + 9 * n)
      if !e.getLsbD 0 then [] else if e.getLsbD 53 ∧ n < 2 then [(table + 8 * i, va + size * i, size)]
      else if tableMalformed e then [] else leavesBelow m n (bits e.toNat 12 40 * 4096) (va + size * i)

/-- First address and size of the page of a leaf: a 64 KiB page is 16 leaves (R194). -/
def leafSpan (m : Memory) (l : Nat × Nat × Nat) : Nat × Nat :=
  if l.2.2 = 4096 ∧ (entryAt m l.1).getLsbD 53 then (l.2.1 / 65536 * 65536, 65536) else (l.2.1, l.2.2)

/-- Whether the page of a leaf meets a range. -/
def leafMeets (m : Memory) (r : Nat × Nat × Bool) (l : Nat × Nat × Nat) : Bool :=
  let p := leafSpan m l
  r.2.2 || (decide (p.1 < r.2.1) && decide (r.1 < p.1 + p.2))

/-- Sets MIG in every leaf of a range, by atomic ORs (R208) (DEDUCED, log entry 47). -/
def markRange (s : State) (root : Nat) (r : Nat × Nat × Bool) : State :=
  ((leavesBelow (tables s) 4 root 0).filter (leafMeets (tables s) r)).foldl (fun s l => orEntry s l.1 0x80) s

/-- MIGRATE_MARK (R208): once nothing holds a page of the range. In a context that is being killed, or is DEAD, the marks are writes
that are dropped (R72). -/
def execMigrateMark (fn : Nat) (s : State) : Host.Outcome State Fault Refusal :=
  .next (match tget s.pages fn with
    | some p => (match p.invcmd with
      | .migrate cn g =>
        (match getCtx s cn with
          | some c =>
            let r := invRange p
            if ctxGone c then endInv (dropRange s cn r g) fn cn
            else if heldIn s cn c r ∨ storesThrough s cn r g then s
            else retrack (endInv (dropRange (markRange s c.root r) cn r g) fn cn) cn r
          | none => endInv s fn cn)
      | _ => s)
    | none => s)

end Sys2Proof.Machine
end

