-- ==== Sys2Proof/Machine/Prefect.lean ====
section
/-! DEFINITION. The Prefect and the device: power-on and warm reset (R395), partitions, caps and sharing modes (R17 to R20), gating and throttling (R26, R27), errors and scheduler checking (R385 to R390), windows (R24, R225), the Report Card (R396) and the end of an emulation (R262). -/
namespace Sys2Proof.Machine

/-! ### Self-test and reset (R16, R395) -/

/-- Column groups of a core (R13). -/
def columnGroups (core : Nat) : Nat := if core < 256 then 32 else 4

/-- Whether so many mapped-out groups disable a core (R16). -/
def tooManyMapped (core : Nat) (mapped : BitVec 32) : Bool :=
  decide (popcount mapped.toNat (columnGroups core) > if core < 256 then 4 else 1)

/-- A core after self-test. -/
def testedCore (t : SelfTest) (core : Nat) : Core :=
  let mapped := tgetD t.colmap core 0
  { mapped := mapped, disabled := t.badClusters.contains (core / 8) || t.badCores.contains core || tooManyMapped core mapped,
    withdrawn := false, faults := 0 }

/-- The cores after self-test: those that differ from a good enabled core. -/
def testedCores (t : SelfTest) : Tbl Core :=
  (tabulate (testedCore t) 384).filter fun e => decide (e.2 ≠ { mapped := 0, disabled := false, withdrawn := false, faults := 0 })

/-- Takes the partitions off a device whose DRAM or device cache cannot be repaired. -/
def withoutMemory (s : State) (t : SelfTest) : State :=
  if t.memoryOk then s else { s with parts := [], clusters := tmap s.clusters fun _ c => { c with part := none } }

/-- Host memory, which outlasts the power of the device (DEDUCED, log entry 59). -/
def hostCells (m : Memory) : Memory := m.filter fun c => decide (2 ^ 51 ≤ c.1)

/-- POWER_ON (R16, R66, R229, R395): only the fuses keep their contents, and the host's memory (DEDUCED, log entry 59). -/
def execPowerOn (t : SelfTest) (s : State) : Host.Outcome State Fault Refusal :=
  .next { State.reset with
    mem := hostCells s.mem, cores := testedCores t, hub := { Hub.reset with secver := s.hub.secver, selfTest := t },
    draws := s.draws, agenda := s.agenda }

/-- The kill sequence of every context, from its first step to its last (R395) (DEDUCED, log entry 60). -/
def killAll (s : State) : State := (s.ctxs.map (·.1)).foldl (fun s cn => endKill (beginKill s cn) cn) s

/-- WARM_RESET (R66, R229, R395): every context is killed and no longer exists, then self-test runs. What the Prefect configured,
the microcode store, the SEQ counters and memory stay as they are (DESIGN CHOICE, log entry 1; DEDUCED, log entry 60). -/
def execWarmReset (t : SelfTest) (s : State) : Host.Outcome State Fault Refusal :=
  let s1 := killAll { s with hub := { s.hub with rebuilding := false } }
  let cl := tmap s1.clusters fun c x => { x with
    mode := x.pendingMode.getD x.mode, pendingMode := none, gated := false, ungating := false, pendingCaps := false, rebuilding := false, rebuilds := 0,
    caps := ((x.part.bind (tget s1.parts)).map fun p => if clusterClass c = 0 then p.cfg.capM else p.cfg.capE).getD x.caps }
  .next (withoutMemory { State.reset with
    mem := s1.mem, poison := s1.poison, parts := s1.parts, clusters := cl, cores := testedCores t
    pages := tmap s1.pages fun _ p => { Page.reset with ats := p.ats }, sendSeq := s1.sendSeq, seen := s1.seen
    hub := { Hub.reset with secver := s1.hub.secver, microcode := s1.hub.microcode, warmResets := s1.hub.warmResets + 1, selfTest := t,
                            throttled := s1.hub.throttled, store := s1.hub.store, pfWindow := s1.hub.pfWindow }
    draws := s1.draws, agenda := s1.agenda } t)

/-! ### Power (R26, R27) -/

/-- Whether a cluster holds a team. -/
def clusterHolds (s : State) (c : Nat) : Bool := s.teams.any fun e => !e.2.saved && decide (e.2.target.cluster = c)

def modCluster (s : State) (c : Nat) (f : Cluster → Cluster) : State := { s with clusters := tmod s.clusters c f }

/-- CLUSTER_GATE (R26): a cluster that has held no team for 10 µs. -/
def execClusterGate (cluster : Nat) (s : State) : Host.Outcome State Fault Refusal :=
  .next (if clusterHolds s cluster then s else modCluster s cluster fun c => if c.ungating then c else { c with gated := true })

/-- CLUSTER_UNGATE_COMPLETE (R26). -/
def execClusterUngateComplete (cluster : Nat) (s : State) : Host.Outcome State Fault Refusal :=
  .next (modCluster s cluster fun c => if c.ungating then { c with gated := false, ungating := false } else c)

/-- POWER_LIMIT (R27): matrix arrays are throttled while board power exceeds the limit. -/
def execPowerLimit (above : Bool) (s : State) : Host.Outcome State Fault Refusal := .next { s with hub := { s.hub with throttled := above } }

/-! ### Partitions and modes (R17 to R19) -/

/-- Whether a cap triple lies within the limits of R17 (DEDUCED, log entry 61). -/
def capsOk (max c : Caps) : Bool :=
  let one (x m : Nat) : Bool := decide (x % 8 = 0) && decide (8 ≤ x) && decide (x ≤ m)
  one c.m max.m && one c.n max.n && one c.k max.k

/-- Whether two ranges of DRAM units meet (DEDUCED, log entry 61). -/
def dramMeets (a b : PartCfg) : Bool := rangesMeet a.dramBase a.dramUnits b.dramBase b.dramUnits

/-- Whole GiB units of the bonded DRAM (R17, R29). -/
def dramUnits : Nat := dramBytes / 2 ^ 30

/-- Whether a configuration keeps the limits of R17 beside the other partitions. A partition's DRAM is one range of units, and not
empty (DESIGN CHOICE, log entry 92). -/
def partCfgOk (s : State) (part : Nat) (cfg : PartCfg) : Bool :=
  let others := (s.parts.filter fun e => decide (e.1 ≠ part)).map (·.2.cfg)
  decide (part < 8) && s.hub.selfTest.memoryOk && decide (cfg.clusters.Nodup) && decide (cfg.fns.Nodup) &&
    cfg.clusters.all (fun c => decide (c < 48) && !(others.any fun o => o.clusters.contains c)) &&
    cfg.fns.all (fun f => decide (f ≤ 32) && !(others.any fun o => o.fns.contains f)) &&
    decide (1 ≤ cfg.dramUnits) && decide (cfg.dramBase + cfg.dramUnits ≤ dramUnits) && !(others.any (dramMeets cfg)) &&
    capsOk ⟨128, 256, 64⟩ cfg.capM && capsOk ⟨32, 32, 16⟩ cfg.capE

/-- Whether a context is bound to a partition. -/
def partBound (s : State) (part : Nat) : Bool := s.ctxs.any fun e => decide (e.2.part = part)

/-- The cap triple a configuration gives a class. -/
def cfgCaps (cfg : PartCfg) (cls : Nat) : Caps := if cls = 0 then cfg.capM else cfg.capE

/-- The partition with no team on it and new caps in force. -/
def recapped (s : State) (part : Nat) (cfg : PartCfg) : State :=
  { emptied s with clusters := tmap s.clusters fun c x => if x.part = some part then { x with caps := cfgCaps cfg (clusterClass c) } else x }

/-- The teams of a team's gang, itself among them: they go to distinct targets of one cluster (R96, R125). -/
def gangMates (s : State) (iv : Invoc) (t : Team) : List Team :=
  (s.teams.map (·.2)).filter fun x => decide (x.inv = t.inv) && decide (x.tidx / iv.gang = t.tidx / iv.gang)

/-- The classes R125 lets a gang return to: its effective class set (R94) when every member is saved and may cross, else the class it is
in (DESIGN CHOICE, log entry 90). -/
def returnClasses (s : State) (part : Nat) (iv : Invoc) (t : Team) : List Nat :=
  if (gangMates s iv t).all fun x => x.saved && mayCross iv x then effectiveClasses s part iv else [clusterClass t.target.cluster]

/-- Whether a member of a team's gang may stand on a target: the team itself with its OPEN accumulators within the maxima (R18), a mate
where R125 lets it return. -/
def returnOk (s : State) (t : Team) (tidx : Nat) (x : Target) : Bool := memberOk s t.inv tidx x && (decide (tidx ≠ t.tidx) || accsFit t x)

/-- Whether a team with an OPEN accumulator would fit no target to which R125 lets it return with its gang, under new caps (R18). -/
def stranded (s : State) (part : Nat) (cfg : PartCfg) (t : Team) : Bool :=
  match t.seq, getInv s t.inv with
  | some q, some iv =>
    let s1 := recapped s part cfg
    (q.accs.any fun a => decide (a.st = .opened)) &&
      (placeGang s1 (fun _ => true) (returnOk s t) ((gangMates s iv t).map fun x => (x.tidx, savedNeed iv x))
        ((returnClasses s part iv t).flatMap (partClusters s1 part))).isNone
  | _, _ => false

/-- The clusters after a configuration of their set: those of the partition join it with its caps, those it left are free. -/
def assignClusters (s : State) (part : Nat) (cfg : PartCfg) : State :=
  { s with clusters := tmap s.clusters fun c x =>
      if cfg.clusters.contains c then { x with part := some part, caps := cfgCaps cfg (clusterClass c), pendingCaps := false }
      else if x.part = some part then { x with part := none, caps := classCaps c, pendingCaps := false } else x }

/-- A new cap triple waits in every cluster of the partition it changes. -/
def pendCaps (s : State) (part : Nat) (cfg : PartCfg) : State :=
  { s with clusters := tmap s.clusters fun c x =>
      if x.part = some part then { x with pendingCaps := decide (cfgCaps cfg (clusterClass c) ≠ x.caps) } else x }

/-- Puts a partition's configuration, its keys kept. -/
def putCfg (s : State) (part : Nat) (cfg : PartCfg) : State :=
  { s with parts := tput s.parts part { cfg := cfg, keys := ((tget s.parts part).map (·.keys)).getD [],
                                            nextCtx := ((tget s.parts part).map (·.nextCtx)).getD 0 } }

/-- Whether a configuration changes a partition's clusters or its DRAM. -/
def movesUnits (a b : PartCfg) : Bool :=
  !(a.clusters.all fun c => b.clusters.contains c) || !(b.clusters.all fun c => a.clusters.contains c) || decide (a.dramBase ≠ b.dramBase) ||
    decide (a.dramUnits ≠ b.dramUnits)

/-- A partition given no cluster is dissolved: one with no context bound, and not the last (R17, R18) (DEDUCED, log entry 61). -/
def dissolve (s : State) (part : Nat) : State :=
  if partBound s part ∨ (tget s.parts part).isNone ∨ s.parts.length ≤ 1 then s
  else { s with parts := tdel s.parts part
                clusters := tmap s.clusters fun c x => if x.part = some part then { x with part := none, caps := classCaps c, pendingCaps := false } else x }

/-- PARTITION_CONFIGURE (R17, R18): a configuration the Prefect refuses leaves the previous one in force. The functions and the fabric
port of a partition with contexts bound change at once (DESIGN CHOICE, log entry 89). -/
def execPartitionConfigure (part : Nat) (cfg : PartCfg) (s : State) : Host.Outcome State Fault Refusal :=
  .next (
    if cfg.clusters = [] then dissolve s part
    else if !partCfgOk s part cfg then s
    else if !partBound s part then assignClusters (putCfg s part cfg) part cfg
    else match tget s.parts part with
    | none => s
    | some old =>
      if movesUnits old.cfg cfg then s
      else if s.teams.any fun e => decide (invPart e.2.inv = part) && stranded s part cfg e.2 then s
      else pendCaps (putCfg s part cfg) part cfg)

/-- CAP_CHANGE_EFFECT (R18): once a cluster holds no team. -/
def execCapChangeEffect (part cluster : Nat) (s : State) : Host.Outcome State Fault Refusal :=
  .next (match tget s.parts part with
    | some p =>
      if clusterHolds s cluster then s
      else modCluster s cluster fun c =>
        if c.part = some part ∧ c.pendingCaps then { c with caps := cfgCaps p.cfg (clusterClass cluster), pendingCaps := false } else c
    | none => s)

/-- SHARING_MODE_REQUEST (R19). -/
def execSharingModeRequest (cluster : Nat) (mode : Sharing) (s : State) : Host.Outcome State Fault Refusal :=
  .next (modCluster s cluster fun c => { c with pendingMode := some mode })

/-- SHARING_MODE_EFFECT (R19): once every core of the cluster holds no team. -/
def execSharingModeEffect (cluster : Nat) (s : State) : Host.Outcome State Fault Refusal :=
  .next (if clusterHolds s cluster then s else modCluster s cluster fun c => { c with mode := c.pendingMode.getD c.mode, pendingMode := none })

/-! ### Errors (R385 to R387) -/

/-- A0 of a DEVICE record for a unit outside any cluster. -/
def noUnit : Nat := 2 ^ 64 - 1

/-- Where a unit stands: A0 of its record, the cluster it lies in, the partition whose DRAM holds it. -/
structure UnitPlace where
  a0 : Nat
  cluster : Option Nat
  dram : Option Nat

/-- The partition whose DRAM holds a line (DEDUCED, log entry 62). -/
def linePart (s : State) (n : Nat) : Option Nat :=
  (s.parts.find? fun e => decide (e.2.cfg.dramBase * 2 ^ 24 ≤ n) && decide (n < (e.2.cfg.dramBase + e.2.cfg.dramUnits) * 2 ^ 24)).map (·.1)

/-- Where a unit stands. -/
def unitPlace (s : State) (u : ErrUnit) : UnitPlace :=
  match u with
  | .regs k _ => ⟨coreOf s k, some (coreOf s k / 8), none⟩
  | .teamState k => ⟨coreOf s k, some (coreOf s k / 8), none⟩
  | .line n => ⟨noUnit, none, linePart s n⟩
  | .groupTable c => ⟨c, some c, none⟩
  | .rootTable => ⟨noUnit, none, none⟩
  | .link _ => ⟨noUnit, none, none⟩
  | .dieLink _ => ⟨noUnit, none, none⟩

/-- The key a unit's corrected errors are counted under. -/
def unitKey (s : State) (u : ErrUnit) : Nat :=
  match u with
  | .regs k _ => coreOf s k
  | .teamState k => coreOf s k
  | .groupTable c => 1000 + c
  | .link p => linkKey p
  | .dieLink n => 4000 + n
  | .rootTable => 3000
  | .line n => 3001 + ((linePart s n).map (· + 1)).getD 0

/-- The contexts a DEVICE record goes to (R417): those of the partition whose clusters or DRAM hold the unit, else every one. -/
def deviceCtxs (s : State) (p : UnitPlace) : List Nat :=
  match p.cluster, p.dram with
  | some c, _ => (s.ctxs.filter fun e => decide (((tget s.clusters c).bind (·.part)) = some e.2.part)).map (·.1)
  | none, some d => (s.ctxs.filter fun e => decide (e.2.part = d)).map (·.1)
  | none, none => s.ctxs.map (·.1)

/-- Writes a DEVICE record to every context it concerns (DEDUCED, log entry 62). -/
def deviceRecord (s : State) (p : UnitPlace) (code count : Nat) : State :=
  (deviceCtxs s p).foldl (fun s cn => errorRecord s cn 0x0C code 0xFFFF p.a0 count 0) s

/-- CORRECTABLE_ERROR (R385): corrected in place and counted. At most one record per unit is written in a millisecond: whether this
error is reported is open (DESIGN CHOICE, log entry 25). -/
def execCorrectableError (u : ErrUnit) (s : State) : Host.Outcome State Fault Refusal :=
  .next (
    let s1 := countCorrected s (unitKey s u)
    if Config.freeBit s.draws then deviceRecord s1 (unitPlace s u) 0 (tgetD s1.hub.corrected (unitKey s u) 0) else s1)

/-- An uncorrectable error in the registers of an agent (R376): the trap of cause 0x11. An agent whose trap has no frame yet traps
with this cause; one whose registers already stand in a frame takes them from there (DEDUCED, log entry 62). -/
def strikeRegs (s : State) (k a : Nat) : State :=
  match getTeam s k, getThread s k a with
  | some t, some th =>
    if t.saved ∨ th.run = .retired then s
    else match th.park with
    | .frame _ => s
    | .trap _ => modThread s k a fun th => { th with trapc := 0x11, trapv := 0 }
    | _ =>
      match getGroup s k a with
      | some g => if a < 16 ∧ g.txn.isSome then putGroup s k a (abortTxn g 5 0) else takeTrap s k a 0x11 0 th.pc none
      | none => takeTrap s k a 0x11 0 th.pc none
  | _, _ => s

/-- Whether a team is resident in a cluster. -/
def residentIn (c : Nat) (t : Team) : Bool := !t.saved && decide (t.target.cluster = c)

/-- Every team with a group in a group-table entry of a cluster that is lost is struck (R387): which teams of the cluster these are, is
open, several or none (DESIGN CHOICE, log entry 24). -/
def strikeEntry (s : State) (c : Nat) : State :=
  let ks := (s.teams.filter fun e => residentIn c e.2).map (·.1)
  (ks.filter fun k => (Config.freeWord s.draws (2 ^ 80 + k)).getLsbD 0).foldl strikeTeam s

/-- Starts the rebuild of a scheduler unit (R390), with its error record (DEDUCED, log entry 45). -/
def startRebuild (s : State) (u : SchedUnit) : State :=
  match u with
  | .root => deviceRecord { s with hub := { s.hub with rebuilding := true } } ⟨noUnit, none, none⟩ 2 0
  | .cluster c => deviceRecord (modCluster s c fun c => { c with rebuilding := true, rebuilds := c.rebuilds + 1 }) ⟨c, some c, none⟩ 2 0

/-- UNCORRECTABLE_ERROR (R385 to R387, R390). A die-to-die link that retrains has no state of its own (DEDUCED, log entry 43). -/
def execUncorrectableError (u : ErrUnit) (s : State) : Host.Outcome State Fault Refusal :=
  .next (match u with
    | .regs k a => strikeRegs s k a
    | .teamState k => strikeTeam s k
    | .line n => if s.poison.contains n then s else { s with poison := s.poison ++ [n] }
    | .groupTable c => startRebuild (strikeEntry s c) (.cluster c)
    | .rootTable => startRebuild s .root
    | .link p => modLink s p toRetrain
    | .dieLink _ => s)

/-- RESIDUE_CHECK_FAIL (R387): replay, and the core's fault count rises. -/
def execResidueCheckFail (team : Nat) (s : State) : Host.Outcome State Fault Refusal :=
  .next (match getTeam s team with
    | some t => if t.saved then s else modCore (strikeTeam s team) t.target.core fun c => { c with faults := c.faults + 1 }
    | none => s)

/-- Pre-empts the teams on cores that are withdrawn, with their gangs. -/
def preemptCores (s : State) (on : Nat → Bool) : State :=
  requestPreempt s ((s.teams.filter fun e => !e.2.saved && on e.2.target.core).flatMap fun e => preemptSet s e.2)

/-- CORE_FAULT_LIMIT (R387): three faults of a core within a second. -/
def execCoreFaultLimit (core : Nat) (s : State) : Host.Outcome State Fault Refusal :=
  .next (
    if (getCore s core).faults < 3 ∨ (getCore s core).withdrawn then s
    else deviceRecord (preemptCores (modCore s core fun c => { c with withdrawn := true }) fun x => decide (x = core)) ⟨core, some (core / 8), none⟩ 1 0)

/-! ### Scheduler checking (R390) -/

/-- SCHEDULER_STATE_ERROR (R390): issue stops in the cluster, or placement pauses. -/
def execSchedulerStateError (unit : SchedUnit) (s : State) : Host.Outcome State Fault Refusal := .next (startRebuild s unit)

/-- Waiting agents of a rebuilt cluster are tested at once (R120). -/
def testRebuilt (k : Nat) (s : State) (a : Nat) : State :=
  match (getThread s k a).map waitOf with
  | some (.waitMem _) => evaluateWatch s k a
  | some (.waitToken m) => if ((getThread s k a).map fun th => decide (th.pend &&& m = 0)).getD false then completeWait s k a else s
  | _ => s

/-- The change of state an invocation owes since the Timetable's root was being rebuilt: work marked as ended drains, teams to replay are
placed again, a grid wholly placed runs, the scoreboard goes on, and a killed context's is cancelled (R72, R93, R390). -/
def settleInv (s : State) (ik : Nat) : State :=
  match getInv s ik with
  | some iv =>
    if ((getCtx s iv.ctx).map ctxGone).getD false then cancelInvocation s ik
    else if iv.st = .placing ∨ iv.st = .running then
      if iv.mark.isSome then modInv s ik fun iv => { iv with st := .draining }
      else afterPlacing (modInv s ik fun iv => { iv with st := if someWaits s ik iv then .placing else iv.st }) ik
    else if iv.st = .recorded ∧ ((getCtx s iv.ctx).map fun c => decide (c.st = .suspended)).getD true then s
    else advanceInv s ik
  | none => s

/-- Whether every engine operation of a cluster's teams has completed or parked (R390). -/
def engineQuiet (s : State) (c : Nat) : Bool := s.teams.all fun e => !residentIn c e.2 || e.2.ops.all (·.parked)

/-- The rebuild of the Timetable's root is complete. -/
def rootRebuilt (s : State) : State :=
  let s1 := { s with hub := { s.hub with rebuilding := false } }
  applyHeld ((s1.invs.map (·.1)).foldl settleInv s1)

/-- The rebuild of a cluster's scheduler is complete. -/
def clusterRebuilt (s : State) (c : Nat) : State :=
  let s1 := modCluster s c fun x => { x with rebuilding := false }
  applyHeld (((s1.teams.filter fun e => residentIn c e.2).map (·.1)).foldl (fun s k => (upFrom 0 17).foldl (testRebuilt k) s) s1)

/-- SCHEDULER_REBUILD_COMPLETE (R390): a cluster's once its engine operations have completed as in R123; what was held is then applied
(DEDUCED, log entry 45). -/
def execSchedulerRebuildComplete (unit : SchedUnit) (s : State) : Host.Outcome State Fault Refusal :=
  .next (match unit with
    | .root => if s.hub.rebuilding then rootRebuilt s else s
    | .cluster c => if ((tget s.clusters c).map (·.rebuilding)).getD false && engineQuiet s c then clusterRebuilt s c else s)

/-- REBUILD_LIMIT (R390): four rebuilds of a cluster within a millisecond withdraw its cores. -/
def execRebuildLimit (cluster : Nat) (s : State) : Host.Outcome State Fault Refusal :=
  .next (
    if ((tget s.clusters cluster).map (·.rebuilds)).getD 0 < 4 then s
    else
      let s1 := (upFrom (8 * cluster) 8).foldl (fun s n => modCore s n fun c => { c with withdrawn := true }) s
      deviceRecord (preemptCores s1 fun x => decide (x / 8 = cluster)) ⟨cluster, some cluster, none⟩ 3 0)

/-! ### Windows (R24, R73, R225) -/

/-- The physical address a window access of a function meets; none outside the function's memory or its window: the device's DRAM for the
PF, its partition's for a VF, whose window spans 16 GiB. An offset counts from the start of that memory (DESIGN CHOICE, log entry 104). -/
def windowAddr (s : State) (fn off len : Nat) : Option Nat :=
  if fn = 0 then (if off + len ≤ dramBytes ∧ off + len ≤ s.hub.pfWindow then some off else none)
  else (fnPart s fn).bind fun p => (tget s.parts p).bind fun x =>
    if off + len ≤ x.cfg.dramUnits * 2 ^ 30 ∧ off + len ≤ 2 ^ 34 then some (x.cfg.dramBase * 2 ^ 30 + off) else none

/-- The leaf entries of a translation tree that map a physical page, by their addresses. -/
def leavesOf (m : Memory) (root pa : Nat) : List Nat :=
  ((leavesBelow m 4 root 0).filter fun l =>
    let f := bits (entryAt m l.1).toNat 12 40 * 4096
    decide (f ≤ pa) && decide (pa < f + l.2.2)).map (·.1)

/-- The contexts that map a physical page, each with whether a leaf marks it as a heap page (DEDUCED, log entry 63). -/
def mappers (s : State) (pa : Nat) : List (Nat × Ctx × Bool) :=
  s.ctxs.filterMap fun e =>
    let l := leavesOf (tables s) e.2.root pa
    if l = [] then none else some (e.1, e.2, l.any fun a => (entryAt (tables s) a).getLsbD 6)

/-- Whether a window access to a mapped page is refused: a page of a heap, of a context KILLING or DEAD, or, for a VF, of no
context of its own (DEDUCED, log entry 63). -/
def windowRefused (fn : Nat) (ms : List (Nat × Ctx × Bool)) : Bool :=
  (ms.any fun m => m.2.2 || ctxGone m.2.1) || (decide (fn ≠ 0) && decide (ms ≠ []) && !(ms.any fun m => decide (m.2.1.owner = fn)))

/-- WINDOW error records to the contexts that own the page (DEDUCED, log entry 63). -/
def windowRecords (s : State) (fn off : Nat) (w : Bool) (ms : List (Nat × Ctx × Bool)) : State :=
  ms.foldl (fun s m => errorRecord s m.1 0x06 ((if w then 1 else 0) + if m.2.2 then 2 else 0) 0xFFFF off fn 0) s

/-- What a window access to bytes of one page does: refused, or performed at a physical address. -/
def windowPlace (s : State) (fn off len : Nat) : Option Nat :=
  (windowAddr s fn off len).bind fun pa => if windowRefused fn (mappers s pa) then none else some pa

/-- The parts of a window access, one in each page it meets, since pages have owners of their own: offset and size. -/
def windowParts : Nat → Nat → Nat → List (Nat × Nat)
  | 0, _, _ => []
  | fuel + 1, off, len =>
    if len = 0 then []
    else let n := Nat.min len (4096 - off % 4096); (off, n) :: windowParts fuel (off + n) (len - n)

/-- The parts of an access of `len` bytes. -/
def partsOf (off len : Nat) : List (Nat × Nat) := windowParts (len / 4096 + 2) off len

/-- What a window read returns to the host: all ones where it is refused (R24); and whether it carries a poisoned indication, since
poison is never reported as a value (R386). -/
def windowData (s : State) (fn off len : Nat) : List Byte × Bool :=
  let places := (partsOf off len).map fun p => (windowPlace s fn p.1 p.2, p.2)
  (places.flatMap fun p => match p.1 with
      | some pa => readBytes s.mem pa p.2
      | none => List.replicate p.2 0xFF,
    places.any fun p => match p.1 with
      | some pa => poisonIn s pa p.2
      | none => false)

/-- One part of a window access. -/
def windowPart (fn off0 : Nat) (write : Option (List (BitVec 8))) (s : State) (p : Nat × Nat) : State :=
  match windowPlace s fn p.1 p.2, write with
  | some pa, some bs => clearRefsAt (putBytes s pa ((bs.drop (p.1 - off0)).take p.2)) pa p.2
  | some pa, none => snoopRange s pa p.2 false
  | none, w => windowRecords s fn p.1 w.isSome (((windowAddr s fn p.1 p.2).map (mappers s)).getD [])

/-- WINDOW_ACCESS (R24, R73, R225): each page's bytes as their owner has it (DEDUCED, log entry 63). -/
def execWindowAccess (fn off : Nat) (write : Option (List (BitVec 8))) (len : Nat) (s : State) : Host.Outcome State Fault Refusal :=
  .next ((partsOf off ((write.map (·.length)).getD len)).foldl (windowPart fn off write) s)

/-! ### The Report Card (R396) -/

/-- The bit image of a property of numbers 0 to n - 1. -/
def bitImage (f : Nat → Bool) (n : Nat) : Nat := packBits (fun i => if f i then 1 else 0) 1 0 n

/-- A load-log entry. -/
def logBytes (r : LoadRec) : List Byte :=
  natBytes r.ctx 2 ++ natBytes r.handle 1 ++ natBytes 0 5 ++ natBytes r.secver 4 ++ natBytes 0 4 ++ natBytes r.measure.toNat 64

/-- The Report Card before its signature (DESIGN CHOICE, log entry 13). -/
def reportBody (s : State) (nonce : BitVec 256) : List Byte :=
  natBytes 0x44524352 4 ++ natBytes 1 2 ++ natBytes (if s.hub.microcodeMode then 1 else 0) 2 ++ natBytes nonce.toNat 32 ++
    natBytes Config.identityKey.toNat 64 ++ natBytes s.hub.secver 4 ++ natBytes s.hub.warmResets 4 ++ natBytes Config.firmwareMeasure.toNat 64 ++
    natBytes ((s.hub.microcode.map (·.toNat)).getD 0) 64 ++ natBytes (bitImage (fun c => !s.hub.selfTest.badClusters.contains c) 48) 8 ++ natBytes 0 8 ++
    ((upFrom 0 384).flatMap fun c => natBytes (getCore s c).mapped.toNat 4) ++ natBytes (bitImage (fun c => !coreUsable s c) 384) 48 ++
    natBytes s.hub.loadLog.length 8 ++ natBytes 0 8 ++ s.hub.loadLog.flatMap logBytes

/-- SPDM_REQUEST (R396): the Report Card with its signature over every preceding byte (DESIGN CHOICE, log entry 70). -/
def execSpdmRequest (nonce : BitVec 256) (s : State) : Host.Outcome State Fault Refusal :=
  .next (
    let b := reportBody s nonce
    { s with hub := { s.hub with report := b ++ (upFrom 0 sigLen).map (Config.reportSignature b) } })

/-! ### Emulation (R120, R262) -/

/-- A group that was RUNNING is READY once a wait of it has ended. -/
def readyGroup (s : State) (k i : Nat) : State := modThread s k i fun th => if th.run = .running then { th with run := .ready } else th

/-- EMULATION_COMPLETE (R262): the Prefect's routine has run for a group in PARKED-EMUL (DESIGN CHOICE, log entry 9). -/
def execEmulationComplete (team group : Nat) (s : State) : Host.Outcome State Fault Refusal :=
  .next (match cxFor s team group with
    | some cx =>
      (match cx.g.th.run with
        | .parkedEmul w =>
          (match decode w with
            | some (.extensionOpcode m d a b f) => readyGroup (finishCtl w (extEffect Config.firmwareMeasure m d a b f cx)) team group
            | _ => s)
        | _ => s)
    | none => s)

end Sys2Proof.Machine
end

