-- ==== Sys2Proof/Machine/Debug.lean ====
section
/-! DEFINITION. The debug registers' commands (R397 to R401), the TRACE command and the SYNC interval (R402, R404), and stall accounting (R406). -/
namespace Sys2Proof.Machine

/-! ### DBGCTL (R398, R399) -/

/-- Sets the CODE of DBGSTAT. -/
def setDbg (s : State) (fn code : Nat) : State := modPage s fn fun p => { p with dbgstat := BitVec.ofNat 64 code }

/-- A command on the context DBGSEL names: ignored while BUSY, BAD-STATE unless the function owns a RUNNING or SUSPENDED one. A
command on the context that still runs holds the write back (R60, R398) (DEDUCED, log entry 34). -/
def runDbg (i : Command) (fn : Nat) (s : State) (f : Page → Nat → Ctx → State) : Host.Outcome State Fault Refusal :=
  .next (match tget s.pages fn with
    | none => s
    | some p =>
      if p.dbgstat.getLsbD 8 then s
      else match debugCtx s fn with
      | some (cn, c) => if ctxBusy s cn then holdBack s fn cn i else if c.st = .running ∨ c.st = .suspended then f p cn c else setDbg s fn 1
      | none => setDbg s fn 1)

/-- The team (INV, TEAM) of a command, resident or saved. -/
def dbgTeam (s : State) (p : Page) (cn : Nat) (c : Ctx) (inv : Nat) : Option (Nat × Team) :=
  let k := teamKey (invKey c.part inv) (bits p.dbgsel.toNat 0 48)
  (getTeam s k).bind fun t => if inv < 4096 ∧ ctxNum s k = cn then some (k, t) else none

/-- A command on a team: BAD-STATE for one not yet placed, or retired. -/
def runDbgTeam (i : Command) (fn inv : Nat) (s : State) (f : Page → Nat → Nat → Team → State) : Host.Outcome State Fault Refusal :=
  runDbg i fn s fun p cn c => match dbgTeam s p cn c inv with
    | some (k, t) => f p cn k t
    | none => setDbg s fn 1

/-! ### HALT and HALTROLE (R397, R399 to R401) -/

/-- Whether a halt covers an agent: all of them, or the groups of one role (R68: the first PROD groups produce). -/
def haltCovers (iv : Invoc) (role : Option Bool) (a : Nat) : Bool :=
  match role with
  | none => true
  | some consumer => decide (a < 16) && (decide (iv.kernel.prod ≤ a) == consumer)

/-- A halt request to a thread; on a saved team it applies to the image at once (R400), and one that a BRK has halted is the command's
from then on (DEDUCED, log entry 65). -/
def requestHalt (saved : Bool) (th : Thread) : Thread :=
  if th.run = .retired then th
  else if th.halted ∨ saved then { th with halted := true, byCmd := true }
  else { th with haltReq := true, byCmd := true }

/-- Requests the halt of the agents a role covers; a transaction aborts before the stop lands (DEDUCED, log entry 65). -/
def haltTeam (iv : Invoc) (role : Option Bool) (t : Team) : Team :=
  let g (i : Nat) (x : Group) : Group :=
    if haltCovers iv role i then let y := abortTxn x 6 0; { y with th := requestHalt t.saved y.th } else x
  let q (x : Seq) : Seq := if haltCovers iv role 16 then { x with th := requestHalt t.saved x.th } else x
  { t with groups := (upFrom 0 t.groups.length).zip t.groups |>.map fun e => g e.1 e.2, seq := t.seq.map q }

/-- Starts HALT or HALTROLE. -/
def startHalt (i : Command) (fn inv : Nat) (role : Option Bool) (s : State) : Host.Outcome State Fault Refusal :=
  runDbgTeam i fn inv s fun _ _ k _ =>
    match invOf s k with
    | some iv => modPage (modTeam s k (haltTeam iv role)) fn fun p => { p with dbgstat := 0x100, dbgcmd := some { ctx := ctxNum s k, team := k, role := role } }
    | none => s

/-- HALT (R399). -/
def execHalt (fn inv : Nat) (s : State) : Host.Outcome State Fault Refusal := startHalt (.halt inv) fn inv none s

/-- HALTROLE (R399, R401). -/
def execHaltrole (fn inv : Nat) (consumer : Bool) (s : State) : Host.Outcome State Fault Refusal := startHalt (.haltrole inv consumer) fn inv (some consumer) s

/-- Whether a group stands where a halt lands (R397): a convoy boundary, or where it waits; not at an MSEND that waits for its interface
(R237). -/
def groupHalts (s : State) (cn : Nat) (g : Group) : Bool :=
  g.th.halted || !(threadIssues g.th) || (!insideConvoy s cn g.th && !g.th.stalled)

/-- A halt lands on a thread. -/
def landHalt (th : Thread) : Thread := if th.haltReq then { th with halted := true, haltReq := false } else th

/-- Whether every stream a command covers has stopped, its engine operations complete. -/
def haltLands (s : State) (cn : Nat) (iv : Invoc) (role : Option Bool) (t : Team) : Bool :=
  ((upFrom 0 t.groups.length).zip t.groups).all (fun e => !haltCovers iv role e.1 || groupHalts s cn e.2) &&
    t.ops.all (fun o => !haltCovers iv role o.agent)

/-- HALT_COMPLETE (R399): the team of the command that runs on a function's page has stopped. A team that has retired meanwhile gives
BAD-STATE (DEDUCED, log entry 65). -/
def execHaltComplete (fn : Nat) (s : State) : Host.Outcome State Fault Refusal :=
  .next (match (tget s.pages fn).bind (·.dbgcmd) with
    | none => s
    | some d =>
      let done (s : State) (code : Nat) : State := freeHeld (setDbg (modPage s fn fun p => { p with dbgcmd := none }) fn code) d.ctx
      match getTeam s d.team, invOf s d.team with
      | some t, some iv =>
        if haltLands s iv.ctx iv d.role t then
          done (modTeam s d.team fun t => { t with
            groups := t.groups.map fun (g : Group) => { g with th := landHalt g.th }
            seq := t.seq.map fun q => { q with th := landHalt q.th } }) 0
        else s
      | _, _ => done s 1)

/-! ### RESUME and DUMP (R399, R400) -/

/-- Whether a word is BRK (R299) (DEDUCED, log entry 64). -/
def isBrk (w : IWord) : Bool := decide (fld w 24 8 = 0xBD#8)

/-- Whether a halted thread stopped at a BRK (DEDUCED, log entry 64). -/
def atBrk (th : Thread) : Bool := th.halted && isBrk th.word

/-- The agents of a team that have not retired. -/
def liveAgents (s : State) (k : Nat) : List Nat := agentsWith s k fun th => decide (th.run ≠ .retired)

/-- The streams RESUME resumes: those a command halted (R399); one that only a BRK halted stays (R400) (DEDUCED, log entry 65). -/
def resumeList (s : State) (k : Nat) : List Nat := agentsWith s k fun th => th.halted && th.byCmd && decide (th.run ≠ .retired)

/-- A halted stream goes on in its recorded state, RUNNING as READY (R120); from a BRK, behind it unless a frame moved it (DEDUCED, log
entry 64). -/
def resumeAgent (k : Nat) (s : State) (a : Nat) : State :=
  match getThread s k a with
  | none => s
  | some th =>
    let s1 := modThread s k a fun th => { th with halted := false, byCmd := false, run := if a ≠ 16 ∧ th.run = .running then .ready else th.run }
    if atBrk th then
      let s2 := match getGroup s1 k a with
        | some g => if th.pc = th.epc ∧ a < 16 then putGroup s1 k a (groupNext g (g.th.pc + 4) false th.word 0 []) else s1
        | none => s1
      modThread s2 k a fun th => { th with word := 0, run := if a ≠ 16 ∧ th.run = .running then .ready else th.run }
    else s1

/-- VA of the frame of an agent at ARG. -/
def dumpVa (arg a : Nat) : Nat := arg + a * frameSize

/-- Whether ARG is aligned and the frames of the agents of a list lie on pages mapped R and W. -/
def dumpArgOk (s : State) (c : Ctx) (arg : Nat) (l : List Nat) : Bool :=
  decide (arg % frameSize = 0) && l.all fun a => rangeOk (tables s) c.root (fun e => e.getLsbD 1 && e.getLsbD 2) (dumpVa arg a) frameSize

/-- Applies the frame at ARG to an agent, as ERET applies one (R381). -/
def applyDump (cn k arg : Nat) (s : State) (a : Nat) : State :=
  match readFrame s cn (dumpVa arg a) k a with
  | (s1, .inl bs) => applyFrame s1 k a bs
  | (s1, .inr _) => s1

/-- DEBUG_RESUME (R399): every frame at ARG is applied, also that of a stream only a BRK halted, which stays (R400). -/
def execDebugResume (fn inv : Nat) (s : State) : Host.Outcome State Fault Refusal :=
  runDbgTeam (.debugResume inv) fn inv s fun p cn k _ =>
    match getCtx s cn with
    | none => s
    | some c =>
      let arg := p.dbgarg.toNat
      let l := resumeList s k
      if arg ≠ 0 ∧ !dumpArgOk s c arg (liveAgents s k) then setDbg s fn 2
      else if l = [] ∨ (arg ≠ 0 ∧ (agentsWith s k fun th => !th.halted && decide (th.run ≠ .retired)) ≠ []) then setDbg s fn 3
      else setDbg (l.foldl (resumeAgent k) (if arg = 0 then s else (liveAgents s k).foldl (applyDump cn k arg) s)) fn 0

/-- Writes the frame of a halted agent. The SEQ of a frame no trap wrote is open: a free value (DESIGN CHOICE, log entry 66). -/
def dumpAgent (cn k arg : Nat) (s : State) (a : Nat) : State :=
  match getThread s k a with
  | none => s
  | some th =>
    match agentFrame s k a 0 (Config.freeWord s.draws a).toNat 0 (th.inBlock.getD th.pc) with
    | some bs => (deviceWriteLong cn framePages s (dumpVa arg a) bs).getD s
    | none => s

/-- DUMP (R399). -/
def execDump (fn inv : Nat) (s : State) : Host.Outcome State Fault Refusal :=
  runDbgTeam (.dump inv) fn inv s fun p cn k _ =>
    match getCtx s cn with
    | none => s
    | some c =>
      let arg := p.dbgarg.toNat
      let l := liveAgents s k
      if !dumpArgOk s c arg l then setDbg s fn 2
      else if (agentsWith s k fun th => !th.halted && decide (th.run ≠ .retired)) ≠ [] then setDbg s fn 3
      else setDbg (l.foldl (dumpAgent cn k arg) s) fn 0

/-! ### Breakpoints, TRACE and commands with no effect (R299, R399, R402) -/

/-- BRKON (R399). -/
def execBrkon (fn : Nat) (s : State) : Host.Outcome State Fault Refusal :=
  runDbg .brkon fn s fun _ cn _ => setDbg (modCtx s cn fun c => { c with brkOn := true }) fn 0

/-- BRKOFF (R399). -/
def execBrkoff (fn : Nat) (s : State) : Host.Outcome State Fault Refusal :=
  runDbg .brkoff fn s fun _ cn _ => setDbg (modCtx s cn fun c => { c with brkOn := false }) fn 0

/-- DEBUG_INVALID (R399). -/
def execDebugInvalid (fn : Nat) (cmd : BitVec 4) (s : State) : Host.Outcome State Fault Refusal := runDbg (.debugInvalid cmd) fn s fun _ _ _ => setDbg s fn 2

/-- Whether TRCFG and TRBASE give a ring TRACE accepts (R402). -/
def ringConfigOk (s : State) (c : Ctx) : Bool :=
  let e := bits c.trace.trcfg.toNat 0 5
  decide (12 ≤ e) && decide (e ≤ 30) && rangeOk (tables s) c.root (fun l => l.getLsbD 2) c.trace.trbase.toNat (2 ^ e)

/-- A trace that TRACE has turned on: the next packet is preceded by a SYNC. -/
def startTrace (t : Trace) : Trace :=
  { t with base := t.trbase, cfg := t.trcfg, head := 0, tail := 0, dropped := 0, source := none, since := 0, reported := false }

/-- TRACE (R402). -/
def execTrace (fn : Nat) (s : State) : Host.Outcome State Fault Refusal :=
  runDbg .trace fn s fun _ cn c =>
    if bits c.trace.trcfg.toNat 8 2 = 0 then setDbg (modCtx s cn fun c => { c with trace := { c.trace with cfg := c.trace.trcfg } }) fn 0
    else if !hasFeature c 8 then setDbg s fn 1
    else if !ringConfigOk s c then setDbg s fn 2
    else setDbg (modCtx s cn fun c => { c with trace := startTrace c.trace }) fn 0

/-- TRACE_SYNC_INTERVAL (R404): with 255 packets since the last SYNC, the next is preceded by one. -/
def execTraceSyncInterval (team agent : Nat) (s : State) : Host.Outcome State Fault Refusal :=
  .next (modCtx s (ctxNum s team) fun c =>
    if c.trace.source = some (team, agent) ∧ 255 ≤ c.trace.since then { c with trace := { c.trace with source := none } } else c)

/-! ### Stall accounting (R406) -/

/-- CAUSE codes. -/
def causeCode : StallCause → Nat
  | .operand => 0 | .bell => 1 | .token => 2 | .stream => 3 | .issueUnit => 4 | .throttle => 5 | .haltDebug => 6

/-- An entry of the table as STALLDUMP writes it. -/
def stallBytes (x : Stall) : List Byte :=
  natBytes x.prod.toNat 8 ++ natBytes x.cons.toNat 8 ++ natBytes (causeCode x.cause) 1 ++ natBytes 0 7 ++ natBytes x.clocks 8 ++
    x.hist.flatMap fun n => natBytes n 4

/-- Entries of the table (DEDUCED, log entry 67). -/
def stallEntries : Nat := 256

/-- STALLDUMP (R399, R406): the table is written, entries not in use as zeros, and zeroed. -/
def execStalldump (fn : Nat) (s : State) : Host.Outcome State Fault Refusal :=
  runDbg .stalldump fn s fun p cn c =>
    let arg := p.dbgarg.toNat
    if arg % 64 ≠ 0 ∨ !rangeOk (tables s) c.root (fun e => e.getLsbD 2) arg (64 * stallEntries) then setDbg s fn 2
    else
      let bs := c.stalls.flatMap stallBytes
      let s1 := (deviceWriteLong cn 8 s arg (bs ++ List.replicate (64 * stallEntries - bs.length) 0)).getD s
      setDbg (modCtx s1 cn fun c => { c with stalls := [] }) fn 0

/-- The HIST count a lag belongs to. -/
def lagBucket (lag : Nat) : Nat :=
  if lag < 2 then lag else if lag < 4 then 2 else if lag < 16 then 3 else if lag < 64 then 4 else if lag < 256 then 5 else if lag < 1024 then 6 else 7

/-- One more charged clock of an entry. -/
def chargeEntry (lag : Nat) (x : Stall) : Stall :=
  let b := lagBucket lag
  { x with clocks := (x.clocks + 1) % 2 ^ 64, hist := lset x.hist b (Nat.min (2 ^ 32 - 1) ((lget x.hist b).getD 0 + 1)) }

/-- PROD of the overflow entry (DEDUCED, log entry 67). -/
def overflowProd : Word := BitVec.allOnes 64

/-- Charges a clock to the entry of a key, a new one while the table has room, else to the overflow entry (DEDUCED, log entry 67). -/
def chargeStall (l : List Stall) (cause : StallCause) (prod cons : Word) (lag : Nat) : List Stall :=
  let fresh (p : Word) : Stall := chargeEntry lag { prod := p, cons := cons, cause := cause, clocks := 0, hist := List.replicate 8 0 }
  let hit (x : Stall) : Bool := decide (x.cause = cause) && decide (x.prod = prod) && decide (x.cons = cons)
  if l.any hit then l.map fun x => if hit x then chargeEntry lag x else x
  else if l.length + 1 < stallEntries then l ++ [fresh prod]
  else if l.any fun x => x.prod = overflowProd then l.map fun x => if x.prod = overflowProd then chargeEntry lag x else x
  else l ++ [fresh overflowProd]

/-- Whether an arrival of a halted group is outstanding at a bell: it has none in the present phase (R401) (DEDUCED, log entry 67). -/
def haltedOutstanding (t : Team) (b : Nat) : Bool :=
  ((upFrom 0 t.groups.length).zip t.groups).any fun e =>
    e.2.th.halted && !(((lget t.bells b).map fun x => x.by'.contains e.1).getD false)

/-- The slot of a group's READ stream that its last VSETVL waited on (R169). -/
def wantedSlot (t : Team) (a : Nat) : Option Slot := if a = 16 then none else (lget t.groups a).bind fun g => g.slots.find? (·.wanted)

/-- Whether a word is VSETVL or VSETVLI. -/
def isVsetvl (w : IWord) : Bool :=
  match decode w with
  | some (.vsetvl ..) => true | some (.vsetvli ..) => true
  | _ => false

/-- Whether a group is at a VSETVL that waits on a stream (R166, R169). -/
def waitsStrip (s : State) (cn : Nat) (t : Team) (a : Nat) (th : Thread) : Bool :=
  (wantedSlot t a).isSome && ((peekWord s cn th.pc.toNat).map isVsetvl).getD false

/-- Whether a thread's clock can be charged to a cause. Whether a stream that waits for no bell, token or strip awaits an operand or a
unit is a matter of the pipeline's time, so the event says it; the same of a group in WAIT-MEM, for which R406 names no cause (DEDUCED,
log entry 67). -/
def causeFits (s : State) (cn : Nat) (t : Team) (a : Nat) (th : Thread) (cause : StallCause) : Bool :=
  match cause, th.run with
  | .bell, .waitBell b => !haltedOutstanding t b
  | .haltDebug, .waitBell b => haltedOutstanding t b
  | .token, .waitToken _ => true
  | .throttle, .running => s.hub.throttled && decide (a = 16)
  | .stream, .ready | .stream, .running => waitsStrip s cn t a th
  | .operand, .ready | .operand, .running | .issueUnit, .ready | .issueUnit, .running => !waitsStrip s cn t a th
  | .operand, .waitMem _ | .operand, .waitQuiet .. | .issueUnit, .waitMem _ | .issueUnit, .waitQuiet .. => true
  | _, _ => false

/-- Whether an event's PROD and lag can be those of a clock: of an operand, the address of an instruction and a count of elements (R406)
(DEDUCED, log entry 67). -/
def operandFits (cause : StallCause) (prod lag : Nat) : Bool :=
  decide (cause ≠ .operand) || (decide (prod % 4 = 0) && decide (prod < 2 ^ 57) && decide (lag ≤ 8192))

/-- The token instruction that a TWAIT of an agent awaits: that of the lowest incomplete token of its mask (DEDUCED, log entry 67). -/
def tokenPc (t : Team) (a : Nat) (mask : BitVec 8) : Word :=
  (((upFrom 0 8).findSome? fun n => if mask.getLsbD n then t.ops.find? fun o => decide (o.agent = a) && decide (o.tok = n) else none).map (·.pc)).getD 0

/-- PROD and the lag of a charged clock (R406): of the last BARV the bell counted, of the token's instruction, of the slot's SCFG with
the elements not yet delivered; for an operand, which instruction it is and how many elements are missing is the event's to say (DEDUCED,
log entry 67). -/
def stallProducer (t : Team) (a : Nat) (th : Thread) (cause : StallCause) (prod lag : Nat) : Word × Nat :=
  match cause with
  | .operand => (BitVec.ofNat 64 prod, lag)
  | .stream => ((wantedSlot t a).map fun x => (x.pc, x.need - x.ahead.length)).getD (0, 0)
  | .bell => (match th.run with | .waitBell b => ((lget t.bells b).map (·.last)).getD 0 | _ => 0, 0)
  | .token => (match th.run with | .waitToken m => tokenPc t a m | _ => 0, 0)
  | .issueUnit => (0, 0)
  | .throttle => (0, 0)
  | .haltDebug => (0, 0)

/-- STALL_CLOCK_CHARGE (R406). -/
def execStallClockCharge (team agent : Nat) (cause : StallCause) (prod lag : Nat) (s : State) : Host.Outcome State Fault Refusal :=
  .next (match getTeam s team, getThread s team agent with
    | some t, some th =>
      let cn := ctxNum s team
      if t.saved ∨ th.halted ∨ !causeFits s cn t agent th cause ∨ !operandFits cause prod lag then s
      else
        let p := stallProducer t agent th cause prod lag
        let head := if insideConvoy s cn th then th.pc - BitVec.ofNat 64 (4 * th.convoy) else th.pc
        modCtx s cn fun c => { c with stalls := chargeStall c.stalls cause p.1 head p.2 }
    | _, _ => s)

/-! ### Commands held back (R60) -/

/-- A command that was held back begins: it is what its own event does. -/
def runCommand (fn ctx : Nat) (c : Command) (s : State) : Host.Outcome State Fault Refusal :=
  match c with
  | .negotiate => execNegotiate fn ctx s
  | .load => execLoad fn ctx s
  | .unload => execUnload fn ctx s
  | .start => execStart fn ctx s
  | .suspend => execSuspend fn ctx s
  | .resume => execResume fn ctx s
  | .release => execRelease fn ctx s
  | .query => execQuery fn ctx s
  | .invalidate g => execInvalidate fn ctx g s
  | .migrate g => execMigrate fn ctx g s
  | .heapEnable => execHeapEnable fn ctx s
  | .heapDisable => execHeapDisable fn ctx s
  | .evacuate d g a => execEvacuate fn ctx d g a s
  | .hctlInvalid op => execHctlInvalid fn ctx op s
  | .halt inv => execHalt fn inv s
  | .haltrole inv consumer => execHaltrole fn inv consumer s
  | .debugResume inv => execDebugResume fn inv s
  | .dump inv => execDump fn inv s
  | .brkon => execBrkon fn s
  | .brkoff => execBrkoff fn s
  | .trace => execTrace fn s
  | .stalldump => execStalldump fn s
  | .debugInvalid cmd => execDebugInvalid fn cmd s

end Sys2Proof.Machine
end

