-- ==== Sys2Proof/Machine/Matrix.lean ====
section
/-! DEFINITION. The group matrix unit (R350, R351), tile grants (R146 to R148, R353 to R355), operand records and their checks (R149 to R151), tile multiply (R356), tile loads and stores (R357, R358), accumulators and their image (R157 to R160, R359). -/
namespace Sys2Proof.Machine

/-! ### Group matrix multiply -/

/-- The word of VP i in format register f: 32-bit element i, laid out from register f on as a wide operand is (DEDUCED, log entry 19); one
that lies in a register at or above NV, which R350 does not check, reads as 0 (DESIGN CHOICE, log entry 113). -/
def formatWordAt (cx : Cx) (f i : Nat) : BitVec 32 := BitVec.ofNat 32 (wideElem cx f 32 i)

/-- The vote's outcome over the active VPs (R156): the word, or the lowest VP that disagrees (DEDUCED, log entry 19). -/
def formatVote (cx : Cx) (f : Nat) (act : List Nat) : BitVec 32 × Option Nat :=
  let fw := formatWordAt cx f (act.headD 0)
  (fw, act.find? fun i => decide (formatWordAt cx f i ≠ fw))

/-- Whether a context holds the xv feature. -/
def hasXv (s : State) (cn : Nat) : Bool := ((getCtx s cn).map fun c => hasFeature c 12).getD false

/-- The value of a multiplicand element: +0 where its index is inactive; with a header where blocks scale it (R351, R42). -/
def gmmaElem (act : List Nat) (fmt : Nat) (xve : Bool) (code : Nat → Nat) (hdr : Option (Nat → Nat)) (i : Nat) : FV :=
  if !act.contains i then .num false 0 0
  else match hdr with
    | none => decodeF fmt (code i)
    | some h => blockValue (code i) (h i) fmt xve

/-- The C elements of a GMMA over `n` = VLEN elements, by index (DEDUCED, log entry 20). -/
def gmmaResult (cx : Cx) (fw : BitVec 32) (act : List Nat) (d a b f n : Nat) (scaled : Bool) : List (Nat × Nat) :=
  let w := elemWidth cx.g
  let s := blockSize (vtBlk cx.g)
  let header := fun (r i : Nat) => bits (vecImage cx r i) (i / s * 16) 16
  let av := gmmaElem act (fwAF fw) (fwXVE fw) (fun i => elem cx a w i) (if scaled then some (header (f + 1)) else none)
  let bv := gmmaElem act (fwBF fw) (fwXVE fw) (fun i => wideElem cx b (fmtWidth (fwBF fw)) i) (if scaled then some (header (f + 2)) else none)
  (upFrom 0 n).map fun c =>
    let t := c / 256
    let i := c % 256 / 16
    let j := c % 16
    let ps := (upFrom 0 16).map fun k => productF (av (256 * t + 16 * i + k)) (bv (256 * t + 16 * j + k))
    (c, (accumulate fw 0 ps (BitVec.ofNat 32 (wideElem cx d 32 c))).1.toNat)

/-- Writes elements of the wide operand at `d` as the destination of an instruction with lookahead `la`. -/
def putWideLa (cx : Cx) (d wt la : Nat) (rs : List (Nat × Nat)) : Group × List Hidden :=
  let c := capElems cx.kn cx.g wt
  (upFrom 0 (wideCount cx wt)).foldl (fun a k =>
    let mine := rs.filter fun r => r.1 / c = k
    if mine = [] then a
    else
      let pm := packElems wt (mine.map fun r => (r.1 % c, r.2))
      let r := putVecLa a.1 cx.vps.isSome (d + k) pm.1 pm.2 la
      (r.1, a.2 ++ r.2)) (cx.g, [])

/-- GMMA and GMMAS (R350, R351). -/
def runGmma (i : Instr) (d a b : BitVec 6) (f : BitVec 3) (l : BitVec 4) (scaled : Bool) (s : State) : Host.Outcome State Fault Refusal :=
  runGroup vecRules i (fun cx =>
    let n := readVlen cx
    let act := active cx
    let r := formatVote cx f.toNat act
    let fw := r.1
    let wide := fun (v wt : Nat) => (upFrom v (wideCount cx wt)).all (vReadOk cx.g)
    if n % 256 ≠ 0 ∨ !vReadOk cx.g f.toNat ∨ (scaled ∧ !vReadOk cx.g (f.toNat + 2)) ∨ !vReadOk cx.g a.toNat ∨ !vReadOk cx.g b.toNat ∨ !wideWriteOk cx d.toNat 32 ∨
        (act ≠ [] ∧ !(wide b.toNat (fmtWidth (fwBF fw)))) then illegal cx (encode i)
    else if act = [] then ok cx
    else match r.2 with
      | some j => { cx := cx, fate := .trap 3 (BitVec.ofNat 64 j) }
      | none =>
        if !formatWordOk fw (hasXv cx.s cx.cn) ∨ vtFmt cx.g ≠ fwAF fw ∨ (!scaled ∧ fwBLK fw ≠ 0) ∨
            (scaled ∧ (fwBLK fw = 0 ∨ fwBLK fw ≠ vtBlk cx.g)) then illegalFormat cx (encode i)
        else
          let p := putWideLa cx d.toNat 32 l.toNat (gmmaResult cx fw act d.toNat a.toNat b.toNat f.toNat n scaled)
          { cx := { cx with g := p.1 }, fate := .done, la := l.toNat, hid := p.2 }) s

/-- GMMA (R350). -/
def execGmma (d a b : BitVec 6) (f : BitVec 3) (l : BitVec 4) (s : State) : Host.Outcome State Fault Refusal :=
  runGmma (.gmma d a b f l) d a b f l false s

/-- GMMAS (R350). -/
def execGmmas (d a b : BitVec 6) (f : BitVec 3) (l : BitVec 4) (s : State) : Host.Outcome State Fault Refusal :=
  runGmma (.gmmas d a b f l) d a b f l true s

/-! ### Grants and records -/

def sxTeam (sx : Sx) : Option Team := getTeam sx.s sx.k

/-- Whether any accumulator is OPEN (R147). -/
def anyOpen (q : Seq) : Bool := q.accs.any fun a => a.st = .opened

/-- The k register k + i as a number. -/
def kReg (sx : Sx) (k : BitVec 5) (i : Nat) : Nat := (readX sx.q.th (k.toNat + i)).toNat

/-- TsetGrant (R147), the format word accepted. -/
def tsetGrant (q : Seq) (tg : Target) (mq nq kq me ne ke : Nat) (fw : BitVec 32) : Seq :=
  let i := promotionInterval fw
  let dp := tg.gmaxk * depthMul (fwAF fw)
  let kd := Nat.max i (i * (Nat.min kq dp / i))
  { q with
    gm := if anyOpen q then q.gm else Nat.min (Nat.min mq tg.gmaxm) me
    gn := if anyOpen q then q.gn else Nat.min (Nat.min nq tg.gmaxn) ne
    gk := Nat.min kd ke
    fmt := fw
    cache := [] }

/-- TSET (R147, R353): empties the scale cache. -/
def execTset (k : BitVec 5) (s : State) : Host.Outcome State Fault Refusal :=
  runSeq (.tset k) (fun sx =>
    if k.toNat > 25 then illegalSeq sx (encode (.tset k))
    else
      let x := kReg sx k 6
      let fw := BitVec.ofNat 32 x
      if 2 ^ 32 ≤ x ∨ !formatWordOk fw (hasXv sx.s sx.cn) then illegalFormatSeq sx (encode (.tset k))
      else match sxTeam sx with
        | some t => okSeq { sx with q := tsetGrant sx.q t.target (kReg sx k 0) (kReg sx k 1) (kReg sx k 2) (kReg sx k 3) (kReg sx k 4) (kReg sx k 5) fw }
        | none => okSeq sx) s

/-- TSET.M (R354). -/
def execTsetM (k : BitVec 5) (s : State) : Host.Outcome State Fault Refusal :=
  runSeq (.tsetM k) (fun sx =>
    let v := readX sx.q.th k.toNat
    let m := sx.q.mstat &&& ~~~(v &&& 0xF1E#64)
    okSeq { sx with q := { sx.q with mstat := (m &&& ~~~(0x1000#64)) ||| (v &&& 0x1000#64) } }) s

/-- The CSRs the sequencer reads (R250, R355). -/
def csrSeq (sx : Sx) (t : Team) (iv : Invoc) (n : Nat) : Option Word :=
  let q := sx.q
  match n with
  | 0x009 => some (toksWord q.th)
  | 0x00A => some (BitVec.ofNat 64 sx.s.clk)
  | 0x012 => some (BitVec.ofNat 64 t.tidx)
  | 0x013 => some (BitVec.ofNat 64 (t.tidx % iv.gang))
  | 0x014 => some (classWord t.target)
  | 0x015 => some (BitVec.ofNat 64 t.target.gmaxm)
  | 0x016 => some (BitVec.ofNat 64 t.target.gmaxn)
  | 0x017 => some (BitVec.ofNat 64 t.target.gmaxk)
  | 0x040 => some (BitVec.ofNat 64 q.gm)
  | 0x041 => some (BitVec.ofNat 64 q.gn)
  | 0x042 => some (BitVec.ofNat 64 q.gk)
  | 0x043 => some (mstatWord q)
  | 0x044 => some (q.fmt.setWidth 64)
  | _ => none

/-- TGET (R355). -/
def execTget (k : BitVec 5) (c : BitVec 12) (s : State) : Host.Outcome State Fault Refusal :=
  runSeq (.tget k c) (fun sx =>
    match sxTeam sx, invOf sx.s sx.k with
    | some t, some iv => (match csrSeq sx t iv c.toNat with
        | some v => okWriteSeq sx k.toNat v 0
        | none => illegalSeq sx (encode (.tget k c)))
    | _, _ => okSeq sx) s

/-- The 256 bits of k registers k to k + 3. -/
def kRecord (sx : Sx) (k : BitVec 5) : BitVec 256 :=
  BitVec.ofNat 256 (kReg sx k 0 + kReg sx k 1 * 2 ^ 64 + kReg sx k 2 * 2 ^ 128 + kReg sx k 3 * 2 ^ 192)

/-- TREC (R352): checks nothing in the record. -/
def execTrec (k : BitVec 5) (m : BitVec 3) (s : State) : Host.Outcome State Fault Refusal :=
  runSeq (.trec k m) (fun sx =>
    if k.toNat > 28 then illegalSeq sx (encode (.trec k m))
    else okSeq { sx with q := { sx.q with m := tputD sx.q.m m.toNat (kRecord sx k) 0 } }) s

def getRec (q : Seq) (m : BitVec 3) : BitVec 256 := tgetD q.m m.toNat 0

def getAcc (q : Seq) (c : BitVec 2) : Acc := (lget q.accs c.toNat).getD { st := .closed, fmt := 0, kpos := 0, data := [] }

def putAcc (q : Seq) (c : BitVec 2) (a : Acc) : Seq := { q with accs := lset q.accs c.toNat a }

/-! ### Checks of records (R151) -/

/-- TRAPV of an operand-bounds fault (R151). -/
def boundsWord (kind : Nat) (m : BitVec 3) (c : BitVec 2) : Word := BitVec.ofNat 64 (kind + 16 * m.toNat + 256 * c.toNat)

/-- An operand-bounds trap. -/
def boundsTrap (sx : Sx) (kind : Nat) (m : BitVec 3) (c : BitVec 2) : SOut := { sx := sx, fate := .trap 5 (boundsWord kind m c) }

/-- A record whose reserved fields or format are malformed raises illegal-format before the rows of R151; `fmt` is the
format an operand must have. -/
def recFormatOk (r : BitVec 256) (fmt : Option Nat) : Bool :=
  recReservedOk r && decide (recFmt r ≤ 11) && (match fmt with
    | some f => decide (recFmt r = f)
    | none => true)

/-- The rows MEMBER, ALLOC and EXTENT for a view of a record, in order: the KIND of the first that fails. `own` asks for the
team's own allocation; `align` for the byte alignment of a TLD (R357); `view` false leaves EXTENT to the image's own check. -/
def recRowsBad (sx : Sx) (r : BitVec 256) (rows cols : Nat) (own align view : Bool) : Option Nat :=
  match sxTeam sx, invOf sx.s sx.k with
  | some t, some iv =>
    let w := fmtWidth (recFmt r)
    let nr := Nat.min rows (recRows r)
    let nc := Nat.min cols (recCols r)
    if iv.gang ≤ recMember r ∨ (getTeam sx.s (gangMember iv t (recMember r))).isNone ∨ (own ∧ recMember r ≠ t.tidx % iv.gang) then some 0
    else if iv.spad * 4096 < recOffset r + recExtent r then some 1
    else if align ∧ 8 ≤ w ∧ (recOffset r % (w / 8) ≠ 0 ∨ recPitch r % (w / 8) ≠ 0) then some 2
    else if !view ∨ nr = 0 ∨ nc = 0 then none
    else if recExtent r < (nr - 1) * recPitch r + ceilDiv (nc * w) 8 then some 2
    else none
  | _, _ => some 0

/-- Goes on when every token of a wait mask is complete (R349), acquiring them; else waits. -/
def waitMask (sx : Sx) (w : BitVec 8) (f : Sx → SOut) : SOut :=
  if sx.q.th.pend &&& w ≠ 0 then { sx := sx, fate := .stay }
  else f (if w = 0 then sx else { sx with q := { sx.q with cache := [] } })

/-- Window address of a byte of a gang member's allocation (R249). -/
def windowVa (member off : Nat) : Word := BitVec.ofNat 64 (0x3FFFC0000 * 2 ^ 23 + member * 2 ^ 20 + off)

/-- A view of a record: its element codes, +0 beyond ROWS or COLS (R150). -/
def viewCode (t : Team) (r : BitVec 256) (i j : Nat) : Nat :=
  if i < recRows r ∧ j < recCols r then spadBits t (recBit r (fmtWidth (recFmt r)) i j) (fmtWidth (recFmt r)) else 0

/-- The byte offset of the first poisoned element that a view of rows × cols elements reads (R372, R375). -/
def viewPoison (t : Team) (r : BitVec 256) (rows cols : Nat) : Option Nat :=
  if t.spadPoison = [] then none
  else
    let w := fmtWidth (recFmt r)
    ((pairsOf (Nat.min rows (recRows r)) (Nat.min cols (recCols r))).find? fun e =>
      let b := recBit r w e.1 e.2
      (spadUnits (b / 8) (ceilDiv (b % 8 + w) 8)).any fun u => t.spadPoison.contains u).map fun e => recBit r w e.1 e.2 / 8

/-! ### Tile multiply -/

/-- The line of headers at an address read into the cache, by an implicit TLD, which addresses global memory alone; how the read fails
(R155) (log entry 18). -/
def fillHeader (sx : Sx) (va : Word) : Sx × Option Fate :=
  match resolve sx.s { seqAsker sx with glob := true } va 2 .read 0 with
  | (s1, .lost) => ({ sx with s := s1 }, some .lost)
  | (s1, .bad b) => ({ sx with s := s1 }, some (badFate b 0))
  | (s1, .at l) =>
    if poisoned s1 l 2 then ({ sx with s := s1 }, some (.trap 0x10 va))
    else match l with
      | .glob pa _ _ =>
        let base := va.toNat / 64 * 64
        let cache := (upFrom 0 32).foldl (fun c n => tput c (base + 2 * n) (BitVec.ofNat 16 (readNat s1.mem (pa / 64 * 64 + 2 * n) 2))) sx.q.cache
        ({ sx with s := snoop s1 sx.k 16 (pa / 64) false, q := { sx.q with cache := cache } }, none)
      | _ => ({ sx with s := s1 }, none)

/-- Fills the headers of a list of addresses that the cache misses. -/
def fillHeaders : List Word → Sx → Sx × Option Fate
  | [], sx => (sx, none)
  | va :: r, sx =>
    if (tget sx.q.cache va.toNat).isSome then fillHeaders r sx
    else match fillHeader sx va with
      | (sx1, none) => fillHeaders r sx1
      | e => e

/-- The header addresses of a view, where its record has a scale tensor. -/
def headerVas (r : BitVec 256) (rows cols : Nat) : List Word :=
  if recSbase r = 0 then [] else (pairsOf (Nat.min rows (recRows r)) (Nat.min cols (recCols r))).map fun e => headerVa r e.1 e.2

/-- The value of an element of an operand view: unit scale for a record with SBASE 0 (R356). -/
def viewValue (q : Seq) (t : Team) (r : BitVec 256) (scaled : Bool) (i j : Nat) : FV :=
  let c := viewCode t r i j
  if scaled ∧ recSbase r ≠ 0 ∧ i < recRows r ∧ j < recCols r then
    blockValue c ((tgetD q.cache (headerVa r i j).toNat 0).toNat) (recFmt r) (fwXVE q.fmt)
  else decodeF (recFmt r) c

/-- The elements of an accumulator after a tile multiply, and whether R53 saturated (DEDUCED, log entry 20). -/
def tmmResult (q : Seq) (ac : Acc) (ta tb : Team) (ra rb : BitVec 256) (scaled : Bool) : List (Nat × BitVec 32 × Bool) :=
  let cols := (upFrom 0 q.gn).map fun j => (upFrom 0 q.gk).map fun k => viewValue q tb rb scaled k j
  (upFrom 0 q.gm).flatMap fun i =>
    let row := (upFrom 0 q.gk).map fun k => viewValue q ta ra scaled i k
    (upFrom 0 q.gn).map fun j =>
      let n := i * q.gn + j
      let ps := List.zipWith productF row ((lget cols j).getD [])
      (n, accumulate q.fmt ac.kpos ps (tgetD ac.data n 0))

/-- The bits of two format words that a tile multiply needs equal (R159): AF, BF, BLK, XVE, PINT. -/
def sameFormat (a b : BitVec 32) : Bool :=
  decide (fwAF a = fwAF b) && decide (fwBF a = fwBF b) && decide (fwBLK a = fwBLK b) && decide (fwXVE a = fwXVE b) && decide (fwPINT a = fwPINT b)

/-- The multiply of a TMM or TMMS whose checks and waits are done. -/
def tmmRun (sx : Sx) (c : BitVec 2) (ra rb : BitVec 256) (scaled : Bool) (l : BitVec 4) : SOut :=
  let q := sx.q
  let ac := getAcc q c
  match getTeam sx.s (recTeam sx.s sx.k ra), getTeam sx.s (recTeam sx.s sx.k rb) with
  | some ta, some tb =>
    (match viewPoison ta ra q.gm q.gk, viewPoison tb rb q.gk q.gn with
      | some o, _ => { sx := sx, fate := .trap 0x10 (windowVa (recMember ra) o) }
      | none, some o => { sx := sx, fate := .trap 0x10 (windowVa (recMember rb) o) }
      | none, none =>
        let rs := tmmResult q ac ta tb ra rb scaled
        let sat := rs.any fun r => r.2.2
        let q1 := if sat then { q with mstat := q.mstat ||| BitVec.ofNat 64 (2 ^ (8 + c.toNat)) } else q
        if sat ∧ q.mstat.getLsbD 12 then { sx := { sx with q := q1 }, fate := .trap 8 (BitVec.ofNat 64 c.toNat) }
        else
          let data := rs.foldl (fun t r => tputD t r.1 r.2.1 0) ac.data
          { sx := { sx with q := putAcc q1 c { ac with kpos := ac.kpos + q.gk, data := data } }, fate := .done, la := l.toNat })
  | _, _ => { sx := sx, fate := .done, la := l.toNat }

/-- TMM and TMMS (R356). TRAPV of a STATE fault names record 0 (DESIGN CHOICE, log entry 111). -/
def runTmm (i : Instr) (c : BitVec 2) (a b : BitVec 3) (w : BitVec 8) (l : BitVec 4) (scaled : Bool) (s : State) : Host.Outcome State Fault Refusal :=
  runSeq i (fun sx =>
    let q := sx.q
    let ra := getRec q a
    let rb := getRec q b
    if !recFormatOk ra (some (fwAF q.fmt)) ∨ !recFormatOk rb (some (fwBF q.fmt)) then illegalFormatSeq sx (encode i)
    else match recRowsBad sx ra q.gm q.gk false false true, recRowsBad sx rb q.gk q.gn false false true with
      | some k, _ => boundsTrap sx k a c
      | none, some k => boundsTrap sx k b c
      | none, none =>
        if (getAcc q c).st ≠ .opened then boundsTrap sx 5 0 c
        else if !sameFormat q.fmt (getAcc q c).fmt ∨ scaled = decide (fwBLK q.fmt = 0) then illegalFormatSeq sx (encode i)
        else waitMask sx w fun sx =>
          if q.gm = 0 ∨ q.gn = 0 ∨ q.gk = 0 then { sx := sx, fate := .done, la := l.toNat }
          else if scaled then
            match fillHeaders (headerVas ra q.gm q.gk ++ headerVas rb q.gk q.gn) sx with
            | (sx1, none) => tmmRun sx1 c ra rb true l
            | (sx1, some f) => { sx := sx1, fate := f }
          else tmmRun sx c ra rb false l) s

/-- TMM (R356). -/
def execTmm (c : BitVec 2) (a b : BitVec 3) (w : BitVec 8) (l : BitVec 4) (s : State) : Host.Outcome State Fault Refusal :=
  runTmm (.tmm c a b w l) c a b w l false s

/-- TMMS (R356). -/
def execTmms (c : BitVec 2) (a b : BitVec 3) (w : BitVec 8) (l : BitVec 4) (s : State) : Host.Outcome State Fault Refusal :=
  runTmm (.tmms c a b w l) c a b w l true s

/-! ### Tile loads and stores -/

/-- Starts an operation of the sequencer, once its token is free (R140). -/
def startTile (sx : Sx) (tok : Nat) (kind : EngKind) (l : BitVec 4) : SOut :=
  { sx := withSeqTh { sx with s := startOp sx.s sx.k 16 tok kind sx.q.th.pc } (pendWith sx.q.th tok kind), fate := .done, la := l.toNat }

/-- The cells of a view in ascending order of their scratchpad address (R172). -/
def cellsOf (r : BitVec 256) (rows cols : Nat) : List (Nat × Nat) :=
  let nr := Nat.min rows (recRows r)
  let nc := Nat.min cols (recCols r)
  let w := fmtWidth (recFmt r)
  let l := pairsOf nr nc
  if nc * w ≤ 8 * recPitch r then l else sortKey (fun e => recBit r w e.1 e.2) l

/-- TLD (R357, R358). -/
def execTld (m t : BitVec 3) (k : BitVec 5) (sel : BitVec 2) (l : BitVec 4) (s : State) : Host.Outcome State Fault Refusal :=
  let i := Instr.tld m t k sel l
  runSeq i (fun sx =>
    let q := sx.q
    let r := getRec q m
    if sel = 3 then illegalSeq sx (encode i)
    else
      let box := if sel = 0 then (q.gm, q.gk) else if sel = 1 then (q.gk, q.gn) else (q.gm, q.gn)
      let want := if sel = 0 then some (fwAF q.fmt) else if sel = 1 then some (fwBF q.fmt) else none
      if !recFormatOk r want then illegalFormatSeq sx (encode i)
      else match recRowsBad sx r box.1 box.2 false true true with
        | some kind => boundsTrap sx kind m 0
        | none =>
          if q.th.pend.getLsbD t.toNat then { sx := sx, fate := .stay }
          else startTile sx t.toNat (.tld r (readX q.th k.toNat) (recFmt r) (cellsOf r box.1 box.2) (decide (sel.toNat < 2) && decide (recSbase r ≠ 0))) l) s

/-- MSTAT flags from those of a conversion (R58, R161). -/
def mstatFlags (fl : Nat) : Word :=
  BitVec.ofNat 64 ((if bit fl 7 then 16 else 0) + (if bit fl 5 then 8 else 0) + (if bit fl 4 then 4 else 0) + (if bit fl 3 then 2 else 0))

/-- An accumulator element converted to a format (R58): identity for FP32. -/
def convAcc (fw : BitVec 32) (fmt : Nat) (c : BitVec 32) : Nat × Nat :=
  if fmt = 0 then (c.toNat, 0) else narrow (decodeF 0 c.toNat) fmt (fwORND fw) (fwSAT fw)

/-- Element (i, j) of an accumulator. -/
def accElem (q : Seq) (ac : Acc) (i j : Nat) : BitVec 32 := tgetD ac.data (i * q.gn + j) 0

/-- Quantises the elements of each block of a TST together (R358): codes with element numbers, headers, flags. -/
def quantTst (fw : BitVec 32) (fmt shift : Nat) (es : List (Nat × BitVec 32)) : List (Nat × Nat) × List (Nat × Nat) × Nat :=
  ((es.map fun e => e.1 / 2 ^ shift).eraseDups).foldl (fun a n =>
    let mine := es.filter fun e => e.1 / 2 ^ shift = n
    let r := quantBlock (mine.map fun e => decodeF 0 e.2.toNat) fmt (fwXVE fw) (fwORND fw) (fwSAT fw)
    (a.1 ++ List.zipWith (fun e c => (e.1, c)) mine r.2.1, a.2.1 ++ [(n, r.1)], a.2.2 ||| r.2.2)) ([], [], 0)

/-- Closes an accumulator. -/
def closeAcc (q : Seq) (c : BitVec 2) (close : Bool) : Seq :=
  if close then putAcc q c { st := .closed, fmt := 0, kpos := 0, data := [] } else q

/-- TST and TST.C (R358): the elements are read and converted at issue. -/
def runTst (i : Instr) (m t : BitVec 3) (k : BitVec 5) (c : BitVec 2) (l : BitVec 4) (close : Bool) (s : State) : Host.Outcome State Fault Refusal :=
  runSeq i (fun sx =>
    let q := sx.q
    let r := getRec q m
    let fmt := recFmt r
    let scaled := decide (3 ≤ fmt) && decide (fmt ≤ 7) && decide (recSbase r ≠ 0)
    if !recFormatOk r none ∨ 7 < fmt ∨ (scaled ∧ (recShift r < 4 ∨ 6 < recShift r)) then illegalFormatSeq sx (encode i)
    else if (getAcc q c).st ≠ .opened then boundsTrap sx 5 m c
    else if q.th.pend.getLsbD t.toNat then { sx := sx, fate := .stay }
    else
      let ac := getAcc q c
      let nc := Nat.min q.gn (recCols r)
      let es0 := (pairsOf (Nat.min q.gm (recRows r)) nc).map fun e => (recElem r e.1 e.2, accElem q ac e.1 e.2)
      let es := if nc ≤ recEld r then es0 else sortKey (fun e => e.1) es0
      let base := readX q.th k.toNat
      let out : List (Nat × Nat) × List (Nat × Nat) × Nat :=
        if scaled then
          let z := quantTst q.fmt fmt (recShift r) es
          (sortKey (fun e => e.1) z.1, z.2.1, z.2.2)
        else
          let cs := es.map fun e => (e.1, convAcc q.fmt fmt e.2)
          (cs.map fun e => (e.1, e.2.1), [], cs.foldl (fun a e => a ||| e.2.2) 0)
      let q1 := closeAcc { q with mstat := q.mstat ||| mstatFlags out.2.2 } c close
      startTile { sx with q := q1 } t.toNat (.tst r base fmt out.1 out.2.1) l) s

/-- TST (R358). -/
def execTst (m t : BitVec 3) (k : BitVec 5) (c : BitVec 2) (l : BitVec 4) (s : State) : Host.Outcome State Fault Refusal :=
  runTst (.tst m t k c l) m t k c l false s

/-- TST.C (R358). -/
def execTstC (m t : BitVec 3) (k : BitVec 5) (c : BitVec 2) (l : BitVec 4) (s : State) : Host.Outcome State Fault Refusal :=
  runTst (.tstC m t k c l) m t k c l true s

/-! ### Accumulators -/

/-- OPEN accumulators other than one. -/
def othersOpen (q : Seq) (c : BitVec 2) : Nat :=
  ((upFrom 0 4).filter fun n => decide (n ≠ c.toNat) && ((lget q.accs n).map fun a => decide (a.st = .opened)).getD false).length

/-- Whether opening an accumulator with a shape would exceed the capacity (R153). -/
def overCapacity (sx : Sx) (c : BitVec 2) (rows cols : Nat) : Bool :=
  match sxTeam sx with
  | some t => decide (capacityOf t.target < othersOpen sx.q c * (sx.q.gm * sx.q.gn) + rows * cols)
  | none => false

/-- MSTAT with an accumulator's ACCOV set or cleared. -/
def withAccov (q : Seq) (c : BitVec 2) (b : Bool) : Seq := { q with mstat := BitVec.ofNat 64 (setBit q.mstat.toNat (8 + c.toNat) b) }

/-- TZERO (R158, R359). -/
def execTzero (c : BitVec 2) (w : BitVec 8) (l : BitVec 4) (s : State) : Host.Outcome State Fault Refusal :=
  runSeq (.tzero c w l) (fun sx =>
    if sx.q.gm = 0 ∨ sx.q.gn = 0 then boundsTrap sx 4 0 c
    else if overCapacity sx c sx.q.gm sx.q.gn then boundsTrap sx 3 0 c
    else waitMask sx w fun sx =>
      { sx := { sx with q := withAccov (putAcc sx.q c { st := .opened, fmt := sx.q.fmt, kpos := 0, data := [] }) c false }, fate := .done, la := l.toNat }) s

/-- TSAVE (R160, R359). -/
def execTsave (c : BitVec 2) (m : BitVec 3) (w : BitVec 8) (l : BitVec 4) (s : State) : Host.Outcome State Fault Refusal :=
  let i := Instr.tsave c m w l
  runSeq i (fun sx =>
    let q := sx.q
    let r := getRec q m
    let ac := getAcc q c
    if !recFormatOk r none then illegalFormatSeq sx (encode i)
    else match recRowsBad sx r 0 0 true false false with
      | some k => boundsTrap sx k m c
      | none =>
        if ac.st ≠ .opened then boundsTrap sx 5 m c
        else if recOffset r % 64 ≠ 0 ∨ recExtent r < 64 + 4 * q.gm * q.gn then boundsTrap sx 2 m c
        else waitMask sx w fun sx =>
          let img := accImage sx.q c ac
          { sx := { sx with
              s := modTeam sx.s sx.k fun t => spadMark (spadWrite t (recOffset r) img) (recOffset r) img.length false
              q := putAcc sx.q c { st := .saved, fmt := 0, kpos := 0, data := [] } }, fate := .done, la := l.toNat }) s

/-- Whether the 64 bytes of an image's header hold a version, zeros and a format word that are accepted (R160, step 3). -/
def imageOk (h : List Byte) (xv : Bool) : Bool :=
  decide (frameNat h 0 2 = 1) && decide (frameNat h 6 2 = 0) && decide (frameNat h 0x10 4 < 2) && decide (frameNat h 0x14 44 = 0) &&
    formatWordOk (BitVec.ofNat 32 (frameNat h 8 4)) xv

/-- Poison among bytes of the team's own scratchpad, by offset. -/
def spadPoisonAt (t : Team) (off n : Nat) : Option Nat := (spadUnits off n).find? fun u => t.spadPoison.contains u

/-- TRESTORE behind its wait (R160, steps 3 to 7). -/
def restoreRun (i : Instr) (c : BitVec 2) (m : BitVec 3) (r : BitVec 256) (l : BitVec 4) (sx : Sx) : SOut :=
  match sxTeam sx with
  | none => okSeq sx
  | some t =>
    let q := sx.q
    let o := recOffset r
    let h := spadBytes t o 64
    let rows := frameNat h 2 2
    let cols := frameNat h 4 2
    let poison := fun (u : Nat) => ({ sx := sx, fate := .trap 0x10 (windowVa (recMember r) (8 * u)) } : SOut)
    match spadPoisonAt t o 64 with
    | some u => poison u
    | none =>
      if !imageOk h (hasXv sx.s sx.cn) then illegalFormatSeq sx (encode i)
      else if rows = 0 ∨ 128 < rows ∨ cols = 0 ∨ 256 < cols then boundsTrap sx 4 m c
      else if recExtent r < 64 + 4 * rows * cols then boundsTrap sx 2 m c
      else if (if othersOpen q c = 0 then decide (t.target.gmaxm < rows) || decide (t.target.gmaxn < cols)
          else decide (rows ≠ q.gm) || decide (cols ≠ q.gn)) then boundsTrap sx 4 m c
      else if overCapacity sx c rows cols then boundsTrap sx 3 m c
      else match spadPoisonAt t (o + 64) (4 * rows * cols) with
        | some u => poison u
        | none =>
          let data := (upFrom 0 (rows * cols)).foldl (fun d n => tputD d n (BitVec.ofNat 32 (bytesNat (spadBytes t (o + 64 + 4 * n) 4))) 0) []
          let q1 := { putAcc q c { st := .opened, fmt := BitVec.ofNat 32 (frameNat h 8 4), kpos := frameNat h 0xC 4, data := data } with gm := rows, gn := cols }
          { sx := { sx with q := withAccov q1 c (decide (frameNat h 0x10 4 = 1)) }, fate := .done, la := l.toNat }

/-- TRESTORE (R160, R359). -/
def execTrestore (c : BitVec 2) (m : BitVec 3) (w : BitVec 8) (l : BitVec 4) (s : State) : Host.Outcome State Fault Refusal :=
  let i := Instr.trestore c m w l
  runSeq i (fun sx =>
    let r := getRec sx.q m
    if !recFormatOk r none then illegalFormatSeq sx (encode i)
    else match recRowsBad sx r 0 0 true false false with
      | some k => boundsTrap sx k m c
      | none => if recOffset r % 64 ≠ 0 then boundsTrap sx 2 m c else waitMask sx w (restoreRun i c m r l)) s

/-- TCVT and TCVT.C (R359): rows in order, so that each byte keeps the element of the higher row (R150). -/
def runTcvt (i : Instr) (c : BitVec 2) (m : BitVec 3) (w : BitVec 8) (l : BitVec 4) (close : Bool) (s : State) : Host.Outcome State Fault Refusal :=
  runSeq i (fun sx =>
    let q := sx.q
    let r := getRec q m
    if !recFormatOk r none then illegalFormatSeq sx (encode i)
    else match recRowsBad sx r q.gm q.gn true false true with
      | some k => boundsTrap sx k m c
      | none =>
        if (getAcc q c).st ≠ .opened then boundsTrap sx 5 m c
        else if 4 < recFmt r then illegalFormatSeq sx (encode i)
        else waitMask sx w fun sx =>
          let fw := sx.q.fmt
          let bw := fmtWidth (recFmt r)
          let cs := (pairsOf (Nat.min q.gm (recRows r)) (Nat.min q.gn (recCols r))).map fun e => (e, convAcc fw (recFmt r) (accElem q (getAcc q c) e.1 e.2))
          let s1 := modTeam sx.s sx.k fun t => cs.foldl (fun t e => spadPutBits t (recBit r bw e.1.1 e.1.2) bw e.2.1) t
          let q1 := closeAcc { sx.q with mstat := sx.q.mstat ||| mstatFlags (cs.foldl (fun a e => a ||| e.2.2) 0) } c close
          { sx := { sx with s := s1, q := q1 }, fate := .done, la := l.toNat }) s

/-- TCVT (R359). -/
def execTcvt (c : BitVec 2) (m : BitVec 3) (w : BitVec 8) (l : BitVec 4) (s : State) : Host.Outcome State Fault Refusal :=
  runTcvt (.tcvt c m w l) c m w l false s

/-- TCVT.C (R359). -/
def execTcvtC (c : BitVec 2) (m : BitVec 3) (w : BitVec 8) (l : BitVec 4) (s : State) : Host.Outcome State Fault Refusal :=
  runTcvt (.tcvtC c m w l) c m w l true s

end Sys2Proof.Machine
end

