-- ==== Sys2Proof/Machine/Dispatch.lean ====
section
/-! DEFINITION. What every row of the opcode table does: one arm per constructor, each one direct call of its meaning. -/
namespace Sys2Proof.Machine

def exec (i : Instr) (s : State) : Host.Outcome State Fault Refusal :=
  match i with
  | .nop => Sys2Proof.Machine.execNop s
  | .trap c => Sys2Proof.Machine.execTrap c s
  | .eret => Sys2Proof.Machine.execEret s
  | .yield => Sys2Proof.Machine.execYield s
  | .clock d => Sys2Proof.Machine.execClock d s
  | .bra o => Sys2Proof.Machine.execBra o s
  | .bp c o => Sys2Proof.Machine.execBp c o s
  | .bnp c o => Sys2Proof.Machine.execBnp c o s
  | .loop c o => Sys2Proof.Machine.execLoop c o s
  | .jmp o => Sys2Proof.Machine.execJmp o s
  | .call o => Sys2Proof.Machine.execCall o s
  | .jr a => Sys2Proof.Machine.execJr a s
  | .callr d a => Sys2Proof.Machine.execCallr d a s
  | .ret => Sys2Proof.Machine.execRet s
  | .add d a b => Sys2Proof.Machine.execAdd d a b s
  | .sub d a b => Sys2Proof.Machine.execSub d a b s
  | .and d a b => Sys2Proof.Machine.execAnd d a b s
  | .or d a b => Sys2Proof.Machine.execOr d a b s
  | .xor d a b => Sys2Proof.Machine.execXor d a b s
  | .andn d a b => Sys2Proof.Machine.execAndn d a b s
  | .sll d a b => Sys2Proof.Machine.execSll d a b s
  | .srl d a b => Sys2Proof.Machine.execSrl d a b s
  | .sra d a b => Sys2Proof.Machine.execSra d a b s
  | .slt d a b => Sys2Proof.Machine.execSlt d a b s
  | .sltu d a b => Sys2Proof.Machine.execSltu d a b s
  | .min d a b => Sys2Proof.Machine.execMin d a b s
  | .max d a b => Sys2Proof.Machine.execMax d a b s
  | .minu d a b => Sys2Proof.Machine.execMinu d a b s
  | .maxu d a b => Sys2Proof.Machine.execMaxu d a b s
  | .popc d a => Sys2Proof.Machine.execPopc d a s
  | .clz d a => Sys2Proof.Machine.execClz d a s
  | .ctz d a => Sys2Proof.Machine.execCtz d a s
  | .brev d a => Sys2Proof.Machine.execBrev d a s
  | .addi d a f_i => Sys2Proof.Machine.execAddi d a f_i s
  | .andi d a f_i => Sys2Proof.Machine.execAndi d a f_i s
  | .ori d a f_i => Sys2Proof.Machine.execOri d a f_i s
  | .xori d a f_i => Sys2Proof.Machine.execXori d a f_i s
  | .slti d a f_i => Sys2Proof.Machine.execSlti d a f_i s
  | .slli d a n => Sys2Proof.Machine.execSlli d a n s
  | .srli d a n => Sys2Proof.Machine.execSrli d a n s
  | .srai d a n => Sys2Proof.Machine.execSrai d a n s
  | .ldhi d f_i => Sys2Proof.Machine.execLdhi d f_i s
  | .addpc d f_i => Sys2Proof.Machine.execAddpc d f_i s
  | .mul d a b l => Sys2Proof.Machine.execMul d a b l s
  | .mulh d a b l => Sys2Proof.Machine.execMulh d a b l s
  | .mulhu d a b l => Sys2Proof.Machine.execMulhu d a b l s
  | .div d a b l => Sys2Proof.Machine.execDiv d a b l s
  | .divu d a b l => Sys2Proof.Machine.execDivu d a b l s
  | .rem d a b l => Sys2Proof.Machine.execRem d a b l s
  | .remu d a b l => Sys2Proof.Machine.execRemu d a b l s
  | .ldb d a f_i l => Sys2Proof.Machine.execLdb d a f_i l s
  | .ldbu d a f_i l => Sys2Proof.Machine.execLdbu d a f_i l s
  | .ldh d a f_i l => Sys2Proof.Machine.execLdh d a f_i l s
  | .ldhu d a f_i l => Sys2Proof.Machine.execLdhu d a f_i l s
  | .ldw d a f_i l => Sys2Proof.Machine.execLdw d a f_i l s
  | .ldwu d a f_i l => Sys2Proof.Machine.execLdwu d a f_i l s
  | .ldd d a f_i l => Sys2Proof.Machine.execLdd d a f_i l s
  | .stb d a f_i => Sys2Proof.Machine.execStb d a f_i s
  | .sth d a f_i => Sys2Proof.Machine.execSth d a f_i s
  | .stw d a f_i => Sys2Proof.Machine.execStw d a f_i s
  | .std d a f_i => Sys2Proof.Machine.execStd d a f_i s
  | .atom d a z o p l => Sys2Proof.Machine.execAtom d a z o p l s
  | .cas d a z o l => Sys2Proof.Machine.execCas d a z o l s
  | .pcmp p a b c => Sys2Proof.Machine.execPcmp p a b c s
  | .pcmpi p a f_i c => Sys2Proof.Machine.execPcmpi p a f_i c s
  | .pand d a b => Sys2Proof.Machine.execPand d a b s
  | .por d a b => Sys2Proof.Machine.execPor d a b s
  | .pxor d a b => Sys2Proof.Machine.execPxor d a b s
  | .pnot d a => Sys2Proof.Machine.execPnot d a s
  | .pmov d a => Sys2Proof.Machine.execPmov d a s
  | .pany d a => Sys2Proof.Machine.execPany d a s
  | .pall d a => Sys2Proof.Machine.execPall d a s
  | .fadd d a b f => Sys2Proof.Machine.execFadd d a b f s
  | .fmul d a b f => Sys2Proof.Machine.execFmul d a b f s
  | .ffma d a b f => Sys2Proof.Machine.execFfma d a b f s
  | .fcvt d a f_s r t => Sys2Proof.Machine.execFcvt d a f_s r t s
  | .fcvtUns d a f_s r t => Sys2Proof.Machine.execFcvtUns d a f_s r t s
  | .csrr d c => Sys2Proof.Machine.execCsrr d c s
  | .csrw d a c => Sys2Proof.Machine.execCsrw d a c s
  | .csrs d a c => Sys2Proof.Machine.execCsrs d a c s
  | .csrc d a c => Sys2Proof.Machine.execCsrc d a c s
  | .vcfg n g => Sys2Proof.Machine.execVcfg n g s
  | .vsetvl d a => Sys2Proof.Machine.execVsetvl d a s
  | .vsetvli d f_i => Sys2Proof.Machine.execVsetvli d f_i s
  | .vadd d a b f_s => Sys2Proof.Machine.execVadd d a b f_s s
  | .vaddi d a f_i => Sys2Proof.Machine.execVaddi d a f_i s
  | .vsub d a b f_s => Sys2Proof.Machine.execVsub d a b f_s s
  | .vmul d a b f_s => Sys2Proof.Machine.execVmul d a b f_s s
  | .vmulh d a b f_s => Sys2Proof.Machine.execVmulh d a b f_s s
  | .vand d a b f_s => Sys2Proof.Machine.execVand d a b f_s s
  | .vor d a b f_s => Sys2Proof.Machine.execVor d a b f_s s
  | .vxor d a b f_s => Sys2Proof.Machine.execVxor d a b f_s s
  | .vsll d a b f_s => Sys2Proof.Machine.execVsll d a b f_s s
  | .vsrl d a b f_s => Sys2Proof.Machine.execVsrl d a b f_s s
  | .vsra d a b f_s => Sys2Proof.Machine.execVsra d a b f_s s
  | .vmin d a b f_s => Sys2Proof.Machine.execVmin d a b f_s s
  | .vmax d a b f_s => Sys2Proof.Machine.execVmax d a b f_s s
  | .vminu d a b f_s => Sys2Proof.Machine.execVminu d a b f_s s
  | .vmaxu d a b f_s => Sys2Proof.Machine.execVmaxu d a b f_s s
  | .vsel d a b => Sys2Proof.Machine.execVsel d a b s
  | .vbcs d a => Sys2Proof.Machine.execVbcs d a s
  | .vid d => Sys2Proof.Machine.execVid d s
  | .vpopc d a => Sys2Proof.Machine.execVpopc d a s
  | .vfadd d a b f_s => Sys2Proof.Machine.execVfadd d a b f_s s
  | .vfsub d a b f_s => Sys2Proof.Machine.execVfsub d a b f_s s
  | .vfmul d a b f_s => Sys2Proof.Machine.execVfmul d a b f_s s
  | .vffma d a b f_s => Sys2Proof.Machine.execVffma d a b f_s s
  | .vfmin d a b f_s => Sys2Proof.Machine.execVfmin d a b f_s s
  | .vfmax d a b f_s => Sys2Proof.Machine.execVfmax d a b f_s s
  | .vfsgn d a b f_s => Sys2Proof.Machine.execVfsgn d a b f_s s
  | .vfsgnN d a b f_s => Sys2Proof.Machine.execVfsgnN d a b f_s s
  | .vfsgnX d a b f_s => Sys2Proof.Machine.execVfsgnX d a b f_s s
  | .vfdiv d a b l => Sys2Proof.Machine.execVfdiv d a b l s
  | .vfsqrt d a l => Sys2Proof.Machine.execVfsqrt d a l s
  | .vfunRcp d a l => Sys2Proof.Machine.execVfunRcp d a l s
  | .vfunRsq d a l => Sys2Proof.Machine.execVfunRsq d a l s
  | .vfunExp2 d a l => Sys2Proof.Machine.execVfunExp2 d a l s
  | .vfunLog2 d a l => Sys2Proof.Machine.execVfunLog2 d a l s
  | .vfunSin d a l => Sys2Proof.Machine.execVfunSin d a l s
  | .vfunCos d a l => Sys2Proof.Machine.execVfunCos d a l s
  | .vcvt d a t m f_s u => Sys2Proof.Machine.execVcvt d a t m f_s u s
  | .vnarw d a t m f_s u => Sys2Proof.Machine.execVnarw d a t m f_s u s
  | .vwide d a t u => Sys2Proof.Machine.execVwide d a t u s
  | .vbscl d a b m f_s => Sys2Proof.Machine.execVbscl d a b m f_s s
  | .vquant d a b m f_s => Sys2Proof.Machine.execVquant d a b m f_s s
  | .vcmp p a b f_s c => Sys2Proof.Machine.execVcmp p a b f_s c s
  | .vfcmp p a b f_s c => Sys2Proof.Machine.execVfcmp p a b f_s c s
  | .vclass p a m => Sys2Proof.Machine.execVclass p a m s
  | .vslup d a b => Sys2Proof.Machine.execVslup d a b s
  | .vsldn d a b => Sys2Proof.Machine.execVsldn d a b s
  | .vrgath d a b => Sys2Proof.Machine.execVrgath d a b s
  | .vcompr d a b => Sys2Proof.Machine.execVcompr d a b s
  | .vexpnd d a => Sys2Proof.Machine.execVexpnd d a s
  | .vbcast d a b => Sys2Proof.Machine.execVbcast d a b s
  | .vextr d a b => Sys2Proof.Machine.execVextr d a b s
  | .vins d a b => Sys2Proof.Machine.execVins d a b s
  | .vredsum d a b => Sys2Proof.Machine.execVredsum d a b s
  | .vredmin d a b => Sys2Proof.Machine.execVredmin d a b s
  | .vredmax d a b => Sys2Proof.Machine.execVredmax d a b s
  | .vredminU d a b => Sys2Proof.Machine.execVredminU d a b s
  | .vredmaxU d a b => Sys2Proof.Machine.execVredmaxU d a b s
  | .vredlogAnd d a b => Sys2Proof.Machine.execVredlogAnd d a b s
  | .vredlogOr d a b => Sys2Proof.Machine.execVredlogOr d a b s
  | .vredlogXor d a b => Sys2Proof.Machine.execVredlogXor d a b s
  | .vfredsum d a b => Sys2Proof.Machine.execVfredsum d a b s
  | .vfredmax d a b => Sys2Proof.Machine.execVfredmax d a b s
  | .vld d a b f_i l => Sys2Proof.Machine.execVld d a b f_i l s
  | .vlds d a f_i l => Sys2Proof.Machine.execVlds d a f_i l s
  | .vst d a b f_i => Sys2Proof.Machine.execVst d a b f_i s
  | .vsts d a f_i => Sys2Proof.Machine.execVsts d a f_i s
  | .vldx d a b l => Sys2Proof.Machine.execVldx d a b l s
  | .vldxSx d a b l => Sys2Proof.Machine.execVldxSx d a b l s
  | .vstx d a b => Sys2Proof.Machine.execVstx d a b s
  | .vstxSx d a b => Sys2Proof.Machine.execVstxSx d a b s
  | .vamo d b o p l => Sys2Proof.Machine.execVamo d b o p l s
  | .vredm d b o p => Sys2Proof.Machine.execVredm d b o p s
  | .vcas d b o l => Sys2Proof.Machine.execVcas d b o l s
  | .waitm p a b z c t => Sys2Proof.Machine.execWaitm p a b z c t s
  | .vwaitm p a b c t => Sys2Proof.Machine.execVwaitm p a b c t s
  | .vf o => Sys2Proof.Machine.execVf o s
  | .vbr p o => Sys2Proof.Machine.execVbr p o s
  | .vjr v => Sys2Proof.Machine.execVjr v s
  | .vjoin => Sys2Proof.Machine.execVjoin s
  | .vstop => Sys2Proof.Machine.execVstop s
  | .vsync => Sys2Proof.Machine.execVsync s
  | .gmma d a b f l => Sys2Proof.Machine.execGmma d a b f l s
  | .gmmas d a b f l => Sys2Proof.Machine.execGmmas d a b f l s
  | .tset k => Sys2Proof.Machine.execTset k s
  | .tsetM k => Sys2Proof.Machine.execTsetM k s
  | .tget k c => Sys2Proof.Machine.execTget k c s
  | .trec k m => Sys2Proof.Machine.execTrec k m s
  | .tmm c a b w l => Sys2Proof.Machine.execTmm c a b w l s
  | .tmms c a b w l => Sys2Proof.Machine.execTmms c a b w l s
  | .tld m t k f_s l => Sys2Proof.Machine.execTld m t k f_s l s
  | .tst m t k c l => Sys2Proof.Machine.execTst m t k c l s
  | .tstC m t k c l => Sys2Proof.Machine.execTstC m t k c l s
  | .tzero c w l => Sys2Proof.Machine.execTzero c w l s
  | .tsave c m w l => Sys2Proof.Machine.execTsave c m w l s
  | .trestore c m w l => Sys2Proof.Machine.execTrestore c m w l s
  | .tcvt c m w l => Sys2Proof.Machine.execTcvt c m w l s
  | .tcvtC c m w l => Sys2Proof.Machine.execTcvtC c m w l s
  | .scfg v a q f_i => Sys2Proof.Machine.execScfg v a q f_i s
  | .smc v a q f_i => Sys2Proof.Machine.execSmc v a q f_i s
  | .srel q => Sys2Proof.Machine.execSrel q s
  | .sdrain q => Sys2Proof.Machine.execSdrain q s
  | .cpy d a b t => Sys2Proof.Machine.execCpy d a b t s
  | .twait w => Sys2Proof.Machine.execTwait w s
  | .tpoll d w => Sys2Proof.Machine.execTpoll d w s
  | .binit b r => Sys2Proof.Machine.execBinit b r s
  | .barv b r => Sys2Proof.Machine.execBarv b r s
  | .bwait b r => Sys2Proof.Machine.execBwait b r s
  | .bsync b => Sys2Proof.Machine.execBsync b s
  | .bsig b r => Sys2Proof.Machine.execBsig b r s
  | .qpush d a q l => Sys2Proof.Machine.execQpush d a q l s
  | .qpop d a q l => Sys2Proof.Machine.execQpop d a q l s
  | .spawn d a q l => Sys2Proof.Machine.execSpawn d a q l s
  | .qsteal d a q l => Sys2Proof.Machine.execQsteal d a q l s
  | .launch d a l => Sys2Proof.Machine.execLaunch d a l s
  | .launchT d a l => Sys2Proof.Machine.execLaunchT d a l s
  | .qinfo d q l => Sys2Proof.Machine.execQinfo d q l s
  | .hld h a f_i l => Sys2Proof.Machine.execHld h a f_i l s
  | .hst h a f_i => Sys2Proof.Machine.execHst h a f_i s
  | .hldd d a f_i l => Sys2Proof.Machine.execHldd d a f_i l s
  | .hstd f_s a f_i => Sys2Proof.Machine.execHstd f_s a f_i s
  | .halloc f_s h l => Sys2Proof.Machine.execHalloc f_s h l s
  | .hpin d h l => Sys2Proof.Machine.execHpin d h l s
  | .hunpin f_s => Sys2Proof.Machine.execHunpin f_s s
  | .hcmp d a b l => Sys2Proof.Machine.execHcmp d a b l s
  | .vhld v b f_i l => Sys2Proof.Machine.execVhld v b f_i l s
  | .vhldd v b f_i l => Sys2Proof.Machine.execVhldd v b f_i l s
  | .vhstd v b f_i => Sys2Proof.Machine.execVhstd v b f_i s
  | .msend v a => Sys2Proof.Machine.execMsend v a s
  | .wquiet a => Sys2Proof.Machine.execWquiet a s
  | .mcount d a => Sys2Proof.Machine.execMcount d a s
  | .splk d a => Sys2Proof.Machine.execSplk d a s
  | .spins d a b => Sys2Proof.Machine.execSpins d a b s
  | .spinv a => Sys2Proof.Machine.execSpinv a s
  | .spinvAll => Sys2Proof.Machine.execSpinvAll s
  | .txb o => Sys2Proof.Machine.execTxb o s
  | .txe => Sys2Proof.Machine.execTxe s
  | .txa c => Sys2Proof.Machine.execTxa c s
  | .fence o => Sys2Proof.Machine.execFence o s
  | .icsync f_s => Sys2Proof.Machine.execIcsync f_s s
  | .prefi a => Sys2Proof.Machine.execPrefi a s
  | .sigchk v => Sys2Proof.Machine.execSigchk v s
  | .brk c => Sys2Proof.Machine.execBrk c s
  | .extensionOpcode m d a b f => Sys2Proof.Machine.execExtensionOpcode m d a b f s
  | .hintPrefd p a => Sys2Proof.Machine.execHintPrefd p a s
  | .hintBrlikely a => Sys2Proof.Machine.execHintBrlikely a s
  | .hint p k a => Sys2Proof.Machine.execHint p k a s
  | .illegalInstruction w => Sys2Proof.Machine.execIllegalInstruction w s
  | .priResponse ctx n ok => Sys2Proof.Machine.execPriResponse ctx n ok s
  | .trapFrameWrite team agent => Sys2Proof.Machine.execTrapFrameWrite team agent s
  | .faultEntryDeferredWrite ctx => Sys2Proof.Machine.execFaultEntryDeferredWrite ctx s
  | .create fn ctx => Sys2Proof.Machine.execCreate fn ctx s
  | .negotiate fn ctx => Sys2Proof.Machine.execNegotiate fn ctx s
  | .load fn ctx => Sys2Proof.Machine.execLoad fn ctx s
  | .unload fn ctx => Sys2Proof.Machine.execUnload fn ctx s
  | .start fn ctx => Sys2Proof.Machine.execStart fn ctx s
  | .suspend fn ctx => Sys2Proof.Machine.execSuspend fn ctx s
  | .suspendComplete ctx => Sys2Proof.Machine.execSuspendComplete ctx s
  | .resume fn ctx => Sys2Proof.Machine.execResume fn ctx s
  | .kill fn ctx => Sys2Proof.Machine.execKill fn ctx s
  | .killSequenceComplete ctx => Sys2Proof.Machine.execKillSequenceComplete ctx s
  | .release fn ctx => Sys2Proof.Machine.execRelease fn ctx s
  | .query fn ctx => Sys2Proof.Machine.execQuery fn ctx s
  | .setext fn ctx => Sys2Proof.Machine.execSetext fn ctx s
  | .advsec fn ctx => Sys2Proof.Machine.execAdvsec fn ctx s
  | .loadmc fn ctx ok => Sys2Proof.Machine.execLoadmc fn ctx ok s
  | .addkey fn ctx ok => Sys2Proof.Machine.execAddkey fn ctx ok s
  | .mailboxUnknownCommand fn val => Sys2Proof.Machine.execMailboxUnknownCommand fn val s
  | .registerWrite fn off val => Sys2Proof.Machine.execRegisterWrite fn off val s
  | .qctlEnable fn => Sys2Proof.Machine.execQctlEnable fn s
  | .qctlDrain fn => Sys2Proof.Machine.execQctlDrain fn s
  | .qctlReopen fn => Sys2Proof.Machine.execQctlReopen fn s
  | .qctlDisable fn => Sys2Proof.Machine.execQctlDisable fn s
  | .qctlInvalid fn cmd => Sys2Proof.Machine.execQctlInvalid fn cmd s
  | .fqheadWrite fn val => Sys2Proof.Machine.execFqheadWrite fn val s
  | .fqresRetry fn ctx index => Sys2Proof.Machine.execFqresRetry fn ctx index s
  | .fqresFail fn ctx index => Sys2Proof.Machine.execFqresFail fn ctx index s
  | .invalidate fn ctx global => Sys2Proof.Machine.execInvalidate fn ctx global s
  | .invalidationComplete fn => Sys2Proof.Machine.execInvalidationComplete fn s
  | .migrate fn ctx global => Sys2Proof.Machine.execMigrate fn ctx global s
  | .migrateMark fn => Sys2Proof.Machine.execMigrateMark fn s
  | .invctlInvalid fn ctx op => Sys2Proof.Machine.execInvctlInvalid fn ctx op s
  | .heapEnable fn ctx => Sys2Proof.Machine.execHeapEnable fn ctx s
  | .heapDisable fn ctx => Sys2Proof.Machine.execHeapDisable fn ctx s
  | .evacuate fn ctx dest region any => Sys2Proof.Machine.execEvacuate fn ctx dest region any s
  | .evacuateDrainComplete ctx region => Sys2Proof.Machine.execEvacuateDrainComplete ctx region s
  | .objectCopyStart ctx region off => Sys2Proof.Machine.execObjectCopyStart ctx region off s
  | .objectCopyComplete ctx region off => Sys2Proof.Machine.execObjectCopyComplete ctx region off s
  | .sweepComplete ctx region => Sys2Proof.Machine.execSweepComplete ctx region s
  | .heapReservationRetry inv => Sys2Proof.Machine.execHeapReservationRetry inv s
  | .hctlInvalid fn ctx op => Sys2Proof.Machine.execHctlInvalid fn ctx op s
  | .launchRecordConsume ctx q => Sys2Proof.Machine.execLaunchRecordConsume ctx q s
  | .bindRecordConsume ctx q => Sys2Proof.Machine.execBindRecordConsume ctx q s
  | .priorityAging inv => Sys2Proof.Machine.execPriorityAging inv s
  | .invocationSelect part => Sys2Proof.Machine.execInvocationSelect part s
  | .teamPlace inv => Sys2Proof.Machine.execTeamPlace inv s
  | .preemptionTimeout inv => Sys2Proof.Machine.execPreemptionTimeout inv s
  | .teamSave team => Sys2Proof.Machine.execTeamSave team s
  | .blockPreemptTimeout team group => Sys2Proof.Machine.execBlockPreemptTimeout team group s
  | .transactionPreemptTimeout team group => Sys2Proof.Machine.execTransactionPreemptTimeout team group s
  | .teamRetire team => Sys2Proof.Machine.execTeamRetire team s
  | .invocationComplete inv => Sys2Proof.Machine.execInvocationComplete inv s
  | .bsigApply n => Sys2Proof.Machine.execBsigApply n s
  | .watchEvaluation team group => Sys2Proof.Machine.execWatchEvaluation team group s
  | .watchPeriodicEvaluation team group => Sys2Proof.Machine.execWatchPeriodicEvaluation team group s
  | .watchTimeout team group => Sys2Proof.Machine.execWatchTimeout team group s
  | .streamElementDeliver team group slot => Sys2Proof.Machine.execStreamElementDeliver team group slot s
  | .engineElementTransfer team agent tok => Sys2Proof.Machine.execEngineElementTransfer team agent tok s
  | .tokenComplete team agent tok => Sys2Proof.Machine.execTokenComplete team agent tok s
  | .emulationComplete team group => Sys2Proof.Machine.execEmulationComplete team group s
  | .messageArrival m => Sys2Proof.Machine.execMessageArrival m s
  | .refusalReport dst job seq => Sys2Proof.Machine.execRefusalReport dst job seq s
  | .endToEndAck dst job seq => Sys2Proof.Machine.execEndToEndAck dst job seq s
  | .resendTimeout dst job seq => Sys2Proof.Machine.execResendTimeout dst job seq s
  | .seqQueryResponse ends job seq accepted => Sys2Proof.Machine.execSeqQueryResponse ends job seq accepted s
  | .waveRetryTimer job => Sys2Proof.Machine.execWaveRetryTimer job s
  | .waveVisit job init node second inj con dirty => Sys2Proof.Machine.execWaveVisit job init node second inj con dirty s
  | .waveEnd job reached => Sys2Proof.Machine.execWaveEnd job reached s
  | .linkTrained port lanes => Sys2Proof.Machine.execLinkTrained port lanes s
  | .trainingTimeout port => Sys2Proof.Machine.execTrainingTimeout port s
  | .laneFault port => Sys2Proof.Machine.execLaneFault port s
  | .crcReplayLimit port => Sys2Proof.Machine.execCrcReplayLimit port s
  | .retrainTimeout port routes => Sys2Proof.Machine.execRetrainTimeout port routes s
  | .flitReceive at' ok seq => Sys2Proof.Machine.execFlitReceive at' ok seq s
  | .linkRetry port => Sys2Proof.Machine.execLinkRetry port s
  | .linkDisable port routes => Sys2Proof.Machine.execLinkDisable port routes s
  | .deviceLost dev jobs => Sys2Proof.Machine.execDeviceLost dev jobs s
  | .powerOn t => Sys2Proof.Machine.execPowerOn t s
  | .warmReset t => Sys2Proof.Machine.execWarmReset t s
  | .clusterGate cluster => Sys2Proof.Machine.execClusterGate cluster s
  | .clusterUngateComplete cluster => Sys2Proof.Machine.execClusterUngateComplete cluster s
  | .powerLimit above => Sys2Proof.Machine.execPowerLimit above s
  | .partitionConfigure part cfg => Sys2Proof.Machine.execPartitionConfigure part cfg s
  | .capChangeEffect part cluster => Sys2Proof.Machine.execCapChangeEffect part cluster s
  | .sharingModeRequest cluster mode => Sys2Proof.Machine.execSharingModeRequest cluster mode s
  | .sharingModeEffect cluster => Sys2Proof.Machine.execSharingModeEffect cluster s
  | .correctableError u => Sys2Proof.Machine.execCorrectableError u s
  | .uncorrectableError u => Sys2Proof.Machine.execUncorrectableError u s
  | .residueCheckFail team => Sys2Proof.Machine.execResidueCheckFail team s
  | .coreFaultLimit core => Sys2Proof.Machine.execCoreFaultLimit core s
  | .schedulerStateError unit => Sys2Proof.Machine.execSchedulerStateError unit s
  | .schedulerRebuildComplete unit => Sys2Proof.Machine.execSchedulerRebuildComplete unit s
  | .rebuildLimit cluster => Sys2Proof.Machine.execRebuildLimit cluster s
  | .windowAccess fn off write len => Sys2Proof.Machine.execWindowAccess fn off write len s
  | .spdmRequest nonce => Sys2Proof.Machine.execSpdmRequest nonce s
  | .halt fn inv => Sys2Proof.Machine.execHalt fn inv s
  | .haltrole fn inv consumer => Sys2Proof.Machine.execHaltrole fn inv consumer s
  | .haltComplete fn => Sys2Proof.Machine.execHaltComplete fn s
  | .debugResume fn inv => Sys2Proof.Machine.execDebugResume fn inv s
  | .dump fn inv => Sys2Proof.Machine.execDump fn inv s
  | .brkon fn => Sys2Proof.Machine.execBrkon fn s
  | .brkoff fn => Sys2Proof.Machine.execBrkoff fn s
  | .stalldump fn => Sys2Proof.Machine.execStalldump fn s
  | .trace fn => Sys2Proof.Machine.execTrace fn s
  | .debugInvalid fn cmd => Sys2Proof.Machine.execDebugInvalid fn cmd s
  | .traceSyncInterval team agent => Sys2Proof.Machine.execTraceSyncInterval team agent s
  | .stallClockCharge team agent cause prod lag => Sys2Proof.Machine.execStallClockCharge team agent cause prod lag s

end Sys2Proof.Machine
end

