-- ==== Sys2Proof/Machine/Step.lean ====
section
/-! DEFINITION. One step of the machine: the next turn of its schedule, an event or the next instruction of a stream; and the state with an instruction placed where the next one is fetched. -/
namespace Sys2Proof.Machine

/-- A stream's turn: it fetches, what it fetches is run (R284), and the turn passes on where the instruction waits (DESIGN CHOICE, log entry 6). -/
def issue (s : State) (r : StreamRef) : Host.Outcome State Fault Refusal :=
  match fetchStream s r with
  | none => .next s
  | some (s1, none) => .next s1
  | some (s1, some i) => (match exec i s1 with
      | .next t => .next (passTurn r s1 t)
      | o => o)

/-- A turn (log entry 6): the first turn of the schedule, or with no turn left the next instruction of the stream that can
issue; a machine with nothing to do only passes time. -/
def turn (s0 : State) : Host.Outcome State Fault Refusal :=
  match s0.agenda with
  | [] => (match nextStream s0 with
      | some r => issue s0 r
      | none => .next s0)
  | t :: rest =>
    let s1 := { s0 with agenda := rest }
    match t with
    | .event i => if isEvent i then exec i s1 else .next s1
    | .issue r => issue s1 r
    | .command fn ctx c => runCommand fn ctx c s1
    | t => .next (hostTurn s1 t)

/-- One step: the clock advances, a turn is taken, and the kill of a context in which it found an uncontained machine error begins
(R222). -/
def step (s : State) : Host.Outcome State Fault Refusal :=
  match turn (tickClock s) with
  | .next t => .next (killBroken t)
  | o => o

/-- The state with an instruction word placed where `step` fetches its next instruction (log entry 17). Every instruction is
one 32-bit word (R253). -/
def State.withFetchWord (s : State) (_nbits w : Nat) : State := placeWord s (BitVec.ofNat 32 w)

end Sys2Proof.Machine
end

