-- ==== Sys2Proof/Safety.lean ====
section
/-! DEFINITION. What counts as a safe run, and the invariants the statements use. -/
namespace Sys2Proof

/-- A safe run: from `s` the machine answers a next state for `n` steps, with no fault and no refusal. -/
def SafeFor (n : Nat) (s : Machine.State) : Prop := ∃ t, core.run n s = Host.Outcome.next t

/-- A safe state: every run from it is safe. -/
def Safe (s : Machine.State) : Prop := ∀ n, SafeFor n s

namespace Machine

/-- Memory keeps its canonical form: addresses strictly rising inside the 52-bit space, no cell that an unlisted address reads as. -/
def MemInv (s : State) : Prop := s.mem.wf = true

/-- Register 0 of a thread holds nothing: it reads zero and discards writes (R247). -/
def zeroOk (th : Thread) : Bool := (tget th.x 0).isNone

/-- The fuse counter stays within 0 to 255 (R70). -/
def SecverInv (s : State) : Prop := s.hub.secver ≤ 255

end Machine

end Sys2Proof
end

