-- ==== Sys2Proof/WellFormed.lean ====
section
/-! DEFINITION. Which instruction terms stand for something: an encoded one that has a word of its own, an event whose numbers lie in the ranges the spec gives them. -/
namespace Sys2Proof

/-- The physical function and the 32 virtual ones (R23). -/
def fnOk (fn : Nat) : Bool := decide (fn ≤ 32)

/-- A value of MBCMD.CTX (R59). -/
def ctxOk (ctx : Nat) : Bool := decide (ctx < 65536)

/-- An invocation's key: partition and number (R17, R86). -/
def invOk (inv : Nat) : Bool := decide (inv < 8 * 4096)

/-- A team's key: its invocation's, and a 48-bit team index (R109). -/
def teamOk (team : Nat) : Bool := invOk (team / 2 ^ 48)

/-- A group of a team (R68), or with 16 its sequencer. -/
def agentOk (a : Nat) : Bool := decide (a ≤ 16)

def groupNumOk (g : Nat) : Bool := decide (g < 16)

/-- A cluster (R12). -/
def clusterOk (c : Nat) : Bool := decide (c < 48)

/-- A partition (R17). -/
def partOk (p : Nat) : Bool := decide (p < 8)

/-- A fabric port (R25). -/
def portOk (p : Nat) : Bool := decide (p < 16)

/-- Device number, job and SEQ of a message (R232, R233, R243). -/
def sentOk (dst job seq : Nat) : Bool := decide (dst < 8192) && decide (job < 65536) && decide (seq < 2 ^ 32)

/-- A message (R232): its fields in range, its payload of the stated length. -/
def msgOk (m : Msg) : Bool :=
  sentOk m.dst m.job m.seq && decide (m.src < 8192) && decide (m.hidx < 256) && decide (m.len ≤ 30) && decide (m.payload.length = 8 * m.len)

/-- A heap region and an offset in it (R211, R213). -/
def regionOk (r off : Nat) : Bool := decide (r < 65536) && decide (off < 2 ^ 21)

/-- What self-test may find (R16): clusters and cores of the device. -/
def selfTestOk (t : SelfTest) : Bool :=
  t.colmap.all (fun e => decide (e.1 < 384)) && t.badClusters.all clusterOk && t.badCores.all (fun c => decide (c < 384))

/-- A unit an error is found in (R385). -/
def unitOk : ErrUnit → Bool
  | .regs t a => teamOk t && agentOk a
  | .teamState t => teamOk t
  | .line n => decide (n < 2 ^ 46)
  | .groupTable c => clusterOk c
  | .rootTable => true
  | .link p => portOk p
  | .dieLink n => decide (n < 8)

/-- A scheduler unit (R390). -/
def schedOk : SchedUnit → Bool
  | .root => true
  | .cluster c => clusterOk c

/-- Whether an event's numbers are in range; true of the encoded rows. -/
def eventOk : Instr → Bool
  | .priResponse c _ _ | .faultEntryDeferredWrite c | .suspendComplete c | .killSequenceComplete c => ctxOk c
  | .trapFrameWrite t a | .traceSyncInterval t a | .stallClockCharge t a _ _ _ => teamOk t && agentOk a
  | .create f c | .negotiate f c | .load f c | .unload f c | .start f c | .suspend f c | .resume f c | .kill f c | .release f c | .query f c
  | .setext f c | .advsec f c | .loadmc f c _ | .addkey f c _ | .fqresRetry f c _ | .fqresFail f c _ | .invalidate f c _ | .migrate f c _
  | .invctlInvalid f c _ | .heapEnable f c | .heapDisable f c | .evacuate f c _ _ _ | .hctlInvalid f c _ => fnOk f && ctxOk c
  | .mailboxUnknownCommand f _ | .registerWrite f _ _ | .qctlEnable f | .qctlDrain f | .qctlReopen f | .qctlDisable f | .qctlInvalid f _
  | .fqheadWrite f _ | .invalidationComplete f | .migrateMark f | .haltComplete f | .brkon f | .brkoff f | .stalldump f | .trace f
  | .debugInvalid f _ | .windowAccess f _ _ _ => fnOk f
  | .evacuateDrainComplete c r | .sweepComplete c r => ctxOk c && regionOk r 0
  | .objectCopyStart c r o | .objectCopyComplete c r o => ctxOk c && regionOk r o
  | .heapReservationRetry i | .priorityAging i | .teamPlace i | .preemptionTimeout i | .invocationComplete i => invOk i
  | .launchRecordConsume c q | .bindRecordConsume c q => ctxOk c && decide (q < 64)
  | .invocationSelect p => partOk p
  | .teamSave t | .teamRetire t | .residueCheckFail t => teamOk t
  | .blockPreemptTimeout t g | .transactionPreemptTimeout t g | .watchEvaluation t g | .watchPeriodicEvaluation t g | .watchTimeout t g
  | .emulationComplete t g => teamOk t && groupNumOk g
  | .streamElementDeliver t g q => teamOk t && groupNumOk g && decide (q < 4)
  | .engineElementTransfer t a k | .tokenComplete t a k => teamOk t && agentOk a && decide (k < 8)
  | .messageArrival m => msgOk m
  | .refusalReport d j q | .endToEndAck d j q | .resendTimeout d j q => sentOk d j q
  | .seqQueryResponse e j q _ => sentOk e.dst j q && sentOk e.src 0 0
  | .waveRetryTimer j | .waveEnd j _ => sentOk 0 j 0
  | .waveVisit j i n _ _ _ _ => sentOk i j 0 && sentOk n j 0
  | .linkTrained p l => portOk p && decide (l ≤ 8)
  | .trainingTimeout p | .laneFault p | .crcReplayLimit p | .retrainTimeout p _ | .flitReceive (.here p) _ _ | .flitReceive (.far p) _ _ | .linkRetry p | .linkDisable p _ => portOk p
  | .deviceLost d js => sentOk d 0 0 && js.all fun j => sentOk 0 j 0
  | .powerOn t | .warmReset t => selfTestOk t
  | .clusterGate c | .clusterUngateComplete c | .sharingModeRequest c _ | .sharingModeEffect c | .rebuildLimit c => clusterOk c
  | .partitionConfigure p _ => partOk p
  | .capChangeEffect p c => partOk p && clusterOk c
  | .correctableError u | .uncorrectableError u => unitOk u
  | .coreFaultLimit c => decide (c < 384)
  | .schedulerStateError u | .schedulerRebuildComplete u => schedOk u
  | .halt f i | .haltrole f i _ | .debugResume f i | .dump f i => fnOk f && decide (i < 4096)
  | _ => true

/-- Whether an encoded term has a word of its own: an atomic's op is not CAS's (R281), a hint's kind and payload are not those of the
two named hints (R263), and an illegal word is one no row defines (R261). -/
def wordOk : Instr → Bool
  | .atom _ _ _ _ op _ => decide (op ≠ 9#4)
  | .hint p k _ => decide (k ≠ 0#4) && (decide (k ≠ 1#4) || decide (p ≠ 0#6))
  | .illegalInstruction w => (decode w).isNone
  | _ => true

/-- Well-formed instructions. -/
def WellFormed (i : Instr) : Bool := wordOk i && eventOk i

end Sys2Proof
end

