-- ==== Sys2Proof/Certificates/Slice0/Obligations.lean ====
section
/-! DEFINITION. What this package claims of its model. The vocabulary of the statements stands in `Sys2Proof.Claim`; each statement is one `Obligations.<Name>`. -/
namespace Sys2Proof.Claim
open Sys2Proof.Machine

/-! ### Who acts -/

abbrev Result := Host.Outcome State Fault Refusal

/-- The control thread of a group acts: it is READY or RUNNING, not halted, its team resident; `cx` is what its instruction works on. -/
def CtlActs (s : State) (cx : Cx) : Prop := s.cur = some (.ctl cx.k cx.i) ∧ openCtl s cx.k cx.i = some cx

/-- It acts outside a transaction, with no block in progress. -/
def CtlFree (s : State) (cx : Cx) : Prop := CtlActs s cx ∧ cx.g.txn = none ∧ cx.g.block = none

/-- The VPs `bs` of a group's block act, all of them in RUN at `pc` (R114). -/
def BlkActs (s : State) (cx : Cx) (bs : List Nat) (pc : Word) : Prop :=
  (∃ v, s.cur = some (.blk cx.k cx.i v) ∧ openBlk s cx.k cx.i v = some (cx, bs, pc)) ∧
    ∀ v ∈ bs, (vpOf cx.g v).map (fun p => (p.cond, p.pc)) = some (.run, pc)

/-- The sequencer of a team acts. -/
def SeqActs (s : State) (sx : Sx) : Prop := s.cur = some (.seq sx.k) ∧ openSeq s sx.k = some sx

/-! ### What stays as it was -/

/-- Everything but group `j` of team `k` is as it was: memory, contexts and every other part of the device, every other team, and the
team's other groups, bells, scratchpad, tags, operations and sequencer. -/
structure ButGroup (s t : State) (k j : Nat) : Prop where
  device : { t with teams := s.teams } = s
  teams : ∀ k', k' ≠ k → getTeam t k' = getTeam s k'
  groups : ∀ j', j' ≠ j → getGroup t k j' = getGroup s k j'
  team : (getTeam t k).map (fun x => { x with groups := [] }) = (getTeam s k).map fun x => { x with groups := [] }

/-- Everything but the sequencer of team `k` is as it was. -/
structure ButSeq (s t : State) (k : Nat) : Prop where
  device : { t with teams := s.teams } = s
  teams : ∀ k', k' ≠ k → getTeam t k' = getTeam s k'
  team : (getTeam t k).map (fun x => { x with seq := none }) = (getTeam s k).map fun x => { x with seq := none }

/-- Every s or k register but `d` holds what it held, and with no lookahead window open reads as it read; register 0 is not written. -/
def XKept (th th' : Thread) (d : Nat) : Prop :=
  ∀ n, n ≠ d ∨ d = 0 → rawX th' n = rawX th n ∧ (th.wins = [] → readX th' n = readX th n)

/-- After an instruction with lookahead `la` of a stream with no window open: none is open, or the one that covers its next `la` instructions (R266). -/
def Opened (th th' : Thread) (la : Nat) : Prop :=
  th.wins = [] → (la = 0 → th'.wins = []) ∧ (la ≠ 0 → ∃ w, th'.wins = [w] ∧ w.left = la)

/-- Register `d` holds `v`, and with no lookahead reads as `v` at once; with lookahead, where no other window is open, it still reads as before
(R266). A write to register 0 is discarded (R247). -/
def XWritten (th th' : Thread) (d : Nat) (v : Word) (la : Nat) : Prop :=
  Opened th th' la ∧ (d ≠ 0 → rawX th' d = v ∧ (la = 0 → readX th' d = v) ∧ (la ≠ 0 → th.wins = [] → readX th' d = readX th d))

/-- The rest of a thread: tokens, trap registers, halts and what a wait left are as they were. -/
def ThreadRest (th th' : Thread) : Prop :=
  { th' with pc := th.pc, x := th.x, wins := th.wins, run := th.run, park := th.park, rewatch := th.rewatch, stalled := th.stalled, convoy := th.convoy } = th

/-- The rest of a group: every reference, vector and predicate register, every CSR but RIDX and SIGA, the block, the slots, the pins, and
the transaction but for its windows. -/
def GroupRest (g g' : Group) : Prop :=
  { g' with th := g.th, ridx := g.ridx, siga := g.siga, txn := g.txn } = g ∧
    g'.txn = g.txn.map (fun x => { x with wins := tickWindows x.wins }) ∧ ThreadRest g.th g'.th

/-- The outcome is a next state in which group `j` of team `k` has completed an instruction, stands at `pc` and is RUNNING with RIDX 0
(R201), everything outside it is as in `s`, and `P` holds of it. -/
def CtlDone (o : Result) (s : State) (k j : Nat) (pc : Word) (P : Group → Prop) : Prop :=
  ∃ t g', o = .next t ∧ ButGroup s t k j ∧ getGroup t k j = some g' ∧ g'.th.pc = pc ∧ g'.th.run = .running ∧ g'.ridx = 0 ∧ P g'

/-- The same of a sequencer. -/
def SeqDone (o : Result) (s : State) (k : Nat) (pc : Word) (P : Seq → Prop) : Prop :=
  ∃ t q', o = .next t ∧ ButSeq s t k ∧ getSeq t k = some q' ∧ q'.th.pc = pc ∧ q'.th.run = .running ∧ P q'

/-- It completes with s(d) := v under lookahead `la`, the group otherwise as `g`. -/
def CtlWrites (o : Result) (s : State) (cx : Cx) (g : Group) (d : Nat) (v : Word) (la : Nat) : Prop :=
  CtlDone o s cx.k cx.i (cx.g.th.pc + 4) fun g' => GroupRest g g' ∧ XKept g.th g'.th d ∧ XWritten g.th g'.th d v la

/-- The sequencer completes with k(d) := v under lookahead `la`; operand records, grant, format word, MSTAT, accumulators and scale
cache are as they were. -/
def SeqWrites (o : Result) (s : State) (sx : Sx) (d : Nat) (v : Word) (la : Nat) : Prop :=
  SeqDone o s sx.k (sx.q.th.pc + 4) fun q' =>
    { q' with th := sx.q.th } = sx.q ∧ ThreadRest sx.q.th q'.th ∧ XKept sx.q.th q'.th d ∧ XWritten sx.q.th q'.th d v la

/-- An instruction of the control thread, in or out of a transaction, and of the matrix stream on k registers: it completes with d := f,
`f` a function of the thread. -/
def Scalar (i : Instr) (regs : List (BitVec 6)) (d : BitVec 6) (la : Nat) (f : Thread → Word) : Prop :=
  (∀ s cx, CtlActs s cx → CtlWrites (exec i s) s cx cx.g d.toNat (f cx.g.th) la) ∧
  (∀ s sx, SeqActs s sx → (∀ n ∈ regs, n.toNat < 32) → SeqWrites (exec i s) s sx d.toNat (f sx.q.th) la)

/-- A run of instructions of the stream that acts, each to a next state. -/
def Runs : List Instr → State → State → Prop
  | [], s, t => t = s
  | i :: l, s, t => ∃ u, exec i s = .next u ∧ Runs l u t

/-- The instructions whose stream goes on at a target. -/
def transfers (i : Instr) : Bool :=
  match i with
  | .bra _ | .bp _ _ | .bnp _ _ | .loop _ _ | .jmp _ | .call _ | .jr _ | .callr _ _ | .ret => true
  | _ => false

/-- Instruction `i`, no transfer, has completed: the group stands behind it, RUNNING, READY (YIELD) or retired, and its transaction, if it was in one, has
not aborted. -/
def Completed (i : Instr) (g g' : Group) : Prop :=
  transfers i = false ∧ g'.th.pc = g.th.pc + 4 ∧ (g'.th.run = .running ∨ g'.th.run = .ready ∨ g'.th.run = .retired) ∧
    (g.txn = none ∨ g'.txn ≠ none ∨ i = .txe ∧ g'.txs.toNat % 256 = 0)

/-- Whether a run state is a wait that ends with its instruction's completion. -/
def waits (r : Run) : Bool :=
  match r with
  | .waitBell _ | .waitToken _ | .waitMem _ | .waitQuiet _ _ => true
  | _ => false

/-- A function of two registers. -/
def two (a b : BitVec 6) (f : Word → Word → Word) (th : Thread) : Word := f (readX th a.toNat) (readX th b.toNat)

/-- A function of one register. -/
def one (a : BitVec 6) (f : Word → Word) (th : Thread) : Word := f (readX th a.toNat)

/-! ### Accesses of the control thread -/

/-- An access of `n` bytes by a control thread outside a transaction resolves to a place: `s1` is the state its translation leaves (R195). -/
def Lands (s : State) (cx : Cx) (va : Word) (n : Nat) (u : Use) (s1 : State) (l : Loc) : Prop :=
  CtlActs s cx ∧ cx.g.txn = none ∧ resolve s (asker cx) va n u 0 = (s1, .at l)

/-- The address `a` of memory is not one of the `n` bytes from `pa`. -/
def Outside (pa n a : Nat) : Prop := ∀ j, j < n → (pa + j) % 2 ^ 52 ≠ a % 2 ^ 52

/-- The scratchpad of team `k` is as it was. -/
def SpadKept (s t : State) (k : Nat) : Prop := (getTeam t k).map (·.spad) = (getTeam s k).map (·.spad)

/-- Every byte of memory and of every scratchpad reads as before. -/
def Untouched (s t : State) : Prop := (∀ a, readByte t.mem a = readByte s.mem a) ∧ ∀ k, SpadKept s t k

/-- The `n` bytes at a place in memory became `v`, every byte of memory outside them and every scratchpad reads as before; at a place in a
scratchpad, the `n` bytes at the offset became `v`, every other byte of it, every other scratchpad and memory read as before. -/
def Stored (s t : State) (l : Loc) (n v : Nat) : Prop :=
  match l with
  | .glob pa _ _ => readNat t.mem pa n = v ∧ (∀ a, Outside pa n a → readByte t.mem a = readByte s.mem a) ∧ ∀ k, SpadKept s t k
  | .spad k off => (∀ a, readByte t.mem a = readByte s.mem a) ∧ (∀ k', k' ≠ k → SpadKept s t k') ∧
      ∀ x, getTeam s k = some x → ∃ y, getTeam t k = some y ∧
        bytesNat (spadBytes y off n) = v ∧ ∀ o, o < off ∨ off + n ≤ o → tgetD y.spad o 0 = tgetD x.spad o 0
  | .gone _ => Untouched s t

/-- An access leaves everything of the device as it was but memory, the transactions of other groups and scratchpads, and the reference bits
of heaps. -/
def DeviceKept (s t : State) : Prop := { t with mem := s.mem, teams := s.teams, ctxs := s.ctxs } = s

/-- A load of `n` bytes completes with d := ext of the number at the place (DESIGN CHOICE, log entries 2 and 26, for what a retired member's
allocation reads as). -/
def Loads (i : Instr) (d a : BitVec 6) (im : BitVec 7) (l : BitVec 4) (n : Nat) (ext : BitVec (8 * n) → Word) : Prop :=
  ∀ s cx s1 p, Lands s cx (readX cx.g.th a.toNat + im.signExtend 64 * BitVec.ofNat 64 n) n .read s1 p → poisoned s1 p n = false →
    CtlWrites (exec i s) (locLoad s1 p n).1 cx cx.g d.toNat (ext (BitVec.ofNat _ (locRead s1 p n))) l.toNat

/-- A store of the low `n` bytes of s(d) completes: the bytes of the place it computes hold them, every other byte reads as before, no
register changes. -/
def Stores (i : Instr) (d a : BitVec 6) (im : BitVec 11) (n : Nat) : Prop :=
  ∀ s cx s1 p, Lands s cx (readX cx.g.th a.toNat + im.signExtend 64 * BitVec.ofNat 64 n) n .write s1 p →
    ∃ s2, CtlWrites (exec i s) s2 cx cx.g 0 0 0 ∧ DeviceKept s1 s2 ∧ Stored s1 s2 p n ((readX cx.g.th d.toNat).toNat % 2 ^ (8 * n))

/-- An atomic of `n` bytes completes: d takes the old value sign-extended, and the place holds `new old`, or is left alone for none. -/
def Atomics (i : Instr) (d a : BitVec 6) (l : BitVec 4) (n : Nat) (new : Thread → BitVec (8 * n) → Option (BitVec (8 * n))) : Prop :=
  ∀ s cx s1 p, Lands s cx (readX cx.g.th a.toNat) n .atomic s1 p → poisoned s1 p n = false →
    let old := BitVec.ofNat (8 * n) (locRead s1 p n)
    ∃ s2, CtlWrites (exec i s) s2 cx cx.g d.toNat (old.signExtend 64) l.toNat ∧ DeviceKept s1 s2 ∧
      match new cx.g.th old with
      | some x => Stored s1 s2 p n x.toNat
      | none => Untouched s1 s2

/-! ### Predicates and branches -/

/-- The rest of a group whose predicates an instruction writes: `pd` alone changes, and p0 is not written (R247). -/
def PredRest (g g' : Group) (pd : Nat) : Prop :=
  GroupRest { g with p := g'.p } g' ∧ XKept g.th g'.th 0 ∧ ∀ n, n ≠ pd ∨ pd = 0 → tgetD g'.p n 0 = tgetD g.p n 0

/-- A compare completes: every VP's bit of `pd` up to VLMAX - 1 takes the result (R282). -/
def Compares (i : Instr) (pd : BitVec 7) (f : Thread → Bool) : Prop :=
  ∀ s cx, CtlActs s cx → cx.g.block = none → CtlDone (exec i s) s cx.k cx.i (cx.g.th.pc + 4) fun g' =>
    PredRest cx.g g' pd.toNat ∧ (pd ≠ 0 → ∀ v, bit (tgetD g'.p pd.toNat 0) v = if v < vlmax cx.kn cx.g then f cx.g.th else bit (tgetD cx.g.p pd.toNat 0) v)

/-- A predicate instruction completes in the control thread: the bits of `pd` up to VLMAX - 1 take `f`, every other bit stands, p0 is not written. -/
def PredCtl (i : Instr) (pd : BitVec 7) (f : Cx → Nat → Bool) : Prop :=
  ∀ s cx, CtlActs s cx → cx.g.block = none → CtlDone (exec i s) s cx.k cx.i (cx.g.th.pc + 4) fun g' =>
    PredRest cx.g g' pd.toNat ∧ (pd ≠ 0 → ∀ v, bit (tgetD g'.p pd.toNat 0) v = if v < vlmax cx.kn cx.g then f cx v else bit (tgetD cx.g.p pd.toNat 0) v)

/-- A predicate instruction completes in a block: the bits of the VPs that issue take `f` of their own bits, and those VPs move on (R283). -/
def PredBlk (i : Instr) (pd : BitVec 7) (f : (BitVec 7 → Bool) → Bool) : Prop :=
  ∀ s cx bs pc, BlkActs s cx bs pc → ∃ t g', exec i s = .next t ∧ ButGroup s t cx.k cx.i ∧ getGroup t cx.k cx.i = some g' ∧
    (∀ v ∈ bs, (vpOf g' v).map (·.pc) = some (pc + 4)) ∧ (∀ v, v ∉ bs → (vpOf g' v).map (·.pc) = (vpOf cx.g v).map (·.pc)) ∧
    { g' with p := cx.g.p, block := cx.g.block, th := { g'.th with wins := cx.g.th.wins } } = cx.g ∧
    (∀ n, n ≠ pd.toNat ∨ pd = 0 → tgetD g'.p n 0 = tgetD cx.g.p n 0) ∧
    (pd ≠ 0 → ∀ v, bit (tgetD g'.p pd.toNat 0) v = if v ∈ bs then f fun n => predBit cx n.toNat v else bit (tgetD cx.g.p pd.toNat 0) v)

/-- Predicate logic completes: the same bit by bit in both. -/
def Logic (i : Instr) (pd : BitVec 7) (f : (BitVec 7 → Bool) → Bool) : Prop :=
  PredCtl i pd (fun cx v => f fun n => bit (readP cx.g n.toNat) v) ∧ PredBlk i pd f

/-- A trap of this agent goes to a handler: its context has frame slots, and it is none itself (R378, R379). -/
def Handled (s : State) (k : Nat) : Prop :=
  ∃ iv c, invOf s k = some iv ∧ ctxOf s k = some c ∧ c.tfslots.toNat ≠ 0 ∧ ∀ a b d e f g, iv.kind ≠ .handler a b d e f g

/-- The wait that a trap or fault sets aside: a control thread's own, when its block takes it (log entry 94). -/
def putAside (th : Thread) (blk : Option Word) : Option Run :=
  if th.run = .parkedFault then th.aside else if waits th.run = true ∧ blk ≠ none then some th.run else none

/-- A trap is taken (R120, R372, R378): the agent stands in PARKED-FAULT awaiting its frame, TRAPC, TRAPV and EPC written, a wait of a control thread whose
block it is set aside, and the rest of it as the instruction left it; nothing else changes but the arbiter's number. -/
def TakesTrap (o : Result) (s1 : State) (k a : Nat) (cause : BitVec 8) (value epc : Word) (blk : Option Word) : Prop :=
  ∃ t, o = .next t ∧ t = modThread { s1 with arb := s1.arb + 1 } k a fun th =>
    { th with run := .parkedFault, park := .trap (s1.arb + 1), stalled := false, trapc := cause, trapv := value, epc := epc, inBlock := blk, aside := putAside th blk }

/-- The trap of an instruction of a control thread that changed nothing. -/
def CtlTraps (o : Result) (s : State) (cx : Cx) (cause : BitVec 8) (value : Word) : Prop := TakesTrap o s cx.k cx.i cause value cx.g.th.pc none

/-- The illegal-instruction trap of a control thread (R261): TRAPV holds the word. -/
def Illegal (i : Instr) (w : IWord) : Prop := ∀ s cx, CtlActs s cx → cx.g.txn = none → Handled s cx.k → CtlTraps (exec i s) s cx 1 (w.setWidth 64)

/-- The trap of an instruction of the matrix stream that changed nothing. -/
def SeqTraps (o : Result) (s : State) (sx : Sx) (cause : BitVec 8) (value : Word) : Prop := TakesTrap o s sx.k 16 cause value sx.q.th.pc none

/-- The transaction of the group that acts aborts (R188, R189): its snapshot is back, TXS names the cause, the line set and the code; nothing
outside the group changes. -/
def Aborts (o : Result) (s : State) (cx : Cx) (x : Txn) (cause code : Nat) : Prop :=
  ∃ t g', o = .next t ∧ ButGroup s t cx.k cx.i ∧ getGroup t cx.k cx.i = some g' ∧ g'.txn = none ∧ g'.th.x = x.x ∧ g'.h = x.h ∧ g'.fcsr = x.fcsr ∧
    g'.th.pc = x.abort ∧ g'.th.wins = x.wins ∧ g'.txs = BitVec.ofNat 64 (2 * cause + 256 * (txnLines x).length + 2 ^ 24 * code) ∧
    { g' with txn := cx.g.txn, h := cx.g.h, fcsr := cx.g.fcsr, txs := cx.g.txs, th := { g'.th with x := cx.g.th.x, pc := cx.g.th.pc, wins := cx.g.th.wins, convoy := cx.g.th.convoy } } = cx.g

/-- The trap of an instruction of a block that changed nothing; in a transaction of the control thread it aborts that instead (R189). -/
def BlkTraps (o : Result) (s : State) (cx : Cx) (cause : BitVec 8) (value pc : Word) : Prop :=
  (cx.g.txn = none → Handled s cx.k → TakesTrap o s cx.k cx.i cause value pc (some pc)) ∧ ∀ x, cx.g.txn = some x → Aborts o s cx x 5 0

/-- A vector instruction whose registers meet no requirement `regs` raises illegal-instruction, and one whose registers do but whose format the entry does not
accept raises illegal-format, before any state changes (R106, R301, R303, R373); `blk` says whether the instruction is one of a block, where it would
otherwise be illegal (R113). -/
def VecTraps (i : Instr) (blk : Bool) (regs fmt : Group → Prop) : Prop :=
  let w := (encode i).setWidth 64
  (∀ s cx, CtlFree s cx → Handled s cx.k → (¬ regs cx.g → CtlTraps (exec i s) s cx 1 w) ∧ (regs cx.g → ¬ fmt cx.g → CtlTraps (exec i s) s cx 2 w)) ∧
  ∀ s cx bs pc, BlkActs s cx bs pc →
    (blk = false ∨ ¬ regs cx.g → BlkTraps (exec i s) s cx 1 w pc) ∧ (blk = true → regs cx.g → ¬ fmt cx.g → BlkTraps (exec i s) s cx 2 w pc)

/-- Words of a major stand for no instruction where `f` holds of bits 7:0 and 13:8, and raise illegal-instruction. -/
def Undefined (major : BitVec 6) (f : Nat → Nat → Prop) : Prop :=
  ∀ w : IWord, fld w 26 6 = major → f (fld w 0 8).toNat (fld w 8 6).toNat → decode w = none ∧ Illegal (.illegalInstruction w) w

/-- A jump of the control thread: it stands at the target, with the link written where there is one. -/
def Jumps (i : Instr) (d : Nat) (target : Word → Thread → Word) : Prop :=
  ∀ s cx, CtlActs s cx → (target cx.g.th.pc cx.g.th).toNat % 4 = 0 → CtlDone (exec i s) s cx.k cx.i (target cx.g.th.pc cx.g.th) fun g' =>
    GroupRest cx.g g' ∧ XKept cx.g.th g'.th d ∧ XWritten cx.g.th g'.th d (cx.g.th.pc + 4) 0

/-- The target of a word offset. -/
def ahead {n : Nat} (pc : Word) (o : BitVec n) : Word := pc + 4 * o.signExtend 64

/-- A branch: where it stands afterwards is a function of the group, or of the sequencer; no register changes. -/
def Branches (i : Instr) (ok : Seq → Prop) (blockFree : Bool) (fc : Group → Word) (fq : Seq → Word) : Prop :=
  (∀ s cx, CtlActs s cx → (blockFree → cx.g.block = none) →
    CtlDone (exec i s) s cx.k cx.i (fc cx.g) fun g' => GroupRest cx.g g' ∧ XKept cx.g.th g'.th 0) ∧
  (∀ s sx, SeqActs s sx → ok sx.q → SeqDone (exec i s) s sx.k (fq sx.q) fun q' =>
    { q' with th := sx.q.th } = sx.q ∧ ThreadRest sx.q.th q'.th ∧ XKept sx.q.th q'.th 0)

/-- Signed quotient toward zero with the two cases of R33. -/
def quotS (x y : Word) : Word := if y = 0 then BitVec.allOnes 64 else BitVec.ofInt 64 (x.toInt.tdiv y.toInt)

/-- Signed remainder, of the dividend's sign, with the two cases of R33. -/
def remaS (x y : Word) : Word := if y = 0 then x else BitVec.ofInt 64 (x.toInt.tmod y.toInt)

/-- The conditions of PCMP. -/
def cond (c : BitVec 3) (x y : Word) : Bool :=
  match c.toNat with
  | 0 => decide (x = y)
  | 1 => decide (x ≠ y)
  | 2 => decide (x.toInt < y.toInt)
  | 3 => decide (y.toInt ≤ x.toInt)
  | 4 => decide (x.toNat < y.toNat)
  | _ => decide (y.toNat ≤ x.toNat)

/-! ### Vector registers -/

/-- Element `j`, `w` bits wide, of what vector register `n` holds. -/
def held (g : Group) (n w j : Nat) : Nat := bits (tgetD g.v n 0) (j * w) w

/-- The registers an instruction reads are named by the configuration (R106), and those it writes are bound to no READ slot. -/
def VecRegs (g : Group) (rs ws : List (BitVec 6)) : Prop :=
  (∀ n ∈ rs, n.toNat < nvCount g) ∧ ∀ n ∈ ws, n.toNat < nvCount g ∧ boundRead g n.toNat = false

/-- Every stream slot is as it was, but for which elements of a WRITE slot on one of the registers `ds` have been written. -/
def SlotsKept (g g' : Group) (ds : List Nat) : Prop :=
  ∀ n q, lget g.slots n = some q → ∃ m, lget g'.slots n = some { q with written := m } ∧ (q.st ≠ .write ∨ q.vd ∉ ds → m = q.written)

/-- Of register `d`, the `w`-bit elements `js` take `f`; every other bit of it and every other vector register hold what they held. -/
def ElemsTake (g g' : Group) (d w : Nat) (js : List Nat) (f : Nat → Nat) : Prop :=
  (∀ n, n ≠ d → tgetD g'.v n 0 = tgetD g.v n 0) ∧ (∀ j ∈ js, held g' d w j = f j % 2 ^ w) ∧
    ∀ b, (∀ j ∈ js, b < j * w ∨ j * w + w ≤ b) → bit (tgetD g'.v d 0) b = bit (tgetD g.v d 0) b

/-- Of register `d`, the elements of a list take their values; every other bit of it and every other vector register hold what they held. -/
def ListTake (g g' : Group) (d w : Nat) (rs : List (Nat × Nat)) : Prop :=
  (∀ n, n ≠ d → tgetD g'.v n 0 = tgetD g.v n 0) ∧ (∀ r ∈ rs, held g' d w r.1 = r.2 % 2 ^ w) ∧
    ∀ b, (∀ r ∈ rs, b < r.1 * w ∨ r.1 * w + w ≤ b) → bit (tgetD g'.v d 0) b = bit (tgetD g.v d 0) b

/-- Of the wide operand at `d` (R304), `c` elements of `w` bits in each of its `n` registers, the elements `js` take `f`; everything else of
the vector registers holds what it held. -/
def WideTake (g g' : Group) (d w c n : Nat) (js : List Nat) (f : Nat → Nat) : Prop :=
  (∀ r, r < d ∨ d + n ≤ r → tgetD g'.v r 0 = tgetD g.v r 0) ∧ (∀ j ∈ js, j / c < n → held g' (d + j / c) w (j % c) = f j % 2 ^ w) ∧
    ∀ k b, (∀ j ∈ js, j / c = k → b < j % c * w ∨ j % c * w + w ≤ b) → bit (tgetD g'.v (d + k) 0) b = bit (tgetD g.v (d + k) 0) b

/-- FCSR with the flags of elements added: they are sticky (R36). -/
def flagged (g : Group) (js : List Nat) (fl : Nat → Nat) : Word := g.fcsr ||| BitVec.ofNat 64 (js.foldl (fun a j => a ||| fl j) 0)

/-- A vector instruction of the control thread completes; with lookahead, where no other window is open, every vector register still reads as
before (R266). But for vector and predicate registers, FCSR and stream slots the group is as `g`. -/
def VecDone (o : Result) (s : State) (cx : Cx) (g : Group) (la : Nat) (P : Group → Prop) : Prop :=
  CtlDone o s cx.k cx.i (cx.g.th.pc + 4) fun g' =>
    GroupRest { g with v := g'.v, p := g'.p, fcsr := g'.fcsr, slots := g'.slots } g' ∧ XKept g.th g'.th 0 ∧
      Opened g.th g'.th la ∧ (la ≠ 0 → g.th.wins = [] → ∀ n, hide g'.th.wins (.v n) (tgetD g'.v n 0) = tgetD g.v n 0) ∧ P g'

/-- An instruction of a block completes for the VPs `bs`: they stand at the next word, every other VP where it stood, none changes its
condition; but for vector and predicate registers, FCSR and stream slots the group is as it was. -/
def BlkDone (o : Result) (s : State) (cx : Cx) (bs : List Nat) (pc : Word) (P : Group → Prop) : Prop :=
  ∃ t g', o = .next t ∧ ButGroup s t cx.k cx.i ∧ getGroup t cx.k cx.i = some g' ∧
    { g' with v := cx.g.v, p := cx.g.p, fcsr := cx.g.fcsr, slots := cx.g.slots, block := cx.g.block, th := { g'.th with wins := cx.g.th.wins } } = cx.g ∧
    (∀ v ∈ bs, (vpOf g' v).map (·.pc) = some (pc + 4)) ∧ (∀ v, v ∉ bs → (vpOf g' v).map (·.pc) = (vpOf cx.g v).map (·.pc)) ∧
    (∀ v, (vpOf g' v).map (·.cond) = (vpOf cx.g v).map (·.cond)) ∧ P g'

/-- A vector instruction, in a control thread with no block in progress and in a block: the active elements of `d`, `w` bits wide, take the
first part of `f` and FCSR its flags. -/
def VecMap (i : Instr) (rs : List (BitVec 6)) (d : BitVec 6) (fmt : Group → Prop) (w : Group → Nat) (la : Nat) (f : Cx → Nat → Nat × Nat) : Prop :=
  let P := fun (cx : Cx) (g' : Group) => ElemsTake cx.g g' d.toNat (w cx.g) (active cx) (fun j => (f cx j).1) ∧
    g'.fcsr = flagged cx.g (active cx) (fun j => (f cx j).2) ∧ SlotsKept cx.g g' [d.toNat] ∧ g'.p = cx.g.p
  (∀ s cx, CtlFree s cx → VecRegs cx.g rs [d] → fmt cx.g → VecDone (exec i s) s cx cx.g la (P cx)) ∧
  (∀ s cx bs pc, BlkActs s cx bs pc → VecRegs cx.g rs [d] → fmt cx.g → BlkDone (exec i s) s cx bs pc (P cx))

/-- A vector compare: the bits of `pd` of the active elements take `f`, FCSR its flags; p0 discards the write (R247). -/
def VecTest (i : Instr) (rs : List (BitVec 6)) (pd : BitVec 7) (fmt : Group → Prop) (f : Cx → Nat → Bool × Nat) : Prop :=
  let P := fun (cx : Cx) (g' : Group) => (∀ n, n ≠ pd.toNat ∨ pd = 0 → tgetD g'.p n 0 = tgetD cx.g.p n 0) ∧
    (pd ≠ 0 → ∀ v, bit (tgetD g'.p pd.toNat 0) v = if v ∈ active cx then (f cx v).1 else bit (tgetD cx.g.p pd.toNat 0) v) ∧
    g'.fcsr = flagged cx.g (active cx) (fun j => (f cx j).2) ∧ g'.v = cx.g.v ∧ g'.slots = cx.g.slots
  (∀ s cx, CtlFree s cx → VecRegs cx.g rs [] → fmt cx.g → VecDone (exec i s) s cx cx.g 0 (P cx)) ∧
  (∀ s cx bs pc, BlkActs s cx bs pc → VecRegs cx.g rs [] → fmt cx.g → BlkDone (exec i s) s cx bs pc (P cx))

/-- A permute of the control thread (R320): `f` gives the elements of `d` to write and their values, `g` the group but for its vectors. -/
def Permutes (i : Instr) (rs : List (BitVec 6)) (d : BitVec 6) (g : Cx → Group) (f : Cx → Nat → List (Nat × Nat)) : Prop :=
  ∀ s cx, CtlFree s cx → VecRegs cx.g rs [d] → 8 ≤ elemWidth cx.g → VecDone (exec i s) s cx (g cx) 0 fun g' =>
    ListTake cx.g g' d.toNat (elemWidth cx.g) (f cx (elemWidth cx.g)) ∧ g'.fcsr = cx.g.fcsr ∧ SlotsKept cx.g g' [d.toNat] ∧ g'.p = cx.g.p

/-- The elements of the second operand's form: a register, or none for a scalar (R303). -/
def yForm (sc : BitVec 1) (b : BitVec 6) : List (BitVec 6) := if sc = 0 then [b] else []

/-- An integer instruction d[j] := f w a[j] y (R308). -/
def VecInt (i : Instr) (d a b : BitVec 6) (sc : BitVec 1) (f : Nat → Nat → Nat → Nat) : Prop :=
  VecMap i (a :: yForm sc b) d (fun g => 8 ≤ elemWidth g) elemWidth 0 fun cx j =>
    (f (elemWidth cx.g) (elem cx a.toNat (elemWidth cx.g) j) (if sc = 0 then elem cx b.toNat (elemWidth cx.g) j else scalarElem cx b.toNat (elemWidth cx.g)), 0)

/-- The elements of a two's complement number of `w` bits. -/
def toS (w x : Nat) : Int := (BitVec.ofNat w x).toInt

/-- A floating-point instruction d[j] := f a[j] y d[j] (R310). -/
def VecFp (i : Instr) (d a b : BitVec 6) (sc : BitVec 1) (f : Nat → Word → Nat → Nat → Nat → Nat × Nat) : Prop :=
  VecMap i (a :: yForm sc b) d (fun g => vtFmt g ≤ 2) elemWidth 0 fun cx j =>
    let w := elemWidth cx.g
    f (vtFmt cx.g) cx.g.fcsr (elem cx a.toNat w j) (if sc = 0 then elem cx b.toNat w j else scalarElem cx b.toNat w) (elem cx d.toNat w j)

/-- A reduction of the control thread into s(d). -/
def Reduces (i : Instr) (d a : BitVec 6) (fmt : Group → Prop) (f : Cx → Word × Nat) : Prop :=
  ∀ s cx, CtlFree s cx → VecRegs cx.g [a] [] → fmt cx.g →
    CtlWrites (exec i s) s cx { cx.g with fcsr := cx.g.fcsr ||| BitVec.ofNat 64 (f cx).2 } d.toNat (f cx).1 0

/-- The registers of a wide destination are named and bound to no READ slot. -/
def WideRegs (cx : Cx) (d wt : Nat) : Prop := ∀ k, k < wideCount cx wt → d + k < nvCount cx.g ∧ boundRead cx.g (d + k) = false

/-- A vector instruction with a wide destination of `wt`-bit elements (R304). -/
def VecWide (i : Instr) (rs : List (BitVec 6)) (d : BitVec 6) (ok : Group → Prop) (wt : Nat) (f : Cx → Nat → Nat × Nat) : Prop :=
  let P := fun (cx : Cx) (g' : Group) =>
    WideTake cx.g g' d.toNat wt (capElems cx.kn cx.g wt) (wideCount cx wt) (active cx) (fun j => (f cx j).1) ∧
    g'.fcsr = flagged cx.g (active cx) (fun j => (f cx j).2) ∧ SlotsKept cx.g g' ((List.range (wideCount cx wt)).map (d.toNat + ·)) ∧ g'.p = cx.g.p
  (∀ s cx, CtlFree s cx → VecRegs cx.g rs [] → WideRegs cx d.toNat wt → ok cx.g → VecDone (exec i s) s cx cx.g 0 (P cx)) ∧
  (∀ s cx bs pc, BlkActs s cx bs pc → VecRegs cx.g rs [] → WideRegs cx d.toNat wt → ok cx.g → BlkDone (exec i s) s cx bs pc (P cx))

/-- Node `i` of level `n` of a binary tree over leaves (R48): its value and the flags raised below and at it. -/
def tree (op : Nat → Nat → Nat × Nat) (leaf : Nat → Nat) : Nat → Nat → Nat × Nat
  | 0, i => (leaf i, 0)
  | n + 1, i =>
    let x := tree op leaf n (2 * i)
    let y := tree op leaf n (2 * i + 1)
    let r := op x.1 y.1
    (r.1, x.2 ||| y.2 ||| r.2)

/-! ### Elements in memory -/

/-- What the accesses of a group's block, which left `t`, made of the group: a transaction of its control thread that they conflict with has
aborted (R189) (log entry 77). -/
def leftBy (t : State) (cx : Cx) : Cx :=
  if cx.g.txn ≠ none ∧ (getGroup t cx.k cx.i).map (·.txn) = some none then { cx with g := abortTxn cx.g 1 0 } else cx

/-- Where one read of a vector instruction lands: on a page of a no-speculation attribute, and for a stream's engine on an uncached one unless
a VSETVL waits for the element (`due`), only where `ns` admits it (R127, R168, R200). -/
def findOne (q : Asker) (s : State) (va : Word) (n e : Nat) (ns : Bool) (due : Bool := false) : Option (State × Loc) :=
  match resolve s q va n .read e with
  | (s1, .at l) =>
    let slow := match l with | .glob _ _ leaf => leaf.getLsbD 4 || q.glob && leaf.getLsbD 11 && !due | _ => false
    if slow && !ns then none else some (s1, l)
  | _ => none

/-- The number at a place that holds no poison. -/
def takeOne (s : State) (l : Loc) (n : Nat) : Option (State × Nat) := if poisoned s l n then none else some (locLoad s l n)

/-- One read of a vector instruction. -/
def readOne (q : Asker) (s : State) (va : Word) (n e : Nat) (ns : Bool) (due : Bool := false) : Option (State × Nat) :=
  (findOne q s va n e ns due).bind fun r => takeOne r.1 r.2 n

/-- An element of `w` bits at a bit address: whole bytes, or bits of the one or two bytes it lies in, both found before either is read
(R131, R202, R373). -/
def readElem (q : Asker) (s : State) (addr w e : Nat) (ns : Bool) (due : Bool := false) : Option (State × Nat) :=
  let va := BitVec.ofNat 64 (addr / 8)
  if 8 ≤ w then readOne q s va (w / 8) e ns due
  else if addr % 8 + w ≤ 8 then (readOne q s va 1 e ns due).map fun r => (r.1, bits r.2 (addr % 8) w)
  else (findOne q s va 1 e ns due).bind fun f => (findOne q f.1 (va + 1) 1 e ns due).bind fun f2 => (takeOne f2.1 f.2 1).bind fun r =>
    (takeOne r.1 f2.2 1).map fun r2 => (r2.1, bits (r.2 + 256 * r2.2) (addr % 8) w)

/-- The elements of a load, read in order: the state they leave and their values, where every read lands. -/
def readAll (q : Asker) (addr : Nat → Nat) (w : Nat) (blk : Bool) : List Nat → Bool → State → Option (State × List (Nat × Nat))
  | [], _, s => some (s, [])
  | e :: r, first, s => (readElem q s (addr e) w e first).bind fun v =>
      (readAll q addr w blk r blk v.1).map fun rest => (rest.1, (e, v.2) :: rest.2)

/-- One write of a vector store, on a page whose A and D bits are set already: where it lands. -/
def placeOne (q : Asker) (s : State) (va : Word) (n e : Nat) (u : Use) : Option (State × Loc) :=
  match resolve s q va n u e with
  | (s1, .at l) => if s1.mem = s.mem then some (s1, l) else none
  | _ => none

/-- Bits `o` to `o + n - 1` of the byte at a place found before become those of `v`, where its page's D bit is set already (R44, R195). -/
def mergeOne (q : Asker) (s : State) (l : Loc) (o n v : Nat) : Option State :=
  let s1 := match l with | .glob _ va _ => dirtyAt s (coreOf s q.team) q.ctx va | _ => s
  if s1.mem = s.mem then some (locWrite s1 q l 1 (setBits (locRead s l 1) o n v)) else none

/-- An element of `w` bits stored at a bit address: the state after it, and the places and sizes written. Of one that straddles two bytes
both are found before either is written (R202). -/
def writeElem (q : Asker) (s : State) (addr w v e : Nat) : Option (State × List (Loc × Nat)) :=
  let o := addr % 8
  let va := BitVec.ofNat 64 (addr / 8)
  if 8 ≤ w then (placeOne q s va (w / 8) e .write).map fun r => (locWrite r.1 q r.2 (w / 8) v, [(r.2, w / 8)])
  else (placeOne q s va 1 e .stage).bind fun r =>
    if o + w ≤ 8 then (mergeOne q r.1 r.2 o w v).map fun t => (t, [(r.2, 1)])
    else (placeOne q r.1 (va + 1) 1 e .stage).bind fun r2 => (mergeOne q r2.1 r.2 o (8 - o) v).bind fun s3 =>
      (mergeOne q s3 r2.2 0 (o + w - 8) (v >>> (8 - o))).map fun t => (t, [(r.2, 1), (r2.2, 1)])

/-- A read of the copy engine (R374): the state, the number and whether it is poisoned, which the engine carries. -/
def carryOne (q : Asker) (s : State) (va : Word) (n : Nat) : Option (State × Nat × Bool) :=
  match resolve s q va n .read 0 with
  | (s1, .at l) => some ((locLoad s1 l n).1, (locLoad s1 l n).2, poisoned s1 l n)
  | _ => none

/-- The same of `w` bits at a bit address. -/
def carryElem (q : Asker) (s : State) (addr w : Nat) : Option (State × Nat × Bool) :=
  let o := addr % 8
  let va := BitVec.ofNat 64 (addr / 8)
  if 8 ≤ w then carryOne q s va (w / 8)
  else if o + w ≤ 8 then (carryOne q s va 1).map fun r => (r.1, bits r.2.1 o w, r.2.2)
  else (carryOne q s va 1).bind fun r => (carryOne q r.1 (va + 1) 1).map fun r2 => (r2.1, bits (r.2.1 + 256 * r2.2.1) o w, r.2.2 || r2.2.2)

/-- Where a write of the copy engine lands, on a page whose A and D bits are set already. -/
def stageOne (q : Asker) (s : State) (va : Word) (n : Nat) : Option (State × Loc) :=
  (placeOne q s va n 0 .stage).bind fun r =>
    let s1 := match r.2 with | .glob _ a _ => dirtyAt r.1 (coreOf r.1 q.team) q.ctx a | _ => r.1
    if s1.mem = s.mem then some (s1, r.2) else none

/-- An element the copy engine writes: the state after it, and the places and sizes written. -/
def stageElem (q : Asker) (s : State) (addr w v : Nat) : Option (State × List (Loc × Nat)) :=
  if 8 ≤ w then (stageOne q s (BitVec.ofNat 64 (addr / 8)) (w / 8)).map fun r => (locWrite r.1 q r.2 (w / 8) v, [(r.2, w / 8)]) else writeElem q s addr w v 0

/-- The elements of a store, written in order; `ix` is the element number a fault of theirs would carry. -/
def writeAll (q : Asker) (addr val ix : Nat → Nat) (w : Nat) : List Nat → State → Option (State × List (Loc × Nat))
  | [], s => some (s, [])
  | e :: r, s => (writeElem q s (addr e) w (val e) (ix e)).bind fun v => (writeAll q addr val ix w r v.1).map fun rest => (rest.1, v.2 ++ rest.2)

/-- Every byte of memory outside a list of places reads as before; of the rest of the device, only the transactions of other groups,
scratchpads, cached leaves and the reference bits of heaps can differ. -/
def MemOutside (s t : State) (ps : List (Loc × Nat)) : Prop :=
  { t with mem := s.mem, tlb := s.tlb, teams := s.teams, ctxs := s.ctxs } = s ∧
  ∀ a, (∀ p ∈ ps, ∀ pa va leaf, p.1 = .glob pa va leaf → Outside pa p.2 a) → readByte t.mem a = readByte s.mem a

/-- The elements of an atomic, performed in order: the state after them and the old values. -/
def atomAll (q : Asker) (addr : Nat → Word) (n : Nat) (new : Nat → Nat → Option Nat) : List Nat → State → Option (State × List (Nat × Nat) × List (Loc × Nat))
  | [], s => some (s, [], [])
  | e :: r, s => (placeOne q s (addr e) n e .atomic).bind fun p =>
      if poisoned p.1 p.2 n then none
      else
        let old := locLoad p.1 p.2 n
        let s2 := match new e old.2 with | some x => locWrite old.1 q p.2 n x | none => old.1
        (atomAll q addr n new r s2).map fun rest => (rest.1, (e, old.2) :: rest.2.1, (p.2, n) :: rest.2.2)

/-- The elements a memory instruction still has to perform: from RIDX on in a control thread (R201), the batch's in a block. -/
def toDo (cx : Cx) : List Nat := match cx.vps with | some l => l | none => (active cx).filter fun e => cx.g.ridx.toNat ≤ e

/-- Whether the first of them is the lowest active element, which is not read ahead (R199, R200); a VP of a block reads none ahead. -/
def fresh (cx : Cx) : Bool := cx.vps.isSome || decide ((toDo cx).head? = (active cx).head?)

/-- A vector load completes where every element's read lands: `d` takes the elements (R322 to R324). -/
def VecLoads (i : Instr) (rs : List (BitVec 6)) (d : BitVec 6) (fmt : Group → Prop) (la : Nat) (addr : Cx → Nat → Nat) : Prop :=
  let P := fun (cx : Cx) (vs : List (Nat × Nat)) (g' : Group) => ListTake cx.g g' d.toNat (elemWidth cx.g) vs ∧
    g'.fcsr = cx.g.fcsr ∧ SlotsKept cx.g g' [d.toNat] ∧ g'.p = cx.g.p
  (∀ s cx t vs, CtlFree s cx → VecRegs cx.g rs [d] → fmt cx.g → readAll (asker cx) (addr cx) (elemWidth cx.g) false (toDo cx) (fresh cx) s = some (t, vs) →
    VecDone (exec i s) t cx cx.g la (P cx vs)) ∧
  (∀ s cx bs pc t vs, BlkActs s cx bs pc → VecRegs cx.g rs [d] → fmt cx.g → readAll (asker cx) (addr cx) (elemWidth cx.g) true (toDo cx) true s = some (t, vs) →
    BlkDone (exec i s) t (leftBy t cx) bs pc (P (leftBy t cx) vs))

/-- A vector store completes where every element's write lands: memory holds the elements of `d`, and reads as before outside the places
written; the group keeps its registers. A line written whole is no longer poisoned. -/
def VecStores (i : Instr) (rs : List (BitVec 6)) (d : BitVec 6) (fmt : Group → Prop) (addr : Cx → Nat → Nat) : Prop :=
  let P := fun (cx : Cx) (g' : Group) => g'.v = cx.g.v ∧ g'.p = cx.g.p ∧ g'.fcsr = cx.g.fcsr ∧ g'.slots = cx.g.slots
  let W := fun (cx : Cx) (s : State) => writeAll (asker cx) (addr cx) (elem cx d.toNat (elemWidth cx.g)) id (elemWidth cx.g) (toDo cx) s
  (∀ s cx t ps, CtlFree s cx → VecRegs cx.g (d :: rs) [] → fmt cx.g → W cx s = some (t, ps) → MemOutside s t ps ∧
    ∃ u, { u with poison := t.poison } = t ∧ (∀ l ∈ u.poison, l ∈ t.poison) ∧ VecDone (exec i s) u cx cx.g 0 (P cx)) ∧
  (∀ s cx bs pc t ps, BlkActs s cx bs pc → VecRegs cx.g (d :: rs) [] → fmt cx.g → W cx s = some (t, ps) → MemOutside s t ps ∧
    ∃ u, { u with poison := t.poison } = t ∧ (∀ l ∈ u.poison, l ∈ t.poison) ∧ BlkDone (exec i s) u (leftBy t cx) bs pc (P (leftBy t cx)))

/-- A vector atomic completes where every element's access lands: one read-modify-write for each element in order; `ret` says whether `d`
takes the old values (R335 to R337). -/
def VecAtomics (i : Instr) (rs : List (BitVec 6)) (d b : BitVec 6) (ret : Bool) (fmt : Group → Prop) (la : Nat) (new : Cx → Nat → Nat → Option Nat) : Prop :=
  let P := fun (cx : Cx) (vs : List (Nat × Nat)) (g' : Group) => ListTake cx.g g' d.toNat (elemWidth cx.g) (if ret then vs else []) ∧
    g'.fcsr = cx.g.fcsr ∧ SlotsKept cx.g g' (if ret then [d.toNat] else []) ∧ g'.p = cx.g.p
  let A := fun (cx : Cx) (s : State) =>
    atomAll (asker cx) (fun e => BitVec.ofNat 64 (elem64 cx b.toNat e)) (elemWidth cx.g / 8) (new cx) (toDo cx) s
  (∀ s cx t vs ps, CtlFree s cx → VecRegs cx.g (b :: rs) (if ret then [d] else []) → addrOk cx.g b.toNat = true → fmt cx.g → A cx s = some (t, vs, ps) →
    MemOutside s t ps ∧ VecDone (exec i s) t cx cx.g la (P cx vs)) ∧
  (∀ s cx bs pc t vs ps, BlkActs s cx bs pc → VecRegs cx.g (b :: rs) (if ret then [d] else []) → addrOk cx.g b.toNat = true → fmt cx.g → A cx s = some (t, vs, ps) →
    MemOutside s t ps ∧ BlkDone (exec i s) t (leftBy t cx) bs pc (P (leftBy t cx) vs))

/-- The new value of an atomic operation of R281 and R335 over `w` bits. -/
def amo (w op old x : Nat) : Nat :=
  match op with
  | 0 => (old + x) % 2 ^ w
  | 1 => old &&& x
  | 2 => old ||| x
  | 3 => old ^^^ x
  | 4 => if toS w old ≤ toS w x then old else x
  | 5 => if toS w x ≤ toS w old then old else x
  | 6 => Nat.min old x
  | 7 => Nat.max old x
  | 8 => x
  | _ => (fadd 0 0 old x).1

/-- No packet of a team's context is asked for under TRCFG.BLK (R403). -/
def Untraced (s : State) (k : Nat) : Prop := traceOn s k 8 = false

/-- A control instruction of a block completes: nothing but the block changes, every VP of `bs` stands where `to` says, in condition `c`,
every VP that has no entry of the batch stands where it stood. -/
def PathsGo (o : Result) (s : State) (cx : Cx) (bs : List Nat) (dest : Nat → Word) (c : VpCond) : Prop :=
  ∃ t g', o = .next t ∧ ButGroup s t cx.k cx.i ∧ getGroup t cx.k cx.i = some g' ∧ { g' with block := cx.g.block } = cx.g ∧
    (∀ v ∈ bs, (vpOf g' v).map (fun p => (p.cond, p.pc)) = some (c, dest v)) ∧
    ∀ v, v ∉ bs → (vpOf g' v).map (fun p => (p.cond, p.pc)) = (vpOf cx.g v).map fun p => (p.cond, p.pc)

/-- The last path of a block ends (R115): with no VP left in JOIN the block completes; else the VPs in JOIN at the lowest address run on behind it. -/
def Settles (o : Result) (s : State) (cx : Cx) (b : Block) (bs : List Nat) (joins : List Word) : Prop :=
  (joins = [] → ∃ t g', o = .next t ∧ ButGroup s t cx.k cx.i ∧ getGroup t cx.k cx.i = some g' ∧ g' = { cx.g with block := none }) ∧
  ∀ a, a ∈ joins → (∀ x ∈ joins, a.toNat ≤ x.toNat) → ∃ t g', o = .next t ∧ ButGroup s t cx.k cx.i ∧ getGroup t cx.k cx.i = some g' ∧
    { g' with block := cx.g.block } = cx.g ∧
    (∀ v p, v ∉ bs → vpOf cx.g v = some p → p.cond = .join → p.pc = a → (vpOf g' v).map (fun p => (p.cond, p.pc)) = some (.run, a + 4)) ∧
    ∀ v, (∀ e ∈ b.vps, e.1 = v → v ∉ bs ∧ ¬(e.2.cond = .join ∧ e.2.pc = a)) →
      (vpOf g' v).map (fun p => (p.cond, p.pc)) = (vpOf cx.g v).map fun p => (p.cond, p.pc)

/-- The register `n` holds zero in every element. -/
def ZeroReg (cx : Cx) (g' : Group) (n : Nat) : Prop := ∀ j, j < cxVlmax cx → held g' n (elemWidth cx.g) j = 0

/-- A slot binds (R166, R360): the register reads zero, the slot is in stream mode with its stream at the beginning. -/
def Binds (i : Instr) (v a : BitVec 6) (q : BitVec 2) (idx : BitVec 6) (mc : Bool) (extra : Cx → Desc → Prop) : Prop :=
  ∀ s cx d x iv, CtlFree s cx → lget cx.kn.descs idx.toNat = some d → invOf s cx.k = some iv → lget cx.g.slots q.toNat = some x → x.st = .idle →
    v.toNat < nvCount cx.g → (∀ y ∈ cx.g.slots, y.st = .idle ∨ y.vd ≠ v.toNat) → descOk d iv.gang = true → extra cx d →
    VecDone (exec i s) s cx cx.g 0 fun g' => ZeroReg cx g' v.toNat ∧ (∀ n, n ≠ v.toNat → tgetD g'.v n 0 = tgetD cx.g.v n 0) ∧
      (∀ n, n ≠ q.toNat → lget g'.slots n = lget cx.g.slots n) ∧ g'.p = cx.g.p ∧ g'.fcsr = cx.g.fcsr ∧
      ∃ y, lget g'.slots q.toNat = some y ∧ y.st = (if d.dir = 1 then .write else .read) ∧ y.vd = v.toNat ∧ y.desc = d ∧ y.base = readX cx.g.th a.toNat ∧
        y.len = d.counts.foldl (· * ·) 1 ∧ y.pos = 0 ∧ y.slen = 0 ∧ y.ahead = [] ∧ y.written = 0 ∧ y.spare = 0 ∧ y.blocked = none ∧ y.wanted = false ∧ y.multicast = mc ∧ y.ended = false ∧ y.pc = cx.g.th.pc

/-- A slot that has left stream mode. -/
def Freed (x y : Slot) : Prop :=
  y.st = .idle ∧ y.slen = 0 ∧ y.ahead = [] ∧ y.written = 0 ∧ y.spare = 0 ∧ y.blocked = none ∧ y.wanted = false ∧ y.multicast = false ∧ y.ended = false ∧ y.desc = x.desc ∧ y.vd = x.vd

/-- The pushed elements of the strip of a WRITE slot still to be stored (R168). -/
def pushed (x : Slot) : List Nat := (List.range x.slen).filter fun e => bit x.written e

/-- The access engine of a group's stream slots: it addresses global memory alone (R165). -/
def engine (cx : Cx) : Asker := { asker cx with glob := true }

/-- The elements a WRITE slot's close stores, where each lands. -/
def closeWrites (s : State) (cx : Cx) (x : Slot) : Option (State × List (Loc × Nat)) :=
  let w := fmtWidth x.desc.fmt
  writeAll (engine cx) (fun e => streamAddr x (x.pos + e)) (elem cx x.vd w) (fun _ => 0) w (pushed x) s

/-- Team `k` but for its groups, sequencer, bells, operations, tags and scratchpad stands, every other team and the rest of the device too. -/
def TeamOnly (s t : State) (k : Nat) : Prop :=
  { t with teams := s.teams } = s ∧ ∀ k', k' ≠ k → getTeam t k' = getTeam s k'

/-- An agent stands in a wait, or, its block parked by a trap or fault, has it set aside (R120) (log entry 94). -/
def Waits (th : Thread) (r : Run) : Prop := th.run = r ∨ th.run = .parkedFault ∧ th.aside = some r

/-- What a thread is in once its wait is over: READY, a sequencer RUNNING, and one whose block is parked still parked. -/
def overRun (th : Thread) (a : Nat) : Run := if a = 16 then .running else if th.run = .parkedFault then .parkedFault else .ready

/-- An agent's wait is over: it stands behind its instruction, and no wait of a parked group is set aside any more. -/
def WaitOver (th th' : Thread) (a : Nat) : Prop :=
  th'.pc = th.pc + 4 ∧ th'.run = overRun th a ∧ th'.x = th.x ∧ (a ≠ 16 → th.run = .parkedFault → th'.aside = none ∧ th'.park = th.park)

/-- Every waiter of a bell is released (R180): it has completed its instruction; every other agent of the team stands. -/
def Released (s t : State) (k b : Nat) : Prop :=
  ∀ a th, a < 17 → getThread s k a = some th →
    (Waits th (.waitBell b) → ∃ th', getThread t k a = some th' ∧ WaitOver th th' a) ∧ (¬Waits th (.waitBell b) → getThread t k a = some th)

/-- What a thread goes back to once its trap or fault is resolved (R120, R121): the wait that was set aside, a watch with an evaluation due (log entry 94), else READY, a
sequencer RUNNING. -/
def backTo (a : Nat) (th : Thread) : Run :=
  match th.aside with
  | some (.waitMem w) => .waitMem { w with due := true }
  | some r => r
  | none => if a = 16 then .running else .ready

/-- A state that differs in one bell. -/
def withBell (s : State) (k b : Nat) (x : Bell) : State := modTeam s k fun t => { t with bells := lset t.bells b x }

/-- A control instruction that leaves the group as `g`, of a state `s1` that its effect on the team left. -/
def CtlLeaves (o : Result) (s1 : State) (cx : Cx) (g : Group) : Prop :=
  CtlDone o s1 cx.k cx.i (cx.g.th.pc + 4) fun g' => GroupRest g g' ∧ XKept g.th g'.th 0

/-- The same of a sequencer. -/
def SeqLeaves (o : Result) (s1 : State) (sx : Sx) (q : Seq) : Prop :=
  SeqDone o s1 sx.k (sx.q.th.pc + 4) fun q' => { q' with th := q.th } = q ∧ ThreadRest q.th q'.th ∧ XKept q.th q'.th 0

/-- It writes d as well. -/
def SeqPuts (o : Result) (s1 : State) (sx : Sx) (q : Seq) (d : Nat) (v : Word) : Prop :=
  SeqDone o s1 sx.k (sx.q.th.pc + 4) fun q' => { q' with th := q.th } = q ∧ ThreadRest q.th q'.th ∧ XKept q.th q'.th d ∧ XWritten q.th q'.th d v 0

/-- The predicate a watch writes: the bits of the watched elements take `f`, the others stay. -/
def WatchEnds (o : Result) (s1 : State) (cx : Cx) (pd : BitVec 7) (js : Nat → Prop) (f : Nat → Prop) : Prop :=
  CtlDone o s1 cx.k cx.i (cx.g.th.pc + 4) fun g' => PredRest cx.g g' pd.toNat ∧
    (pd ≠ 0 → ∀ v, (js v → (bit (tgetD g'.p pd.toNat 0) v = true ↔ f v)) ∧ (¬js v → bit (tgetD g'.p pd.toNat 0) v = bit (tgetD cx.g.p pd.toNat 0) v))

/-- A team with one more operation in flight. -/
def withOp (s : State) (k a tok : Nat) (kind : EngKind) (pc : Word) : State :=
  modTeam s k fun t => { t with ops := t.ops ++ [{ agent := a, tok := tok, kind := kind, pos := 0, parked := false, cover := [], held := none, pc := pc }] }

/-- The bytes from `off` of the allocation of team `k` became `img`, its other bytes stand, no byte gains poison; nothing else of the device differs. -/
def SpadTakes (s t : State) (k off : Nat) (img : List Byte) : Prop :=
  TeamOnly s t k ∧ ∃ x y, getTeam s k = some x ∧ getTeam t k = some y ∧ { y with spad := x.spad, spadPoison := x.spadPoison } = x ∧
    spadBytes y off img.length = img ∧ (∀ o, o < off ∨ off + img.length ≤ o → tgetD y.spad o 0 = tgetD x.spad o 0) ∧ ∀ u ∈ y.spadPoison, u ∈ x.spadPoison

/-- The sequencer behind the wait of an instruction with a wait mask: waiting on tokens acquires, which empties the scale cache. -/
def acquired (q : Seq) (w : BitVec 8) : Seq := if w = 0 then q else { q with cache := [] }

/-- Accumulator `c` of a sequencer becomes `a`. -/
def withAcc (q : Seq) (c : BitVec 2) (a : Acc) : Seq := { q with accs := lset q.accs c.toNat a }

/-- A bit of MSTAT set or cleared. -/
def withBit (m : Word) (n : Nat) (b : Bool) : Word := if b then m ||| 1#64 <<< n else m &&& ~~~(1#64 <<< n)

/-- MSTAT once the flags of conversions are in: NV 4, OF 3, UF 2, NX 1, sticky. -/
def mstatOr (m : Word) (fl : List Nat) : Word :=
  let any := fun n => fl.any fun f => bit f n
  m ||| (if any 7 then 16 else 0) ||| (if any 5 then 8 else 0) ||| (if any 4 then 4 else 0) ||| (if any 3 then 2 else 0)

/-- Rows and columns of a box that a record has. -/
def boxOf (r : BitVec 256) (rows cols : Nat) : Nat × Nat := (Nat.min rows (recRows r), Nat.min cols (recCols r))

/-- A list holds the value of every cell of a box, once each, in rising order of a key. -/
def Cells {α : Type} (l : List α) (b : Nat × Nat) (f : Nat → Nat → α) (key : α → Nat) : Prop :=
  l.length = b.1 * b.2 ∧ (∀ i j, i < b.1 → j < b.2 → f i j ∈ l) ∧ (∀ x ∈ l, ∃ i j, i < b.1 ∧ j < b.2 ∧ x = f i j) ∧ l.Pairwise fun x y => key x ≤ key y

/-- The sequencer starts an engine operation of `n` elements under token `t`: one with none completes its token at once. -/
def SeqStarts (o : Result) (s : State) (sx : Sx) (q : Seq) (t : BitVec 3) (n : Nat) (kind : EngKind) : Prop :=
  if n = 0 then SeqLeaves o s sx q
  else SeqLeaves o (withOp s sx.k 16 t.toNat kind sx.q.th.pc) sx { q with th := { q.th with pend := q.th.pend ||| 1#8 <<< t.toNat } }

/-! ### Queues, the heap and messages -/

/-- `n` units of 8 bytes a group reads from an address on (R141, R346). -/
def unitsRead (q : Asker) : Nat → State → Word → Option (State × List Byte)
  | 0, s, _ => some (s, [])
  | n + 1, s, va => (readOne q s va 8 0 true).bind fun r => (unitsRead q n r.1 (va + 8)).map fun x => (x.1, natBytes r.2 8 ++ x.2)

/-- The `n` units from an address may be written. -/
def unitsFit (q : Asker) : Nat → State → Word → Option State
  | 0, s, _ => some s
  | n + 1, s, va => (placeOne q s va 8 0 .stage).bind fun r => unitsFit q n r.1 (va + 8)

/-- A state in which a queue of a context is `x`. -/
def withQueue (s : State) (cn q : Nat) (x : Queue) : State := modCtx s cn fun c => { c with queues := tput c.queues q x }

/-- The indices of a queue become `hd` and `tl`, in its mirror cell too (R75): the state after the cell's write. -/
def mirrored (s : State) (cn clu : Nat) (x : Queue) (hd tl : BitVec 32) : Option State := deviceWrite s cn (mirrorVa x clu) (natBytes (hd.toNat + tl.toNat * 2 ^ 32) 8)

/-- The result word of R346. -/
def queueWord (status index clu : Nat) : Word := BitVec.ofNat 64 (index * 2 ^ 32 + clu * 2 ^ 8 + status)

/-- A take of a queue, or of the sub-queue `clu`: its oldest record or its newest, `wc` the CLU of the result where it holds none. -/
def Takes (i : Instr) (s : State) (cx : Cx) (d a q : BitVec 6) (l : BitVec 4) (x : Queue) (clu wc : Nat) (newest : Bool) : Prop :=
  let va := readX cx.g.th a.toNat
  let n := 2 ^ qSsz x / 8
  let done := fun (s1 : State) (status index c : Nat) => CtlWrites (exec i s) s1 cx cx.g d.toNat (queueWord status index c) l.toNat
  va.toNat % 16 = 0 → ∀ s1, unitsFit (asker cx) n s va = some s1 →
    (x.st = .disabled → done s1 2 0 wc) ∧ (x.st ≠ .disabled → qCount x clu = 0 → done s1 3 0 wc) ∧
    (x.st ≠ .disabled → qCount x clu ≠ 0 →
      let hd := (qIdx x clu).1
      let tl := (qIdx x clu).2
      let at' := if newest then tl - 1 else hd
      ∀ s2 bs s3 s5 ps, deviceRead s1 cx.cn (slotVa x clu at') (2 ^ qSsz x) = (s2, some bs) →
        (if newest then mirrored s2 cx.cn clu x hd (tl - 1) else mirrored s2 cx.cn clu x (hd + 1) tl) = some s3 →
        let y := { x with idx := tput x.idx clu (if newest then (hd, tl - 1) else (hd + 1, tl)) }
        let s4 := withQueue s3 cx.cn q.toNat { y with st := if x.st = .full then .opened else if x.st = .draining ∧ qEmpty y then .closed else x.st }
        writeAll (asker cx) (fun e => 8 * (va + BitVec.ofNat 64 (8 * e)).toNat) (fun e => bytesNat ((bs.drop (8 * e)).take 8)) (fun _ => 0) 64 (List.range n) s4 = some (s5, ps) →
        MemOutside s4 s5 ps ∧ done s5 0 at'.toNat clu)

/-- A push to a queue, or to the sub-queue `clu`. -/
def Pushes (i : Instr) (s : State) (cx : Cx) (d a q : BitVec 6) (l : BitVec 4) (x : Queue) (clu : Nat) : Prop :=
  let va := readX cx.g.th a.toNat
  let done := fun (s1 : State) (status index : Nat) => CtlWrites (exec i s) s1 cx cx.g d.toNat (queueWord status index clu) l.toNat
  let full := qCount x clu = 2 ^ qLogn x
  va.toNat % 16 = 0 → ∀ s2 bs, unitsRead (asker cx) (2 ^ qSsz x / 8) s va = some (s2, bs) → qCount x clu ≤ 2 ^ qLogn x →
    (x.st = .full ∨ x.st = .opened ∧ full → done s2 1 0) ∧ (x.st ≠ .full → x.st ≠ .opened → done s2 2 0) ∧
    (x.st = .opened → ¬full →
      let hd := (qIdx x clu).1
      let tl := (qIdx x clu).2
      ∀ s3 s4, deviceWrite s2 cx.cn (slotVa x clu tl) bs = some s3 → mirrored s3 cx.cn clu x hd (tl + 1) = some s4 →
        done (withQueue s4 cx.cn q.toNat { x with idx := tput x.idx clu (hd, tl + 1), st := if qKind x ≠ 2 ∧ qCount x clu + 1 = 2 ^ qLogn x then .full else .opened }) 0 tl.toNat)

/-- The invocation a launch record makes (R87), from the registers that hold it, once it has passed its checks. -/
def Launched (iv : Invoc) (rd : Nat → Word) (tile : Bool) (cn prio order : Nat) (o : CodeObj) (kn : Kernel) : Prop :=
  let at' := fun (i lo n : Nat) => bits (rd i).toNat lo n
  iv.ctx = cn ∧ iv.kind = .launch ∧ iv.kernel = kn ∧ iv.code = o.base ∧ iv.obj = at' 0 8 8 ∧ iv.kidx = at' 0 16 8 ∧ iv.gang = at' 0 24 8 ∧ iv.job = at' 0 32 16 ∧
    iv.spad = at' 0 48 16 ∧ iv.cpref = at' 0 2 2 ∧ iv.tile = tile ∧ iv.argp = rd 4 ∧ iv.arg0 = rd 5 ∧ iv.ccell = rd 6 ∧ iv.ctag = (rd 7 &&& 0xFFFFFFFF) ∧ iv.inputs = [] ∧ iv.results = [] ∧
    iv.prio = prio ∧ iv.aged = 0 ∧ iv.order = order ∧ iv.nextTeam = 0 ∧ iv.again = [] ∧ iv.mark = none ∧
    (if tile then iv.tbase = rd 1 else iv.gx = at' 1 0 16 ∧ iv.gy = at' 1 16 16 ∧ iv.gz = at' 1 32 16 ∧ iv.teams = iv.gx * iv.gy * iv.gz)

/-- A control instruction completes with h(d) := v under lookahead `la`, which hides it (R266). -/
def HWrites (o : Result) (s : State) (cx : Cx) (g : Group) (d : Nat) (v : Word) (la : Nat) : Prop :=
  CtlDone o s cx.k cx.i (cx.g.th.pc + 4) fun g' => GroupRest { g with h := g'.h } g' ∧ XKept g.th g'.th 0 ∧
    tgetD g'.h d 0 = v ∧ (la = 0 → readH g' d = v) ∧ Opened g.th g'.th la ∧ (la ≠ 0 → g.th.wins = [] → readH g' d = readH g d) ∧ ∀ n, n ≠ d → tgetD g'.h n 0 = tgetD g.h n 0 ∧ (g.th.wins = [] → readH g' n = readH g n)

/-- PIN of an object, the two bytes at a place of memory, becomes a number; but for transactions, watches and cached leaves nothing else
differs. -/
def PinBecomes (s t : State) (pa pin : Nat) : Prop :=
  { t with mem := s.mem, tlb := s.tlb, teams := s.teams } = s ∧ readNat t.mem pa 2 = pin ∧ ∀ a, Outside pa 2 a → readByte t.mem a = readByte s.mem a

/-- The heap feature of a group's context. -/
def HasHeap (s : State) (cx : Cx) : Prop := ∃ c, getCtx s cx.cn = some c ∧ hasFeature c 3 = true

/-- One load through a reference (R366): the state and the value, where nothing faults or waits; `always` says whether what is loaded passes
the barrier whatever its reference bit. -/
def heapRead (cx : Cx) (x : Word) (slot : HSlot) (off e : Nat) (always ns : Bool) : Option (Cx × Nat) :=
  match addrObject cx x slot off e false ns with
  | .at cx1 va =>
    match heapPlace cx1 va .read e with
    | .at cx2 l =>
      let slow := match l with | .glob _ _ leaf => leaf.getLsbD 4 | _ => false
      if poisoned cx2.s l 8 || (slow && !ns) then none
      else
        let r := locLoad cx2.s l 8
        let cx3 := { cx2 with s := r.1 }
        if always || refBit cx3 va (match l with | .glob pa _ _ => pa | _ => 0) then (match barrier e barrierFuel cx3 (BitVec.ofNat 64 r.2) (.word va) with | .val cx4 y _ => some (cx4, y.toNat) | _ => none)
        else some (cx3, r.2)
    | _ => none
  | _ => none

/-- Where one store through a reference lands, on a page whose A and D bits are set already. -/
def heapSpot (cx : Cx) (x : Word) (slot : HSlot) (off e : Nat) : Option (Cx × Loc × Nat) :=
  match addrObject cx x slot off e true true with
  | .at cx1 va => (match heapPlace cx1 va .write e with | .at cx2 l => if cx2.s.mem = cx.s.mem then some (cx2, l, va) else none | _ => none)
  | _ => none

/-- The elements of a vector heap load, in order. -/
def heapReadAll (cx : Cx) (b off : Nat) (always blk : Bool) : List Nat → Bool → Cx → Option (Cx × List (Nat × Nat))
  | [], _, c => some (c, [])
  | e :: r, first, c => (heapRead c (BitVec.ofNat 64 (elem cx b 64 e)) .none off e always first).bind fun v =>
      (heapReadAll cx b off always blk r blk v.1).map fun rest => (rest.1, (e, v.2) :: rest.2)

/-- The elements of a vector heap store, in order: the state, and the places and sizes written. -/
def heapWriteAll (cx : Cx) (v b off : Nat) : List Nat → Cx → Option (Cx × List (Loc × Nat))
  | [], c => some (c, [])
  | e :: r, c => (heapSpot c (BitVec.ofNat 64 (elem cx b 64 e)) .none off e).bind fun p =>
      (heapWriteAll cx v b off r { p.1 with s := locWrite p.1.s (asker p.1) p.2.1 8 (elem cx v 64 e) }).map fun rest => (rest.1, (p.2.1, 8) :: rest.2)

/-- What a vector heap instruction works on: 64-bit elements, a register of references that may be one, the registers named. -/
def HeapVec (cx : Cx) (rs ws : List (BitVec 6)) (b : BitVec 6) : Prop := VecRegs cx.g rs ws ∧ addrLegal cx.g b.toNat = true ∧ elemWidth cx.g = 64

/-- A vector heap load completes where no element faults, trims or waits (R368). -/
def HeapLoads (i : Instr) (v b : BitVec 6) (off : Nat) (l : BitVec 4) (always : Bool) : Prop :=
  let P := fun (cx : Cx) (vs : List (Nat × Nat)) (g' : Group) => ListTake cx.g g' v.toNat 64 vs ∧ g'.fcsr = cx.g.fcsr ∧ SlotsKept cx.g g' [v.toNat] ∧ g'.p = cx.g.p
  (∀ s cx c vs, CtlFree s cx → HasHeap s cx → HeapVec cx [b] [v] b → heapReadAll cx b.toNat off always false (toDo cx) (fresh cx) cx = some (c, vs) →
    VecDone (exec i s) c.s cx cx.g l.toNat (P cx vs)) ∧
  (∀ s cx bs pc c vs, BlkActs s cx bs pc → HasHeap s cx → HeapVec cx [b] [v] b →
    heapReadAll cx b.toNat off always true (toDo cx) true cx = some (c, vs) → BlkDone (exec i s) c.s (leftBy c.s cx) bs pc (P (leftBy c.s cx) vs))

/-! ### Transactions and traps -/

/-- A group retired (R119, R166, R224): its hall passes are gone, its registers and stream slots as they were. -/
def Retires (g g' : Group) : Prop :=
  g'.th.run = .retired ∧ g'.pins = [] ∧ g'.slots = g.slots ∧ g'.th.x = g.th.x ∧ g'.h = g.h ∧ g'.v = g.v ∧ g'.p = g.p

/-- A control instruction with no effect of its own, and the same in a block and in the matrix stream. -/
def NoEffect (i : Instr) : Prop :=
  (∀ s cx, CtlActs s cx → CtlLeaves (exec i s) s cx cx.g) ∧
  (∀ s cx bs pc, BlkActs s cx bs pc → BlkDone (exec i s) s cx bs pc fun g' => g'.v = cx.g.v ∧ g'.p = cx.g.p ∧ g'.fcsr = cx.g.fcsr ∧ g'.slots = cx.g.slots) ∧
  (∀ s sx, SeqActs s sx → SeqLeaves (exec i s) s sx sx.q)

/-- VTYPE after a write of `v`: reserved values of a field leave it, bit 7 wants feature 12 (R251, R252). -/
def vtypeAfter (c : Ctx) (old v : Word) : Word :=
  0#52 ++ old.extractLsb' 8 4 ++ (if v.extractLsb' 7 1 = 1 ∧ c.features.getLsbD 12 = false then old.extractLsb' 7 1 else v.extractLsb' 7 1) ++
    (if (v.extractLsb' 4 3).toNat < 4 then v.extractLsb' 4 3 else old.extractLsb' 4 3) ++ (if (v.extractLsb' 0 4).toNat < 12 then v.extractLsb' 0 4 else old.extractLsb' 0 4)

/-- FCSR after a write of `v` (R251, R252). -/
def fcsrAfter (old v : Word) : Word := 0#55 ++ v.extractLsb' 3 6 ++ (if (v.extractLsb' 0 3).toNat < 4 then v.extractLsb' 0 3 else old.extractLsb' 0 3)

/-- What the read-only CSRs read as in a control thread (R109, R146, R188, R201, R223, R250, R251, R378). -/
def readOnlyCsrs (s : State) (cx : Cx) (t : Team) (iv : Invoc) (c : Ctx) : List (BitVec 12 × Word) :=
  let trapped : Word × Word × Word := match iv.kind with
    | .handler _ _ _ cause value epc => (cause.setWidth 64, value, epc)
    | _ => (cx.g.th.trapc.setWidth 64, cx.g.th.trapv, cx.g.th.epc)
  [(0x005, cx.g.ridx), (0x008, cx.g.txs), (0x00A, BitVec.ofNat 64 s.clk), (0x010, 0), (0x011, BitVec.ofNat 64 (if cx.i < iv.kernel.prod then cx.i else cx.i + 16)),
    (0x012, BitVec.ofNat 64 t.tidx), (0x013, BitVec.ofNat 64 (t.tidx % iv.gang)), (0x015, BitVec.ofNat 64 t.target.gmaxm), (0x016, BitVec.ofNat 64 t.target.gmaxn),
    (0x017, BitVec.ofNat 64 t.target.gmaxk), (0x018, if c.heap.enabled then c.heap.hapva else 0),
    (0x014, BitVec.ofNat 64 ((if t.target.cluster < 32 then 0 else 1) + 2 * (match t.target.mode with | .unshared => 0 | .half => 1 | .quarter => 2) +
      8 * t.target.share + 32 * t.target.core + 2 ^ 14 * t.target.cluster)),
    (0x020, trapped.1), (0x021, trapped.2.1), (0x022, (trapped.2.2.setWidth 57).setWidth 64)]

/-- The CSRs a group writes (R250). -/
def writtenCsrs (cx : Cx) : List (BitVec 12 × Word) :=
  [(0x000, BitVec.ofNat 64 (readVlen cx)), (0x001, cx.g.vtype), (0x002, cx.g.vmask), (0x003, cx.g.vstride), (0x004, cx.g.ecar), (0x006, cx.g.fcsr), (0x007, cx.g.siga),
    (0x009, (cx.g.th.err ++ cx.g.th.pend).setWidth 64)]

/-- A group that took the writable parts of a frame (R380, R381), with its layout by NV, VLMAX and register size: the CSRs under their field
rules, RIDX where the frame's EPC is that of a vector store, scatter or atomic or of the vector load the trap's poison was consumed by, else 0;
a group trapped in a block stays where its control thread stood, and an EPC that the frame changes is the program counter of the VPs that took the
trap (log entry 95). -/
def FrameTaken (s : State) (g g' : Group) (kn : Kernel) (c : Ctx) (bs : List Byte) : Prop :=
  let w := fun o => frameWord bs o
  let vt := vtypeAfter c g.vtype (w 0x48)
  let len := Nat.min (w 0x40).toNat (vlmax kn g)
  let at' := fun (f : IWord → Bool) => ∃ pa leaf, peek (tables s) c.root (w 0x10).toNat = some (pa, leaf) ∧ f (BitVec.ofNat 32 (readNat s.mem pa 4)) = true
  let stores := at' isVectorStore
  let loaded := at' isVectorLoad ∧ g.th.trapc = 0x10 ∧ w 0x10 = g.th.epc ∧ g.th.trapv ≠ w 0x10 ∧ (g.th.run = .parkedFault ∨ g.ridx ≠ 0)
  let vb := vBytes kn g
  let pb := pBytes kn g
  let p0 := 0x380 + vb * nvCount g
  (∀ n, 1 ≤ n → n < 64 → rawX g'.th n = w (0x100 + 8 * n)) ∧ (∀ n, n < 16 → tgetD g'.h n 0 = w (0x300 + 8 * n)) ∧
    (∀ n, n < nvCount g → tgetD g'.v n 0 = frameNat bs (0x380 + vb * n) vb) ∧
    (∀ n b, 1 ≤ n → n < 128 → bit (tgetD g'.p n 0) b = if b < 8 * pb then (frameNat bs (p0 + pb * n) pb).testBit b else bit (tgetD g.p n 0) b) ∧
    g'.vtype = vt ∧ g'.vlen = BitVec.ofNat 64 (if vtFmt { g with vtype := vt } = vtFmt g then len else Nat.min len (vlmax kn { g with vtype := vt })) ∧
    g'.vmask = w 0x50 &&& 0x7F ∧ g'.ecar = w 0x60 &&& 0xFFFFFFFF ∧ g'.fcsr = fcsrAfter g.fcsr (w 0x70) ∧
    (stores ∨ loaded → g'.ridx = BitVec.ofNat 64 ((w 0x68).toNat % 2 ^ 13)) ∧ (¬(stores ∨ loaded) → g'.ridx = 0) ∧
    g'.vstride = w 0x58 ∧ g'.siga = w 0x78 ∧ g'.txs = g.txs ∧ g'.txn = g.txn ∧ g'.pins = g.pins ∧ g'.slots = g.slots ∧ g'.th.pend = g.th.pend ∧
    (g.th.inBlock = none → g'.th.pc = w 0x10) ∧ (g.th.inBlock ≠ none → g'.th.pc = g.th.pc) ∧
    g'.th.convoy = (if g'.th.pc = g.th.pc then g.th.convoy else 0) ∧
    (∀ v p, vpOf g v = some p → (vpOf g' v).map (fun q => (q.cond, q.pc)) = some (p.cond,
      if p.cond = .run ∧ g.th.inBlock = some p.pc ∧ w 0x10 ≠ p.pc then w 0x10 else BitVec.ofNat 64 (frameNat bs (p0 + pb * 128 + 512 + 8 * v) 8 % 2 ^ 57)))

/-! ### Commands and events -/

/-- What an examination of the page of a VA finds (R91, R92): resident as an input, mapped with R and MIG clear in device DRAM; as a result, with W. -/
def residency (s : State) (root va : Nat) : Bool × Bool :=
  match peek (tables s) root va with
  | some (pa, leaf) => (leaf.getLsbD 1 && decide (pa < 2 ^ 51), leaf.getLsbD 2 && decide (pa < 2 ^ 51))
  | none => (false, false)

/-- No MIGRATE of the context is in progress. -/
def NoMigrate (s : State) (cn : Nat) : Prop := ∀ e ∈ s.pages, ∀ g, e.2.invcmd ≠ .migrate cn g

/-- The residency of a context's tracked pages examined again (R90): where no MIGRATE of the context runs, what its tables now say (log entry 99). -/
def Reexamined (s t : State) (cn : Nat) : Prop :=
  ∃ tr, t = modCtx s cn (fun c => { c with tracked := tr }) ∧
    (NoMigrate s cn → ∀ c, getCtx s cn = some c → ∀ n, tget tr n = (tget c.tracked n).map fun _ => residency s c.root (4096 * n))

/-- The leaf entry of a VA in the tables below a level (R192, R194), whatever it grants: its physical address and the size of its page. -/
def LeafAt (m : Memory) (va : Nat) : Nat → Nat → Nat → Nat → Prop
  | 0, table, a, size => a = table + 8 * (va / 2 ^ 12 % 512) ∧ (entryAt m a).getLsbD 0 = true ∧ size = if (entryAt m a).getLsbD 53 then 65536 else 4096
  | n + 1, table, a, size =>
    let b := table + 8 * (va / 2 ^ (21 + 9 * n) % 512)
    let e := entryAt m b
    e.getLsbD 0 = true ∧ if n < 2 ∧ e.getLsbD 53 = true then a = b ∧ size = 2 ^ (21 + 9 * n) else tableMalformed e = false ∧ LeafAt m va n (bits e.toNat 12 40 * 4096) a size

/-- A VA is mapped by a leaf with R and W, and with MH as given. -/
def MappedRW (s : State) (root a : Nat) (mh : Bool) : Prop := ∃ pa leaf, peek (tables s) root a = some (pa, leaf) ∧ leaf.getLsbD 1 = true ∧ leaf.getLsbD 2 = true ∧ leaf.getLsbD 6 = mh

/-- The heap registers that ENABLE accepts (R212): no zero count with a base, at most 65,536 regions, the ranges apart, heap pages R, W and MH, root pages R and W
without MH, no page of the aperture mapped. -/
def HeapAccepted (s : State) (c : Ctx) : Prop :=
  let h := c.heap
  let inHeap := fun a => h.heapva.toNat ≤ a ∧ a < h.heapva.toNat + h.heapn.toNat * 2 ^ 21
  let inRoot := fun a => h.hroot.toNat ≤ a ∧ a < h.hroot.toNat + h.hrootn.toNat * 4096
  (h.heapn = 0 → h.heapva = 0) ∧ (h.hrootn = 0 → h.hroot = 0) ∧ h.heapn.toNat ≤ 65536 ∧
    (∀ a, inHeap a → ¬inRoot a ∧ ¬(h.hapva.toNat ≤ a ∧ a < h.hapva.toNat + 2 ^ 25) ∧ MappedRW s c.root a true) ∧ (∀ a, inRoot a → MappedRW s c.root a false) ∧
    ∀ i, i < 8192 → 2 ^ 57 ≤ h.hapva.toNat + 4096 * i ∨ ∃ l, walk (tables s) c.root (h.hapva.toNat + 4096 * i) = .bad 0 l

/-- The objects of a plan (R219): from an offset on, one behind the other up to TOP, each with its length and whether the HLIVE bitmap marks it live. -/
def Planned (s : State) (c : Ctx) (base top : Nat) : Nat → List (Nat × Nat × Bool) → Prop
  | off, [] => top ≤ off
  | off, o :: r => off < top ∧ o.1 = off ∧ (∃ size, planRead s c.root (base + off) 4 = some size ∧ o.2.1 = (size + 8 + 15) / 16 * 16) ∧
      (c.heap.hlive = 0 ∧ o.2.2 = true ∨ ∃ b, c.heap.hlive ≠ 0 ∧ planRead s c.root (c.heap.hlive.toNat + off / 128) 1 = some b ∧ o.2.2 = bit b (off / 16 % 8)) ∧
      Planned s c base top (off + o.2.1) r

/-- The state in which a function's page holds the command it runs (R59), which has its number from the arbiter (R145). -/
def mbBegun (s : State) (fn op ctx : Nat) : State := modPage { s with arb := s.arb + 1 } fn fun p => { p with mbcmd := BitVec.ofNat 64 (op + ctx % 65536 * 65536) }

/-- A mailbox command ends (R59 to R61): the command word, BUSY clear with the status, the results it gives, and its effect. -/
def MbEnds (o : Result) (s : State) (fn op ctx : Nat) (eff : State → State) (code : Nat) (r0 r1 : Option Word) : Prop :=
  o = .next (modPage (eff (mbBegun s fn op ctx)) fn fun p => { p with mbstat := BitVec.ofNat 64 code, mbres0 := r0.getD p.mbres0, mbres1 := r1.getD p.mbres1 })

/-- No mailbox, INVCTL or debug command that names the context runs on any page, and none is held back for it (R60, R206, R398). -/
def NoCommand (s : State) (cn : Nat) : Prop :=
  ∀ e ∈ s.pages, ¬(e.2.mbstat.getLsbD 8 = true ∧ e.2.mbcmd.toNat / 2 ^ 16 % 2 ^ 16 = cn ∧ ∀ h ∈ e.2.held, h.cmd.reg ≠ .mbcmd) ∧ (∀ h ∈ e.2.held, h.ctx ≠ cn) ∧ e.2.dbgcmd.map (·.ctx) ≠ some cn ∧ ∀ x, e.2.invcmd ≠ .invalidate cn x ∧ ∀ y, e.2.invcmd ≠ .migrate cn y

/-- A page whose commands held back for a context begin (R60): they wait no more, and the BUSY bits they had set are clear until their turns come. -/
def freedPage (cn : Nat) (p : Page) : Page :=
  let clear := fun (r : CmdReg) (x : Word) => if p.held.any (fun h => decide (h.ctx = cn) && decide (h.cmd.reg = r)) then x &&& 0xFF else x
  { p with mbstat := clear .mbcmd p.mbstat, invstat := clear .invctl p.invstat, dbgstat := clear .dbgctl p.dbgstat, held := p.held.filter fun h => decide (h.ctx ≠ cn) }

/-- A command on a context on which another is not complete is held back with BUSY set (R60) (log entry 34). -/
def HeldBack (o : Result) (s : State) (fn cn : Nat) (c : Command) (f : Page → Page) : Prop :=
  o = .next (modPage s fn fun p => { f p with held := p.held ++ [{ ctx := cn, cmd := c }] })

/-- A function's page exists and runs no command. -/
def MbFree (s : State) (fn : Nat) (p : Page) : Prop := tget s.pages fn = some p ∧ p.mbstat.getLsbD 8 = false

/-- An argument of a page. -/
def argOf (p : Page) (i : Nat) : Word := (lget p.mbarg i).getD 0

/-- A state in which a context is `c`. -/
def withCtx (s : State) (cn : Nat) (c : Ctx) : State := { s with ctxs := tput s.ctxs cn c }

/-- A value the sweep of region `g` finds in a managed slot (R220): a reference of the region's former generation becomes the forwarded one, null for a
dropped object; any other value stays. -/
def healed (h : Heap) (g : Nat) (x : Word) : Word :=
  let a := (x &&& 0x01FFFFFFFFFFFFFF).toNat
  let r := getRegion h g
  let base := h.heapva.toNat + g * 2 ^ 21
  if x.toNat / 2 ^ 62 = 1 ∧ x.getLsbD 57 = false ∧ a % 16 = 0 ∧ x.toNat / 2 ^ 58 % 16 = (r.gen + 15) % 16 ∧ h.enabled ∧ g < h.heapn.toNat ∧ base ≤ a ∧ a < base + 2 ^ 21 then
    match tget r.fwd (a - base) with
    | some f => if f.st = .dropped then 0 else makeRef f.newGen f.newAddr
    | none => x
  else x

/-- A team placed for the first time (R98, R108): its groups stand READY at ENTRY with the registers of the launch record, the sequencer at MENTRY, every
other register, predicate and byte of scratchpad zero, no bell armed, no tag, no operation. -/
def Starts (iv : Invoc) (inv : Nat) (p : Nat × Target × List (List Nat)) (t : Team) : Prop :=
  t.inv = inv ∧ t.tidx = p.1 ∧ t.saved = false ∧ t.target = p.2.1 ∧ t.prio = Nat.min 7 (iv.prio + iv.aged) ∧ t.preempt = false ∧ t.spad = [] ∧ t.spadPoison = [] ∧ t.ops = [] ∧
    t.groups.length = p.2.2.length ∧
    (∀ j g, lget t.groups j = some g → lget p.2.2 j = some g.parts ∧ g.th.pc = iv.code + BitVec.ofNat 64 iv.kernel.entry ∧ g.th.run = .ready ∧ g.th.wins = [] ∧
      g.th.pend = 0 ∧ g.th.err = 0 ∧ g.h = [] ∧ g.v = [] ∧ g.p = [] ∧ g.fcsr = 0 ∧ g.siga = 0 ∧ g.txs = 0 ∧ g.txn = none ∧ g.block = none ∧ g.pins = [] ∧
      (∀ x ∈ g.slots, x.st = .idle) ∧
      ∀ n, tgetD g.th.x n 0 = (if n = 1 then iv.argp else if n = 2 then iv.arg0 else if n = 3 ∧ iv.tile = true then iv.tbase + 64 + BitVec.ofNat 64 (16 * p.1) else 0)) ∧
    (iv.kernel.mentry = 0 → t.seq = none) ∧
    (iv.kernel.mentry ≠ 0 → ∃ q, t.seq = some q ∧ q.th.pc = iv.code + BitVec.ofNat 64 iv.kernel.mentry ∧ q.th.run = .running ∧ q.m = [] ∧ q.mstat = 0 ∧
      (∀ a ∈ q.accs, a.st = .closed) ∧ tgetD q.th.x 1 0 = iv.argp ∧ tgetD q.th.x 2 0 = iv.arg0)

/-- The Timetable may place the invocation's teams (R63, R390). -/
def MayPlace (s : State) (iv : Invoc) : Prop := ctxPlaces s iv.ctx = true ∧ suspending s iv.ctx = false ∧ s.hub.rebuilding = false

/-- An invocation no team of which waits to be placed. -/
def AllPlaced (s : State) (inv : Nat) (iv : Invoc) : Prop :=
  (∀ e ∈ s.teams, e.2.inv = inv → e.2.saved = false) ∧ iv.again = [] ∧ iv.teams ≤ iv.nextTeam

/-- An invocation that the Timetable serves before `iv` (R84): of a higher effective priority, or as high and consumed earlier. -/
def Precedes (e iv : Invoc) : Prop := effPrio iv < effPrio e ∨ effPrio e = effPrio iv ∧ e.order < iv.order

/-- A restored team (R383, R404): RUNNING is READY, a block is not at its pre-emption point, its next trace packet follows a SYNC; all else of its groups as it was saved. -/
def Restored (g g' : Group) : Prop :=
  { g' with parts := g.parts, block := g.block, th := { g'.th with run := g.th.run, lastTs := g.th.lastTs } } = g ∧ g'.th.lastTs = none ∧ g'.th.run = (if g.th.run = .running then .ready else g.th.run) ∧
    g'.block = g.block.map fun b => { b with atPoint := false, forced := false }

/-- The condition of a watch (R339) over `w` bits. -/
def meets (c w a b : Nat) : Bool :=
  let x := a % 2 ^ w
  let y := b % 2 ^ w
  match c with
  | 0 => decide (x = y)
  | 1 => decide (x ≠ y)
  | 2 => decide (toS w x < toS w y)
  | 3 => decide (toS w y ≤ toS w x)
  | 4 => decide (x < y)
  | 5 => decide (y ≤ x)
  | 6 => decide (x &&& y ≠ 0)
  | _ => decide (x &&& y = 0)

/-- One evaluation of the elements of a watch, each read once in order, a later one on no no-speculation page (R200): the state it leaves and the results. -/
def watchReads (q : Asker) (size cond : Nat) : Bool → List (Nat × Word × Nat) → State → Option (State × List (Nat × Bool))
  | _, [], s => some (s, [])
  | first, (i, va, y) :: r, s => (readOne q s va size i first).bind fun v => (watchReads q size cond false r v.1).map fun rest => (rest.1, (i, meets cond (8 * size) v.2 y) :: rest.2)

/-- Group `cx.i` of a resident team waits in WAIT-MEM on `w`. -/
def Watching (s : State) (cx : Cx) (w : Watch) : Prop :=
  (∃ t, getTeam s cx.k = some t ∧ t.saved = false) ∧ cxFor s cx.k cx.i = some cx ∧ cx.g.th.run = .waitMem w ∧ cx.g.txn = none

/-- A parked watch completes: its instruction is behind the group, which is READY, and the predicate holds its results. -/
def WatchDone (o : Result) (s1 : State) (cx : Cx) (w : Watch) (res : List (Nat × Bool)) : Prop :=
  ∃ t g', o = .next t ∧ ButGroup s1 t cx.k cx.i ∧ getGroup t cx.k cx.i = some g' ∧ g'.th.pc = cx.g.th.pc + 4 ∧ g'.th.run = .ready ∧ g'.ridx = 0 ∧ PredRest cx.g g' w.pd ∧
    (w.pd ≠ 0 → w.vec = false → ∀ v, bit (tgetD g'.p w.pd 0) v = if v < cxVlmax cx then res.all (·.2) else bit (tgetD cx.g.p w.pd 0) v) ∧
    (w.pd ≠ 0 → w.vec = true → ∀ v, bit (tgetD g'.p w.pd 0) v = if res.any (·.1 = v) then res.contains (v, true) else bit (tgetD cx.g.p w.pd 0) v)

/-- What an agent that waits for tokens is once its last token completes: its wait is over. -/
def TokenDone (th th' : Thread) (a : Nat) (tok : Nat) : Prop :=
  th'.pend = th.pend &&& ~~~(1#8 <<< tok) ∧ th'.err = th.err ∧ th'.x = th.x ∧
    (∀ m, Waits th (.waitToken m) → th'.pend &&& m = 0 → WaitOver th th' a) ∧
    ((∀ m, Waits th (.waitToken m) → th'.pend &&& m ≠ 0) → th'.pc = th.pc ∧ th'.run = th.run ∧ th'.aside = th.aside)

/-- The origin frees its kept copy of a message, and the links theirs (R231, R243). -/
def freed (s : State) (dst job seq : Nat) : State :=
  let other := fun (e : Nat × Nat × Nat) => decide (e ≠ (dst, job, seq))
  { s with unacked := s.unacked.filter (fun u => other (u.msg.dst, u.msg.job, u.msg.seq)), links := tmap s.links fun _ l => { l with buffer := l.buffer.filter other, crossed := l.crossed.filter other } }

/-- INJ repaired for a lost message, with the loss event in the error queue of its job's context (R244, R245). -/
def repaired (s : State) (m : Msg) (j : Job) : State :=
  errorRecord { s with jobs := tmod s.jobs m.job fun j => { j with inj := j.inj - 1, dirty := true } } j.ctx 0x09 0 0xFFFF (lossWord m) m.seq 0

/-- Messages go onto links, and nothing else changes (R229, R231, R232, R237): each link that carries flits may take messages to other devices, whole, at the
end of its retry buffer of 256 flits; a link that carries none takes none. -/
def Flowed (s t : State) : Prop :=
  { t with links := s.links } = s ∧ (∀ p, tget s.links p = none → tget t.links p = none) ∧ ∀ p l, tget s.links p = some l → ∃ l' ms, tget t.links p = some l' ∧
    { l' with buffer := l.buffer, crossed := l.crossed } = l ∧ (∀ m ∈ ms, m.dst ≠ thisDevice ∧ ∃ u ∈ s.unacked, u.msg = m) ∧
    l'.buffer = l.buffer ++ ms.flatMap (fun m => List.replicate (1 + (8 * m.len - 48 + 63) / 64) (m.dst, m.job, m.seq)) ∧ l'.crossed = l.crossed ++ ms.map (fun m => (m.dst, m.job, m.seq)) ∧
    (l.buffer.length ≤ 256 → l'.buffer.length ≤ 256) ∧ (l.st ≠ .active → l.st ≠ .degraded → ms = [])

/-- A state left by `s1` after the messages that wait flowed on. -/
def Flows (o : Result) (s1 : State) : Prop := ∃ t, o = .next t ∧ Flowed s1 t

/-- Link `p` becomes `l`, nothing else changes. -/
def withLink (s : State) (p : Nat) (l : Link) : State := { s with links := tmod s.links p fun _ => l }

/-- The core `n` after a self-test (R16): its mapped-out groups, disabled where its cluster or it failed or too many groups are mapped out. -/
def TestedCore (t : SelfTest) (n : Nat) (c : Core) : Prop :=
  let out := tgetD t.colmap n 0
  let groups := if n < 256 then 32 else 4
  c.mapped = out ∧ c.withdrawn = false ∧ c.faults = 0 ∧
    c.disabled = (t.badClusters.contains (n / 8) || t.badCores.contains n || decide ((List.range groups).countP (fun i => out.getLsbD i) > if n < 256 then 4 else 1))

/-- A device on which nothing is set up or runs: no context, invocation, team, job, message or signal, every link in training. -/
def Idle (u : State) : Prop :=
  u.poison = [] ∧ u.tlb = [] ∧ u.ctxs = [] ∧ u.invs = [] ∧ u.teams = [] ∧ u.jobs = [] ∧ u.unacked = [] ∧ u.rxbuf = [] ∧ u.waves = [] ∧ u.signals = [] ∧
    u.clk = 0 ∧ u.arb = 0 ∧ ∀ p, p < 16 → (tget u.links p).map (fun l => (l.st, l.lanes, l.buffer, l.crossed)) = some (.training, 0, [], [])

/-- The limits of R17 on a configuration, beside the other partitions (log entry 61). -/
def CfgFits (s : State) (part : Nat) (cfg : PartCfg) : Prop :=
  let triple := fun (x y : Caps) => (y.m % 8 = 0 ∧ 8 ≤ y.m ∧ y.m ≤ x.m) ∧ (y.n % 8 = 0 ∧ 8 ≤ y.n ∧ y.n ≤ x.n) ∧ (y.k % 8 = 0 ∧ 8 ≤ y.k ∧ y.k ≤ x.k)
  part < 8 ∧ s.hub.selfTest.memoryOk = true ∧ cfg.clusters ≠ [] ∧ cfg.clusters.Nodup ∧ cfg.fns.Nodup ∧ (∀ c ∈ cfg.clusters, c < 48) ∧ (∀ f ∈ cfg.fns, f ≤ 32) ∧
    1 ≤ cfg.dramUnits ∧ (cfg.dramBase + cfg.dramUnits) * 2 ^ 30 ≤ 384 * 10 ^ 9 ∧ triple ⟨128, 256, 64⟩ cfg.capM ∧ triple ⟨32, 32, 16⟩ cfg.capE ∧
    ∀ e ∈ s.parts, e.1 ≠ part → (∀ c ∈ cfg.clusters, c ∉ e.2.cfg.clusters) ∧ (∀ f ∈ cfg.fns, f ∉ e.2.cfg.fns) ∧
      (e.2.cfg.dramUnits = 0 ∨ cfg.dramBase + cfg.dramUnits ≤ e.2.cfg.dramBase ∨ e.2.cfg.dramBase + e.2.cfg.dramUnits ≤ cfg.dramBase)

/-- No team is resident in a cluster. -/
def EmptyCluster (s : State) (c : Nat) : Prop := ∀ e ∈ s.teams, e.2.saved = true ∨ e.2.target.cluster ≠ c

/-- A state in which a cluster is `x`. -/
def withCluster (s : State) (c : Nat) (x : Cluster) : State := { s with clusters := tmod s.clusters c fun _ => x }

/-- Outside memory, cached leaves, transactions, contexts and the arbiter's number, which the records of an error change, the device is as in `s`. -/
def RecordsOnly (s t : State) : Prop := { t with mem := s.mem, poison := s.poison, tlb := s.tlb, teams := s.teams, ctxs := s.ctxs, arb := s.arb } = s

/-- A team struck by a device fault is replayed (R388): it and the teams replayed with it are gone, and wait to start again; but for one who may not be
replayed: its invocation ends with LOST (R387). -/
def Struck (s t : State) (k : Nat) : Prop :=
  ∀ tm iv, getTeam s k = some tm → getInv s tm.inv = some iv →
    (mayReplay s k = true → (∀ i ∈ replaySet iv tm.tidx, getTeam t (teamKey tm.inv i) = none) ∧
      ∃ iv', getInv t tm.inv = some iv' ∧ iv'.st = (if s.hub.rebuilding then iv.st else .placing) ∧ { iv' with st := iv.st, again := iv.again, replays := iv.replays } = iv ∧
        ∀ i ∈ replaySet iv tm.tidx, tgetD iv'.replays i 0 = tgetD iv.replays i 0 + 1 ∧ (i < iv.nextTeam → i ∈ iv'.again)) ∧
    (mayReplay s k = false → (∀ e ∈ t.teams, e.2.inv ≠ tm.inv) ∧
      (iv.st = .running ∨ iv.st = .placing → getInv t tm.inv = some { iv with st := if s.hub.rebuilding then iv.st else .draining, mark := some (iv.mark.getD (7, tm.tidx, 0, 0)), nextTeam := iv.teams, again := [] }))

/-- A debug command of function `fn` runs on context `c`, RUNNING or SUSPENDED, that DBGSEL names and the function owns; the page is not BUSY, and no command on the context runs. -/
def DbgOpen (s : State) (fn : Nat) (p : Page) (cn : Nat) (c : Ctx) : Prop :=
  tget s.pages fn = some p ∧ p.dbgstat.getLsbD 8 = false ∧ cn = p.dbgsel.toNat / 2 ^ 48 % 2 ^ 10 ∧ getCtx s cn = some c ∧ c.owner = fn ∧ NoCommand s cn ∧ (c.st = .running ∨ c.st = .suspended)

/-- A debug command ends with a code in DBGSTAT, its effect being `s1`. -/
def DbgEnds (o : Result) (s1 : State) (fn code : Nat) : Prop := o = .next (modPage s1 fn fun p => { p with dbgstat := BitVec.ofNat 64 code })

/-- The team a debug command names: (INV, TEAM) of DBGSEL's context. -/
def dbgKey (p : Page) (c : Ctx) (inv : Nat) : Nat := teamKey (invKey c.part inv) (p.dbgsel.toNat % 2 ^ 48)

/-- A team of a context. -/
def TeamIn (s : State) (k cn : Nat) (t : Team) (iv : Invoc) : Prop := getTeam s k = some t ∧ getInv s t.inv = some iv ∧ iv.ctx = cn

/-- A halt is asked of the thread of an agent of a resident team; that of a saved team is halted at once (R400, log entry 65). -/
def HaltAsked (saved covered : Bool) (th th' : Thread) : Prop :=
  if covered = false ∨ th.run = .retired then th'.haltReq = th.haltReq ∧ th'.halted = th.halted ∧ th'.byCmd = th.byCmd
  else th'.byCmd = true ∧ if saved ∨ th.halted then th'.halted = true ∧ th'.haltReq = th.haltReq else th'.haltReq = true ∧ th'.halted = false

/-- What RESUME makes of a stream (R120, R399, R400): one that a command halted goes on, a group RUNNING as READY, from a BRK behind it; any other stands. -/
def Resumed (th th' : Thread) (a : Nat) : Prop :=
  let goes := th.halted = true ∧ th.byCmd = true ∧ th.run ≠ .retired
  let run := if a < 16 ∧ th.run = .running then .ready else th.run
  (¬goes → th' = th) ∧ (goes → th'.halted = false ∧ th'.byCmd = false ∧ th'.run = run) ∧
    (goes → isBrk th.word = false → th' = { th with halted := false, byCmd := false, run := run }) ∧ (goes → isBrk th.word = true → a < 16 → th.pc = th.epc → th'.pc = th.pc + 4)

/-- A halt covers agent `a`: all agents, or the groups of one role, the first PROD of which produce (R68, R399). -/
def Covered (iv : Invoc) (role : Option Bool) (a : Nat) : Prop := ∀ consumer, role = some consumer → a < 16 ∧ (iv.kernel.prod ≤ a ↔ consumer = true)

/-- Where a halt has stopped what it covers of a team (R397, R399): each group at a convoy boundary, waiting or stopped already, at no MSEND that waits for its interface, and no engine
operation of theirs under way. -/
def HaltStands (s : State) (iv : Invoc) (role : Option Bool) (t : Team) : Prop :=
  (∀ i g, lget t.groups i = some g → Covered iv role i → g.th.halted = true ∨ (g.th.run ≠ .ready ∧ g.th.run ≠ .running) ∨ (insideConvoy s iv.ctx g.th = false ∧ g.th.stalled = false)) ∧
    ∀ o ∈ t.ops, ¬Covered iv role o.agent

/-- A clock of agent `a` that waits is charged to a cause, with PROD and the lag that the team's state gives (R401, R406); which instruction writes an operand, and how far it is, the event
says, and so it does where no bell, token or strip is what the stream waits for (log entry 67). -/
def ChargedTo (s : State) (cn : Nat) (t : Team) (a : Nat) (th : Thread) (cause : StallCause) (prod lag : Nat) (pr : Word) (lg : Nat) : Prop :=
  let owes := fun b => ∃ i g, lget t.groups i = some g ∧ g.th.halted = true ∧ ∀ x, lget t.bells b = some x → i ∉ x.by'
  let open' := th.run = .ready ∨ th.run = .running
  let strip := (∃ w, peekWord s cn th.pc.toNat = some w ∧ isVsetvl w = true) ∧ a < 16 ∧ ∃ g x, lget t.groups a = some g ∧ x ∈ g.slots ∧ x.wanted = true
  let pipe := open' ∧ ¬strip ∨ (∃ w, th.run = .waitMem w) ∨ ∃ j n, th.run = .waitQuiet j n
  match cause with
  | .bell => ∃ b x, th.run = .waitBell b ∧ ¬owes b ∧ lget t.bells b = some x ∧ pr = x.last ∧ lg = 0
  | .haltDebug => ∃ b, th.run = .waitBell b ∧ owes b ∧ pr = 0 ∧ lg = 0
  | .token => ∃ m o, th.run = .waitToken m ∧ o ∈ t.ops ∧ o.agent = a ∧ o.tok < 8 ∧ m.getLsbD o.tok = true ∧ pr = o.pc ∧ lg = 0 ∧
      ∀ o' ∈ t.ops, o'.agent = a → m.getLsbD o'.tok = true → o'.tok < 8 → o.tok < o'.tok ∨ o' = o
  | .stream => open' ∧ strip ∧ ∃ g x, lget t.groups a = some g ∧ x ∈ g.slots ∧ x.wanted = true ∧ (∀ y ∈ g.slots, y.wanted = true → y = x) ∧ pr = x.pc ∧ lg = x.need - x.ahead.length
  | .operand => pipe ∧ prod % 4 = 0 ∧ prod < 2 ^ 57 ∧ lag ≤ 8192 ∧ pr = BitVec.ofNat 64 prod ∧ lg = lag
  | .issueUnit => pipe ∧ pr = 0 ∧ lg = 0
  | .throttle => th.run = .running ∧ a = 16 ∧ s.hub.throttled = true ∧ pr = 0 ∧ lg = 0

/-- An entry of the stall table with one more charged clock, of lag `lag` (R406). -/
def charged (lag : Nat) (x : Stall) : Stall :=
  let b := if lag < 2 then lag else if lag < 4 then 2 else if lag < 16 then 3 else if lag < 64 then 4 else if lag < 256 then 5 else if lag < 1024 then 6 else 7
  { x with clocks := (x.clocks + 1) % 2 ^ 64, hist := lset x.hist b (Nat.min (2 ^ 32 - 1) ((lget x.hist b).getD 0 + 1)) }

/-! ### Numbers -/

/-- 2^e. -/
def pow2 (e : Int) : Rat := if 0 ≤ e then ((2 ^ e.toNat : Nat) : Rat) else 1 / ((2 ^ (-e).toNat : Nat) : Rat)

/-- (-1)^neg · m · 2^e. -/
def rat (neg : Bool) (m : Nat) (e : Int) : Rat := (if neg then -1 else 1) * (m : Rat) * pow2 e

/-- A magnitude. -/
def mag (x : Rat) : Rat := if x < 0 then -x else x

/-- Mantissa bits, the exponent of the smallest normal, the largest finite value and the canonical NaN of a format (R34, R35). -/
def mant : Nat → Nat | 0 => 23 | 1 => 10 | 2 => 7 | 3 => 3 | 4 => 2 | 5 => 2 | 6 => 3 | _ => 1
def emin : Nat → Int | 0 => -126 | 1 => -14 | 2 => -126 | 3 => -6 | 4 => -14 | 5 => -2 | _ => 0
def top : Nat → Rat | 0 => (2 - pow2 (-23)) * pow2 127 | 1 => 65504 | 2 => (2 - pow2 (-7)) * pow2 127 | 3 => 448 | 4 => 57344 | 5 => 28 | 6 => 15 / 2 | _ => 6
def canon : Nat → Nat | 0 => 0x7FC00000 | 1 => 0x7E00 | 2 => 0x7FC0 | 3 => 0x7F | 4 => 0x7E | _ => 0

/-- The zero of a sign, the codes of a finite magnitude and of an infinity. -/
def zeroCode (f : Nat) (neg : Bool) : Nat := if neg then 2 ^ (fmtWidth f - 1) else 0
def IsNum (f : Nat) (neg : Bool) (y : Rat) (c : Nat) : Prop := c < 2 ^ fmtWidth f ∧ ∃ m e, decodeF f c = .num neg m e ∧ rat false m e = y
def IsInf (f : Nat) (neg : Bool) (c : Nat) : Prop := c < 2 ^ fmtWidth f ∧ decodeF f c = .inf neg

/-- The mode rounds a magnitude of a sign towards zero. -/
def towardZero (mode : Nat) (neg : Bool) : Prop := mode = 1 ∨ mode = 2 ∧ neg = false ∨ mode = 3 ∧ neg = true

/-- `k · 2^q` is a magnitude rounded to a whole multiple of 2^q (R36): a positive number known by what lies below it, `le`, and above it, `ge`. -/
def Rounded (mode : Nat) (neg : Bool) (le ge : Rat → Prop) (k : Nat) (q : Int) : Prop :=
  let u := pow2 q
  let y := (k : Rat) * u
  (mode = 0 → (k = 0 ∨ le (y - u / 2)) ∧ ge (y + u / 2) ∧ ((k ≠ 0 ∧ ge (y - u / 2)) ∨ le (y + u / 2) → k % 2 = 0)) ∧
    (towardZero mode neg → le y ∧ ¬le (y + u)) ∧ (mode ≠ 0 → ¬towardZero mode neg → ge y ∧ ¬ge (y - u))

/-- Narrow of a number other than zero (R40): the code and the flags, OF and NX on an overflow, NX where the result is inexact, and UF with it where it is tiny after
rounding. -/
def Narrows (f mode : Nat) (sat neg : Bool) (le ge : Rat → Prop) (r : Nat × Nat) : Prop :=
  ∃ (l : Int) (k : Nat), le (pow2 l) ∧ ¬le (pow2 (l + 1)) ∧
    let q := (if l < emin f then emin f else l) - Int.ofNat (mant f)
    let y := (k : Rat) * pow2 q
    let tiny := ∃ k', Rounded mode neg le ge k' (l - Int.ofNat (mant f)) ∧ (k' : Rat) * pow2 (l - Int.ofNat (mant f)) < pow2 (emin f)
    Rounded mode neg le ge k q ∧
      (top f < y → r.2 = 0x28 ∧ (sat = true ∨ 5 ≤ f → IsNum f neg (top f) r.1) ∧ (sat = false → f = 3 → r.1 = canon 3) ∧
        (sat = false → f ≤ 2 ∨ f = 4 → (towardZero mode neg → IsNum f neg (top f) r.1) ∧ (¬towardZero mode neg → IsInf f neg r.1))) ∧
      (¬top f < y → IsNum f neg y r.1 ∧ (le y ∧ ge y → r.2 = 0) ∧ (¬(le y ∧ ge y) → (tiny → r.2 = 0x18) ∧ (¬tiny → r.2 = 0x08)))

/-- Narrow of a rational number other than zero. -/
def NarrowsRat (f mode : Nat) (sat : Bool) (x : Rat) (r : Nat × Nat) : Prop := Narrows f mode sat (decide (x < 0)) (fun q => q ≤ mag x) (fun q => mag x ≤ q) r

/-- The result of an operation whose exact value is a number other than zero, rounded once, a subnormal one flushed under FTZ (R37, R38). -/
def Finishes (f rm : Nat) (ftz neg : Bool) (le ge : Rat → Prop) (r : Nat × Nat) : Prop :=
  ∃ c fl, Narrows f rm false neg le ge (c, fl) ∧
    let sub := ftz = true ∧ ∃ m e, decodeF f c = .num neg m e ∧ 0 < m ∧ rat false m e < pow2 (emin f)
    (sub → r = (zeroCode f neg, fl ||| 0x18)) ∧ (¬sub → r = (c, fl))

/-- The same of a rational number. -/
def Rounds (f rm : Nat) (ftz : Bool) (x : Rat) (r : Nat × Nat) : Prop := Finishes f rm ftz (decide (x < 0)) (fun q => q ≤ mag x) (fun q => mag x ≤ q) r

/-- An operand of an arithmetic instruction (R38). -/
def readF (f : Nat) (fcsr : Word) (c : Nat) : FV :=
  match decodeF f (c % 2 ^ fmtWidth f) with
  | .num s m e => if fcsr.getLsbD 8 = true ∧ rat false m e < pow2 (emin f) then .num s 0 e else .num s m e
  | v => v

/-- The canonical NaN, with NV where an operand signals or the operation is invalid (R35). -/
def NaNs (f : Nat) (nv : Bool) (r : Nat × Nat) : Prop := r = (canon f, if nv then 0x80 else 0)

/-- A result that is an infinity, with flags. -/
def Infs (f : Nat) (neg : Bool) (fl : Nat) (r : Nat × Nat) : Prop := IsInf f neg r.1 ∧ r.2 = fl

/-- The result of an exact finite sum or product `x`: rounded, or the zero of a sign where it is 0. -/
def Results (f rm : Nat) (ftz : Bool) (x : Rat) (zero : Bool) (r : Nat × Nat) : Prop := (x ≠ 0 → Rounds f rm ftz x r) ∧ (x = 0 → r = (zeroCode f zero, 0))

/-- Sum, product, quotient and fused sum of IEEE 754 (R37): by the kinds of the operands. -/
def SumIs (f rm : Nat) (ftz : Bool) (x y : FV) (r : Nat × Nat) : Prop :=
  match x, y with
  | .nan s, .nan t => NaNs f (s || t) r
  | .nan s, _ => NaNs f s r
  | _, .nan s => NaNs f s r
  | .inf a, .inf b => if a = b then Infs f a 0 r else NaNs f true r
  | .inf a, .num .. => Infs f a 0 r
  | .num .., .inf a => Infs f a 0 r
  | .num a m e, .num b n d => Results f rm ftz (rat a m e + rat b n d) (if m = 0 ∧ n = 0 ∧ a = b then a else decide (rm = 2)) r
def ProductIs (f rm : Nat) (ftz : Bool) (x y : FV) (r : Nat × Nat) : Prop :=
  match x, y with
  | .nan s, .nan t => NaNs f (s || t) r
  | .nan s, _ => NaNs f s r
  | _, .nan s => NaNs f s r
  | .inf a, .inf b => Infs f (a != b) 0 r
  | .inf a, .num b n _ => if n = 0 then NaNs f true r else Infs f (a != b) 0 r
  | .num a m _, .inf b => if m = 0 then NaNs f true r else Infs f (a != b) 0 r
  | .num a m e, .num b n d => Results f rm ftz (rat a m e * rat b n d) (a != b) r
def QuotientIs (f rm : Nat) (ftz : Bool) (x y : FV) (r : Nat × Nat) : Prop :=
  match x, y with
  | .nan s, .nan t => NaNs f (s || t) r
  | .nan s, _ => NaNs f s r
  | _, .nan s => NaNs f s r
  | .inf _, .inf _ => NaNs f true r
  | .inf a, .num b _ _ => Infs f (a != b) 0 r
  | .num a _ _, .inf b => r = (zeroCode f (a != b), 0)
  | .num a m e, .num b n d => if n = 0 then (if m = 0 then NaNs f true r else Infs f (a != b) 0x40 r) else Results f rm ftz (rat a m e / rat b n d) (a != b) r
def FusedIs (f rm : Nat) (ftz : Bool) (x y z : FV) (r : Nat × Nat) : Prop :=
  let signals := x = .nan true ∨ y = .nan true ∨ z = .nan true
  let isNan := fun (v : FV) => ∃ s, v = .nan s
  let isInf := fun (v : FV) => ∃ s, v = .inf s
  let isZero := fun (v : FV) => ∃ s e, v = .num s 0 e
  let invalid := isInf x ∧ isZero y ∨ isZero x ∧ isInf y
  let neg := signOf x != signOf y
  let product := ¬isNan x ∧ ¬isNan y ∧ ¬isNan z ∧ ¬invalid
  (isNan x ∨ isNan y ∨ isNan z ∨ invalid → (signals ∨ invalid → NaNs f true r) ∧ (¬signals → ¬invalid → NaNs f false r)) ∧
    (product → isInf x ∨ isInf y → (z = .inf (!neg) → NaNs f true r) ∧ (z ≠ .inf (!neg) → Infs f neg 0 r)) ∧
    ∀ a m e b n d, x = .num a m e → y = .num b n d → (∀ s, z = .inf s → Infs f s 0 r) ∧
      ∀ c k g, z = .num c k g → Results f rm ftz (rat a m e * rat b n d + rat c k g) (if m * n = 0 ∧ k = 0 ∧ neg = c then c else decide (rm = 2)) r

/-- Square root and its reciprocal (R37, R311), the exact value known by its square. -/
def RootIs (f rm : Nat) (ftz : Bool) (x : FV) (r : Nat × Nat) : Prop :=
  match x with
  | .nan s => NaNs f s r
  | .inf neg => if neg then NaNs f true r else Infs f false 0 r
  | .num neg m e => if m = 0 then r = (zeroCode f neg, 0) else if neg then NaNs f true r
      else Finishes f rm ftz false (fun q => q * q ≤ rat false m e) (fun q => rat false m e ≤ q * q) r
def InvRootIs (f rm : Nat) (ftz : Bool) (x : FV) (r : Nat × Nat) : Prop :=
  match x with
  | .nan s => NaNs f s r
  | .inf neg => if neg then NaNs f true r else r = (0, 0)
  | .num neg m e => if m = 0 then Infs f neg 0x40 r else if neg then NaNs f true r
      else Finishes f rm ftz false (fun q => q * q * rat false m e ≤ 1) (fun q => 1 ≤ q * q * rat false m e) r

/-- A number the format holds, exactly. -/
def Exact (f : Nat) (x : Rat) (r : Nat × Nat) : Prop := IsNum f (decide (x < 0)) (mag x) r.1 ∧ r.2 = 0

/-- 2^x, log2 x, sin (π x) and cos (π x) where the result is special or an exact number (R311). -/
def Exp2Is (f rm : Nat) (ftz : Bool) (x : FV) (r : Nat × Nat) : Prop :=
  match x with
  | .nan s => NaNs f s r
  | .inf neg => if neg then r = (0, 0) else Infs f false 0 r
  | .num neg m e => ∀ i : Int, rat neg m e = i → -1024 < i → i < 1024 → Rounds f rm ftz (pow2 i) r
def Log2Is (f : Nat) (x : FV) (r : Nat × Nat) : Prop :=
  match x with
  | .nan s => NaNs f s r
  | .inf neg => if neg then NaNs f true r else Infs f false 0 r
  | .num neg m e => if m = 0 then Infs f true 0x40 r else if neg then NaNs f true r else ∀ i : Int, rat false m e = pow2 i → Exact f i r
def TrigIs (cosine : Bool) (f : Nat) (x : FV) (r : Nat × Nat) : Prop :=
  match x with
  | .nan s => NaNs f s r
  | .inf _ => NaNs f true r
  | .num neg m e => ∀ h : Int, 2 * rat neg m e = h → let i := if cosine then h + 1 else h
      (i % 2 = 0 → r = (zeroCode f (neg && !cosine), 0)) ∧ (i % 4 = 1 → Exact f 1 r) ∧ (i % 4 = 3 → Exact f (-1) r)

/-- The order of minimum and maximum on operands that are no NaNs (R39): -0 lies below +0. -/
def below (x y : FV) : Prop :=
  match x, y with
  | .inf a, .inf b => a = true ∧ b = false
  | .inf a, .num .. => a = true
  | .num .., .inf b => b = false
  | .num a m e, .num b n d => rat a m e < rat b n d ∨ m = 0 ∧ n = 0 ∧ a = true ∧ b = false
  | _, _ => False

/-- A number to a whole one, in a mode (R36): its magnitude and whether it is exact. -/
def ToWhole (mode : Nat) (x : Rat) (i : Int) (exact : Prop) : Prop :=
  ∃ k : Nat, Rounded mode (decide (x < 0)) (fun q => q ≤ mag x) (fun q => mag x ≤ q) k 0 ∧ i = (if x < 0 then -(k : Int) else (k : Int)) ∧ (exact ↔ x = i)

/-- The sum of the products of a promotion block (R52 to R54): a NaN, an infinity or a number, and whether R53 saturated. -/
def BlockSum (exact : Bool) (ps : List FV) (v : FV) (sat : Bool) : Prop :=
  let odd := (∃ s, FV.nan s ∈ ps) ∨ FV.inf true ∈ ps ∧ FV.inf false ∈ ps
  let value := fun (p : FV) => match p with | .num a m e => rat a m e | _ => 0
  let sum := fun (l : List Rat) => l.foldl (· + ·) 0
  let xs := ps.map value
  (odd → v = .nan false ∧ sat = false) ∧ (∀ s, ¬odd → FV.inf s ∈ ps → v = .inf s ∧ sat = false) ∧
    ((∀ p ∈ ps, ∃ a m e, p = .num a m e) → ∃ a m e, v = .num a m e ∧ (m = 0 → a = false) ∧
      (exact = true → rat a m e = sum xs ∧ sat = false) ∧
      (exact = false → (∀ x ∈ xs, x = 0) → rat a m e = 0 ∧ sat = false) ∧
      (exact = false → ∀ E : Int, (∃ x ∈ xs, pow2 E ≤ mag x) → (∀ x ∈ xs, mag x < pow2 (E + 1)) →
        let u := pow2 (E - 40)
        let n := (xs.map fun x => if x < 0 then -(mag x / u).floor else (mag x / u).floor).foldl (· + ·) 0
        let lim : Int := 2 ^ 47 - 1
        (sat = true ↔ lim < n ∨ n < -lim) ∧ rat a m e = (if lim < n then lim else if n < -lim then -lim else n : Int) * u))

/-- A block sum promoted into an accumulator element (R55). -/
def Promotes (c : BitVec 32) (v : FV) (r : BitVec 32) : Prop :=
  match decodeF 0 c.toNat, v with
  | .nan _, _ => r = 0x7FC00000
  | _, .nan _ => r = 0x7FC00000
  | .inf a, .inf b => if a = b then r = c else r = 0x7FC00000
  | .inf _, .num .. => r = c
  | .num .., .inf b => IsInf 0 b r.toNat
  | .num a m e, .num b n d => (rat a m e + rat b n d ≠ 0 → ∃ fl, NarrowsRat 0 0 false (rat a m e + rat b n d) (r.toNat, fl)) ∧
      (rat a m e + rat b n d = 0 → r = if m = 0 ∧ n = 0 ∧ a = true ∧ b = true then 0x80000000 else 0)

/-! ### The machine as a whole -/

/-- A table whose keys rise. -/
def Rising {α : Type} (t : Tbl α) : Prop := (t.map (·.1)).Pairwise (· < ·)

/-- The canonical form of a state: memory holds rising addresses and no cell that reads as an unlisted one, and the tables of teams and of links rise. -/
def Canonical (s : State) : Prop := s.mem.wf = true ∧ Rising s.teams ∧ Rising s.links

/-- Stream `r` has the next turn of the schedule, `s1` being the state it issues in. -/
def HasTurn (s : State) (r : StreamRef) (s1 : State) : Prop :=
  let s0 := tickClock s
  (s0.agenda = [] ∧ nextStream s0 = some r ∧ s1 = s0) ∨ ∃ rest, s0.agenda = .issue r :: rest ∧ s1 = { s0 with agenda := rest } ∧ mayIssue s1 r = true

/-- The team of a stream. -/
def teamOf : StreamRef → Nat
  | .ctl k _ => k
  | .blk k _ _ => k
  | .seq k => k

/-- Where a stream stands: who its fetch asks for, of global memory alone, and its program counter. -/
def StandsAt (s : State) (r : StreamRef) (q : Asker) (pc : Word) : Prop :=
  match r with
  | .ctl k i => ∃ cx, openCtl s k i = some cx ∧ q = { asker cx with glob := true } ∧ cx.g.th.pc = pc
  | .blk k i v => ∃ cx bs, openBlk s k i v = some (cx, bs, pc) ∧ q = { asker cx with glob := true }
  | .seq k => ∃ sx, openSeq s k = some sx ∧ q = { seqAsker sx with glob := true } ∧ sx.q.th.pc = pc
end Sys2Proof.Claim

open Sys2Proof Sys2Proof.Machine Sys2Proof.Claim

/-- R275: the integer instructions of major 0x04, in the control thread and in the matrix stream, with their frame, and the words of that major that stand for none. The
counts are said bit by bit: POPC counts the set bits, CLZ is the number of bits above the highest set bit, CTZ of those below the lowest, BREV turns the word around. R276: the immediate instructions, in the control thread and in the matrix stream. R277, R33: multiplication and division, with lookahead: the destination holds the result, which it reads as at once when the
instruction has no lookahead. Division by zero and the signed overflow give the values of R33. -/
def Obligations.ScalarInteger : Prop := (
  (∀ d a b : BitVec 6,
  let r := [d, a, b]
  Scalar (.add d a b) r d 0 (two a b fun x y => x + y) ∧
  Scalar (.sub d a b) r d 0 (two a b fun x y => x - y) ∧
  Scalar (.and d a b) r d 0 (two a b fun x y => x &&& y) ∧
  Scalar (.or d a b) r d 0 (two a b fun x y => x ||| y) ∧
  Scalar (.xor d a b) r d 0 (two a b fun x y => x ^^^ y) ∧
  Scalar (.andn d a b) r d 0 (two a b fun x y => x &&& ~~~y) ∧
  Scalar (.sll d a b) r d 0 (two a b fun x y => x <<< (y.toNat % 64)) ∧
  Scalar (.srl d a b) r d 0 (two a b fun x y => x >>> (y.toNat % 64)) ∧
  Scalar (.sra d a b) r d 0 (two a b fun x y => x.sshiftRight (y.toNat % 64)) ∧
  Scalar (.slt d a b) r d 0 (two a b fun x y => if x.toInt < y.toInt then 1 else 0) ∧
  Scalar (.sltu d a b) r d 0 (two a b fun x y => if x.toNat < y.toNat then 1 else 0) ∧
  Scalar (.min d a b) r d 0 (two a b fun x y => if x.toInt ≤ y.toInt then x else y) ∧
  Scalar (.max d a b) r d 0 (two a b fun x y => if x.toInt ≤ y.toInt then y else x) ∧
  Scalar (.minu d a b) r d 0 (two a b fun x y => if x.toNat ≤ y.toNat then x else y) ∧
  Scalar (.maxu d a b) r d 0 (two a b fun x y => if x.toNat ≤ y.toNat then y else x) ∧
  Scalar (.popc d a) [d, a] d 0 (one a fun x => BitVec.ofNat 64 ((List.range 64).countP fun i => x.getLsbD i)) ∧
  Scalar (.clz d a) [d, a] d 0 (one a fun x => BitVec.ofNat 64 (((List.range 64).takeWhile fun i => !x.getLsbD (63 - i)).length)) ∧
  Scalar (.ctz d a) [d, a] d 0 (one a fun x => BitVec.ofNat 64 (((List.range 64).takeWhile fun i => !x.getLsbD i).length)) ∧
  Scalar (.brev d a) [d, a] d 0 (one a fun x => BitVec.ofNat 64 ((List.range 64).map fun i => if x.getLsbD (63 - i) then 2 ^ i else 0).sum)) ∧
  Undefined 4 fun fn b => fn = 0x0F ∨ 0x14 ≤ fn ∨ 0x10 ≤ fn ∧ b ≠ 0) ∧ (
  ∀ (d a : BitVec 6) (n : BitVec 6) (i12 : BitVec 12) (i14 : BitVec 14) (i19 : BitVec 19),
  let r := [d, a]
  Scalar (.addi d a i14) r d 0 (one a fun x => x + i14.signExtend 64) ∧
  Scalar (.andi d a i12) r d 0 (one a fun x => x &&& i12.setWidth 64) ∧
  Scalar (.ori d a i12) r d 0 (one a fun x => x ||| i12.setWidth 64) ∧
  Scalar (.xori d a i12) r d 0 (one a fun x => x ^^^ i12.setWidth 64) ∧
  Scalar (.slti d a i12) r d 0 (one a fun x => if x.toInt < i12.toInt then 1 else 0) ∧
  Scalar (.slli d a n) r d 0 (one a fun x => x <<< n.toNat) ∧
  Scalar (.srli d a n) r d 0 (one a fun x => x >>> n.toNat) ∧
  Scalar (.srai d a n) r d 0 (one a fun x => x.sshiftRight n.toNat) ∧
  Scalar (.ldhi d i19) [d] d 0 (fun _ => (i19 ++ 0#12).signExtend 64) ∧
  Scalar (.addpc d i19) [d] d 0 (fun th => th.pc + (i19 ++ 0#12).signExtend 64)) ∧ (
  ∀ (d a b : BitVec 6) (l : BitVec 4),
  let r := [d, a, b]
  Scalar (.mul d a b l) r d l.toNat (two a b fun x y => x * y) ∧
  Scalar (.mulh d a b l) r d l.toNat (two a b fun x y => ((x.signExtend 128 * y.signExtend 128) >>> 64).setWidth 64) ∧
  Scalar (.mulhu d a b l) r d l.toNat (two a b fun x y => ((x.setWidth 128 * y.setWidth 128) >>> 64).setWidth 64) ∧
  Scalar (.div d a b l) r d l.toNat (two a b quotS) ∧
  Scalar (.divu d a b l) r d l.toNat (two a b fun x y => if y = 0 then BitVec.allOnes 64 else x.udiv y) ∧
  Scalar (.rem d a b l) r d l.toNat (two a b remaS) ∧
  Scalar (.remu d a b l) r d l.toNat (two a b fun x y => if y = 0 then x else x.umod y))

/-- R266: lookahead in the control thread, in the matrix stream and on vector registers: with no window open, the destination of an
instruction with lookahead l > 0 still reads as before behind it, also behind each of the l - 1 further instructions of its stream, and reads
as the result behind the l-th; a window covers what the instruction wrote of the 64-bit, vector and h registers (log entry 68). What any instruction reads there it reads through `readX`
and `elem`. -/
def Obligations.LookaheadHides : Prop := (∀ (d a b : BitVec 6) (l : BitVec 4) (m : Nat) (s : State), d ≠ 0 → l ≠ 0 →
  (∀ cx, CtlActs s cx → cx.g.th.wins = [] → ∃ t g', Runs (.mul d a b l :: List.replicate m .nop) s t ∧ getGroup t cx.k cx.i = some g' ∧
    readX g'.th d.toNat = if m < l.toNat then readX cx.g.th d.toNat else readX cx.g.th a.toNat * readX cx.g.th b.toNat) ∧
  (∀ cx (e : BitVec 6), CtlActs s cx → cx.g.th.wins = [] → e ≠ 0 → e ≠ d → ∃ t g', Runs (.mul d a b l :: (List.replicate m .nop ++ [.add e d 0])) s t ∧
    getGroup t cx.k cx.i = some g' ∧ readX g'.th e.toNat = if m < l.toNat then readX cx.g.th d.toNat else readX cx.g.th a.toNat * readX cx.g.th b.toNat) ∧
  (∀ sx, SeqActs s sx → d.toNat < 32 → a.toNat < 32 → b.toNat < 32 → sx.q.th.wins = [] → ∃ t q', Runs (.mul d a b l :: List.replicate m .nop) s t ∧ getSeq t sx.k = some q' ∧
    readX q'.th d.toNat = if m < l.toNat then readX sx.q.th d.toNat else readX sx.q.th a.toNat * readX sx.q.th b.toNat)) ∧
  (∀ (d a b : BitVec 6) (l : BitVec 4) (m : Nat) (s : State) (cx : Cx), l ≠ 0 → CtlFree s cx → cx.g.th.wins = [] → VecRegs cx.g [a, b] [d] → vtFmt cx.g ≤ 2 →
    ∃ u t g1 g', exec (.vfdiv d a b l) s = .next u ∧ Runs (List.replicate m .nop) u t ∧ getGroup u cx.k cx.i = some g1 ∧ getGroup t cx.k cx.i = some g' ∧ g'.v = g1.v ∧
      ∀ n j, vecImage { cx with g := g' } n j = if m < l.toNat then tgetD cx.g.v n 0 else tgetD g1.v n 0)

/-- R278, R279: the scalar loads outside a transaction, extended to 64 bits, with their frame: memory, and every register but the
destination, as the access left them. R278, R280: the scalar stores outside a transaction, with their frame. A misaligned address raises the
misalignment trap, and nothing is loaded or stored. -/
def Obligations.ScalarLoadsStores : Prop := (
  ∀ (d a : BitVec 6) (im : BitVec 7) (l : BitVec 4),
  Loads (.ldb d a im l) d a im l 1 (·.signExtend 64) ∧
  Loads (.ldbu d a im l) d a im l 1 (·.setWidth 64) ∧
  Loads (.ldh d a im l) d a im l 2 (·.signExtend 64) ∧
  Loads (.ldhu d a im l) d a im l 2 (·.setWidth 64) ∧
  Loads (.ldw d a im l) d a im l 4 (·.signExtend 64) ∧
  Loads (.ldwu d a im l) d a im l 4 (·.setWidth 64) ∧
  Loads (.ldd d a im l) d a im l 8 (·.setWidth 64)) ∧ (
  ∀ (d a : BitVec 6) (im : BitVec 11),
  Stores (.stb d a im) d a im 1 ∧ Stores (.sth d a im) d a im 2 ∧ Stores (.stw d a im) d a im 4 ∧ Stores (.std d a im) d a im 8) ∧ (
  ∀ (d a : BitVec 6) (i7 : BitVec 7) (i11 : BitVec 11) (l : BitVec 4) (s : State) (cx : Cx), CtlActs s cx → cx.g.txn = none → Handled s cx.k →
  let off := fun (i : Instr) (va : Word) (n : Nat) => va.toNat % n ≠ 0 → CtlTraps (exec i s) s cx 4 va
  let at' := fun (o : Word) (n : Nat) => readX cx.g.th a.toNat + o * BitVec.ofNat 64 n
  (∀ e ∈ [(Instr.ldh d a i7 l, 2), (.ldhu d a i7 l, 2), (.ldw d a i7 l, 4), (.ldwu d a i7 l, 4), (.ldd d a i7 l, 8)], off e.1 (at' (i7.signExtend 64) e.2) e.2) ∧
  ∀ e ∈ [(Instr.sth d a i11, 2), (.stw d a i11, 4), (.std d a i11, 8)], off e.1 (at' (i11.signExtend 64) e.2) e.2)

/-- R281: ATOM and CAS. A CAS that fails performs a read only and leaves memory alone. An operation code above 8 and a CAS on an odd pair or on s0
are illegal, a misaligned address traps. -/
def Obligations.ScalarAtomics : Prop := ∀ (d a : BitVec 6) (o l : BitVec 4),
  (∀ z : BitVec 1, ∀ n, n = atomBytes z →
    let f := fun (p : BitVec 4) (g : BitVec (8 * n) → BitVec (8 * n) → BitVec (8 * n)) =>
      Atomics (.atom d a z o p l) d a l n fun th old => some (g old (BitVec.ofNat _ (readX th d.toNat).toNat))
    f 0 (· + ·) ∧ f 1 (· &&& ·) ∧ f 2 (· ||| ·) ∧ f 3 (· ^^^ ·) ∧
    f 4 (fun x y => if x.toInt ≤ y.toInt then x else y) ∧ f 5 (fun x y => if y.toInt ≤ x.toInt then x else y) ∧
    f 6 (fun x y => if x.toNat ≤ y.toNat then x else y) ∧ f 7 (fun x y => if y.toNat ≤ x.toNat then x else y) ∧ f 8 (fun _ y => y)) ∧
  (∀ z : BitVec 1, ∀ n, n = atomBytes z → d.toNat ≠ 0 → d.toNat % 2 = 0 →
    Atomics (.cas d a z o l) d a l n fun th old =>
      if old = BitVec.ofNat _ (readX th d.toNat).toNat then some (BitVec.ofNat _ (readX th (d.toNat + 1)).toNat) else none) ∧
  ∀ (z : BitVec 1) (p : BitVec 4) (s : State) (cx : Cx), CtlActs s cx → cx.g.txn = none → Handled s cx.k →
    let va := readX cx.g.th a.toNat
    (9 ≤ p.toNat → CtlTraps (exec (.atom d a z o p l) s) s cx 1 ((encode (.atom d a z o p l)).setWidth 64)) ∧
    (d.toNat = 0 ∨ d.toNat % 2 = 1 → CtlTraps (exec (.cas d a z o l) s) s cx 1 ((encode (.cas d a z o l)).setWidth 64)) ∧
    (va.toNat % atomBytes z ≠ 0 → (p.toNat ≤ 8 → CtlTraps (exec (.atom d a z o p l) s) s cx 4 va) ∧
      (d.toNat ≠ 0 → d.toNat % 2 = 0 → CtlTraps (exec (.cas d a z o l) s) s cx 4 va))

/-- R282: PCMP and PCMPI under their six conditions; conditions 6 and 7 raise illegal-instruction; the 6-bit immediate runs from -32 to 31. R283: predicate logic in the control thread and in a block, PANY and PALL over the active elements, where an element is active when it lies below VLEN and VMASK admits it; in a
block these two copy the VP's own bit; and the words of major 0x0D that stand for none. -/
def Obligations.Predicates : Prop := (
  ∀ (p : BitVec 7) (a b i : BitVec 6) (c : BitVec 3),
  (c.toNat ≤ 5 → Compares (.pcmp p a b c) p (fun th => cond c (readX th a.toNat) (readX th b.toNat)) ∧ Compares (.pcmpi p a i c) p (fun th => cond c (readX th a.toNat) (i.signExtend 64))) ∧
  (6 ≤ c.toNat → ∀ x ∈ [Instr.pcmp p a b c, .pcmpi p a i c], ∀ s cx, cx.g.block = none → CtlActs s cx → cx.g.txn = none → Handled s cx.k → CtlTraps (exec x s) s cx 1 ((encode x).setWidth 64)) ∧
  -32 ≤ (i.signExtend 64).toInt ∧ (i.signExtend 64).toInt ≤ 31) ∧ (
  (∀ d a b : BitVec 7,
  let act := fun (cx : Cx) (e : Nat) => decide (cx.g.vmask.toNat % 128 = 0) || bit (readP cx.g (cx.g.vmask.toNat % 128)) e
  let quant := fun (f : List Nat → (Nat → Bool) → Bool) (cx : Cx) (_ : Nat) => f ((List.range (readVlen cx)).filter (act cx)) fun e => bit (readP cx.g a.toNat) e
  Logic (.pand d a b) d (fun r => r a && r b) ∧ Logic (.por d a b) d (fun r => r a || r b) ∧ Logic (.pxor d a b) d (fun r => r a != r b) ∧
  Logic (.pnot d a) d (fun r => !r a) ∧ Logic (.pmov d a) d (fun r => r a) ∧
  PredCtl (.pany d a) d (quant List.any) ∧ PredCtl (.pall d a) d (quant List.all) ∧ PredBlk (.pany d a) d (fun r => r a) ∧ PredBlk (.pall d a) d (fun r => r a)) ∧
  ∀ w : IWord, fld w 26 6 = 13#6 → 7 ≤ (fld w 0 5).toNat ∨ 3 ≤ (fld w 0 5).toNat ∧ fld w 5 7 ≠ 0 →
    decode w = none ∧ Illegal (.illegalInstruction w) w)

/-- R284 to R286: BRA, BP, BNP and LOOP in both streams: where the stream stands afterwards, and what LOOP leaves in its counter. LOOP on register 0
is illegal in both, as in the matrix stream BP, BNP and LOOP are on a number above 31. R284, R285, R287: the jumps and calls of the control thread to a word address, and the link; CALLR reads its target before it writes
the link. -/
def Obligations.ControlTransfers : Prop := (
  ∀ (o : BitVec 23) (p : BitVec 7) (q : BitVec 16) (c : BitVec 6),
  Branches (.bra o) (fun _ => True) false (fun g => ahead g.th.pc o) (fun x => ahead x.th.pc o) ∧
  Branches (.bp p q) (fun _ => p.toNat < 32) true (fun g => if bit (readP g p.toNat) 0 then ahead g.th.pc q else g.th.pc + 4)
    (fun x => if readX x.th p.toNat ≠ 0 then ahead x.th.pc q else x.th.pc + 4) ∧
  Branches (.bnp p q) (fun _ => p.toNat < 32) true (fun g => if bit (readP g p.toNat) 0 then g.th.pc + 4 else ahead g.th.pc q)
    (fun x => if readX x.th p.toNat ≠ 0 then x.th.pc + 4 else ahead x.th.pc q) ∧
  (c ≠ 0 →
    (∀ s cx, CtlActs s cx → let n := readX cx.g.th c.toNat
      CtlDone (exec (.loop c q) s) s cx.k cx.i (if n = 0 ∨ n = 1 then cx.g.th.pc + 4 else ahead cx.g.th.pc q) fun g' =>
        GroupRest cx.g g' ∧ XKept cx.g.th g'.th c.toNat ∧
          if n = 0 then rawX g'.th c.toNat = rawX cx.g.th c.toNat else XWritten cx.g.th g'.th c.toNat (n - 1) 0) ∧
    (c.toNat < 32 → ∀ s sx, SeqActs s sx → let n := readX sx.q.th c.toNat
      SeqDone (exec (.loop c q) s) s sx.k (if n = 0 ∨ n = 1 then sx.q.th.pc + 4 else ahead sx.q.th.pc q) fun x =>
        { x with th := sx.q.th } = sx.q ∧ ThreadRest sx.q.th x.th ∧ XKept sx.q.th x.th c.toNat ∧
          if n = 0 then rawX x.th c.toNat = rawX sx.q.th c.toNat else XWritten sx.q.th x.th c.toNat (n - 1) 0)) ∧
  (∀ s cx, CtlActs s cx → cx.g.txn = none → Handled s cx.k → CtlTraps (exec (.loop 0 q) s) s cx 1 ((encode (.loop 0 q)).setWidth 64)) ∧
  ∀ s sx, SeqActs s sx → Handled s sx.k → (32 ≤ p.toNat → ∀ i ∈ [Instr.bp p q, .bnp p q], SeqTraps (exec i s) s sx 1 ((encode i).setWidth 64)) ∧
    (c = 0 ∨ 32 ≤ c.toNat → SeqTraps (exec (.loop c q) s) s sx 1 ((encode (.loop c q)).setWidth 64))) ∧ (
  ∀ (o : BitVec 23) (d a : BitVec 6),
  (∀ s cx, CtlActs s cx → CtlDone (exec (.jmp o) s) s cx.k cx.i (ahead cx.g.th.pc o) fun g' => GroupRest cx.g g' ∧ XKept cx.g.th g'.th 0) ∧
  (∀ s cx, CtlActs s cx → CtlDone (exec (.call o) s) s cx.k cx.i (ahead cx.g.th.pc o) fun g' =>
    GroupRest cx.g g' ∧ XKept cx.g.th g'.th 63 ∧ XWritten cx.g.th g'.th 63 (cx.g.th.pc + 4) 0) ∧
  Jumps (.jr a) 0 (fun _ th => readX th a.toNat) ∧ Jumps (.callr d a) d.toNat (fun _ th => readX th a.toNat) ∧
  Jumps .ret 0 (fun _ th => readX th 63))

/-- R288, R289: scalar floating point and conversion: d takes the rounded result and FCSR the flags, which are sticky (R36). Every
conversion between formats R289 accepts completes. -/
def Obligations.ScalarFloat : Prop := ∀ (d a b : BitVec 6) (f src t : BitVec 4) (m : BitVec 2) (s : State) (cx : Cx), CtlActs s cx →
  let x := (readX cx.g.th a.toNat).toNat
  let y := (readX cx.g.th b.toNat).toNat
  let z := (readX cx.g.th d.toNat).toNat
  let done := fun (i : Instr) (r : Nat × Nat) =>
    CtlWrites (exec i s) s cx { cx.g with fcsr := cx.g.fcsr ||| BitVec.ofNat 64 r.2 } d.toNat (BitVec.ofNat 64 r.1) 0
  (f.toNat ≤ 2 → done (.fadd d a b f) (fadd f.toNat cx.g.fcsr x y) ∧ done (.fmul d a b f) (fmul f.toNat cx.g.fcsr x y) ∧
    done (.ffma d a b f) (ffma f.toNat cx.g.fcsr x y z)) ∧
  (cvtOk src.toNat t.toNat false = true → done (.fcvt d a src m t) (convert x src.toNat t.toNat m.toNat false false)) ∧
  (cvtOk src.toNat t.toNat true = true → done (.fcvtUns d a src m t) (convert x src.toNat t.toNat m.toNat false true))

/-- R34 to R39, R311: the values of the codes; sum, difference, product, fused sum, quotient, reciprocal, square root and its reciprocal on FP32, FP16 and BF16: the exact
value rounded once in FCSR.RM, subnormals flushed under FTZ, the special results and the flags; minimum and maximum. Of the functions 2^x, log2 x, sin (π x) and cos (π x) of
R311 no more is said than their special results and those that are an exact number. -/
def Obligations.FloatArithmetic : Prop := ∀ (f : Nat) (fcsr : Word) (a b c : Nat), f ≤ 2 → fcsr.toNat % 8 < 4 →
  let rm := fcsr.toNat % 8
  let ftz := fcsr.getLsbD 8
  let rd := readF f fcsr
  let minus := fun (v : FV) => match v with | .nan s => FV.nan s | .inf s => .inf !s | .num s m e => .num (!s) m e
  SumIs f rm ftz (rd a) (rd b) (fadd f fcsr a b) ∧ SumIs f rm ftz (rd a) (minus (rd b)) (fsub f fcsr a b) ∧ ProductIs f rm ftz (rd a) (rd b) (fmul f fcsr a b) ∧
  FusedIs f rm ftz (rd a) (rd b) (rd c) (ffma f fcsr a b c) ∧ QuotientIs f rm ftz (rd a) (rd b) (fdiv f fcsr a b) ∧ RootIs f rm ftz (rd a) (funary sqrtF f fcsr a) ∧
  QuotientIs f rm ftz (.num false 1 0) (rd a) (funary rcpF f fcsr a) ∧ InvRootIs f rm ftz (rd a) (funary rsqF f fcsr a) ∧ Exp2Is f rm ftz (rd a) (funary exp2F f fcsr a) ∧
  Log2Is f (rd a) (funary log2F f fcsr a) ∧ TrigIs false f (rd a) (funary (trigF false) f fcsr a) ∧ TrigIs true f (rd a) (funary (trigF true) f fcsr a) ∧
  (a < 2 ^ fmtWidth f → b < 2 ^ fmtWidth f →
    let x := decodeF f a
    let y := decodeF f b
    let nan := fun (v : FV) => ∃ s, v = .nan s
    ∀ larger, let r := fminmax larger f a b
      ((x = .nan true ∨ y = .nan true → r.2 = 0x80) ∧ (x ≠ .nan true → y ≠ .nan true → r.2 = 0)) ∧ (nan x → nan y → r.1 = canon f) ∧ (nan x → ¬nan y → r.1 = b) ∧ (¬nan x → nan y → r.1 = a) ∧
      (¬nan x → ¬nan y → (below x y → r.1 = if larger then b else a) ∧ (below y x → r.1 = if larger then a else b) ∧ (¬below x y → ¬below y x → r.1 = a ∧ a = b)))

/-- R34, R40 to R43, R46, R289, R313 to R315: the values of the codes, Narrow, the conversions between formats, widening, the value of an element of a scaled block, the header and
codes of a block, and the chain of the error-feedback narrowing (log entries 16, 79). -/
def Obligations.NarrowAndConvert : Prop := (
  ∀ (f mode : Nat) (sat : Bool), f ≤ 7 → mode < 4 →
  (∀ s m e, (m = 0 → narrow (.num s m e) f mode sat = (zeroCode f s, 0)) ∧
    (m ≠ 0 → NarrowsRat f mode sat (rat s m e) (narrow (.num s m e) f mode sat))) ∧
  (∀ s, narrow (.nan s) f mode sat = if f ≤ 4 then (canon f, if s then 0x80 else 0) else (0, 0x80)) ∧
  (∀ s, let r := narrow (.inf s) f mode sat
    let has := f ≤ 2 ∨ f = 4
    (has → sat = false → Infs f s 0 r) ∧ (f = 3 → sat = false → r = (canon 3, 0x20)) ∧ (sat = true ∨ 5 ≤ f → IsNum f s (top f) r.1 ∧ r.2 = 0x20)) ∧
  (∀ s x man, x < 2 ^ (fmtWidth f - 1 - mant f) → man < 2 ^ mant f →
    let v := decodeF f (zeroCode f s + x * 2 ^ mant f + man)
    let full := x = 2 ^ (fmtWidth f - 1 - mant f) - 1
    (full → f ≤ 2 ∨ f = 4 → v = if man = 0 then .inf s else .nan (decide (f ≤ 2 ∧ man < 2 ^ (mant f - 1)))) ∧ (full → f = 3 → man = 7 → v = .nan false) ∧
    (¬(full ∧ (f ≤ 2 ∨ f = 4 ∨ f = 3 ∧ man = 7)) → ∃ m e, v = .num s m e ∧
      rat false m e = if x = 0 then (man : Rat) * pow2 (emin f - Int.ofNat (mant f)) else ((man + 2 ^ mant f : Nat) : Rat) * pow2 (Int.ofNat x - 1 + emin f - Int.ofNat (mant f)))) ∧
  (∀ c hdr xve, c < 2 ^ fmtWidth f → let v := blockValue c hdr f xve
    let code := if xve = true ∧ f = 7 ∧ c = 8 then decodeF 3 (hdr / 256 % 256) else decodeF f c
    (hdr % 256 = 0xFF → v = .nan false) ∧
    (hdr % 256 ≠ 0xFF → (∀ s, code = .nan s → v = .nan s) ∧ (∀ s, code = .inf s → v = .inf s) ∧
      ∀ s m e, code = .num s m e → ∃ m' e', v = .num s m' e' ∧ rat s m' e' = rat s m e * pow2 (Int.ofNat (hdr % 256) - 127)))) ∧ (
  ∀ (x src t mode : Nat) (sat uns : Bool), mode < 4 → src ≤ 11 → t ≤ 11 →
  let num := fun (w : Nat) => if uns then Int.ofNat (x % 2 ^ w) else (BitVec.ofNat w x).toInt
  let w := fmtWidth t
  let lo : Int := if uns then 0 else -(2 ^ (w - 1))
  let hi : Int := if uns then 2 ^ w - 1 else 2 ^ (w - 1) - 1
  let whole := fun (i : Int) => (BitVec.ofInt 64 i).toNat
  let image := fun (i : Int) => (BitVec.ofInt w i).toNat
  (src ≤ 7 → t ≤ 7 → convert x src t mode sat uns = narrow (decodeF src (x % 2 ^ fmtWidth src)) t mode sat) ∧
  (8 ≤ src → t ≤ 7 → let i := num (fmtWidth src)
    (i = 0 → convert x src t mode sat uns = (0, 0)) ∧ (i ≠ 0 → NarrowsRat t mode sat i (convert x src t mode sat uns))) ∧
  (src ≤ 7 → 8 ≤ t → let r := convert x src t mode sat uns
    (∀ s, decodeF src (x % 2 ^ fmtWidth src) = .nan s → r = (0, 0x80)) ∧ (∀ s, decodeF src (x % 2 ^ fmtWidth src) = .inf s → r = (whole (if s then lo else hi), 0x80)) ∧
    (∀ s e, decodeF src (x % 2 ^ fmtWidth src) = .num s 0 e → r = (0, 0)) ∧ ∀ s m e i exact, decodeF src (x % 2 ^ fmtWidth src) = .num s m e → m ≠ 0 → ToWhole mode (rat s m e) i exact →
      (i < lo → r = (whole lo, 0x80)) ∧ (hi < i → r = (whole hi, 0x80)) ∧ (lo ≤ i → i ≤ hi → (exact → r = (whole i, 0)) ∧ (¬exact → r = (whole i, 8)))) ∧
  (src ≤ 7 ∨ t ≤ 7 → convertElem x src t mode sat uns = ((convert x src t mode sat uns).1 % 2 ^ w, (convert x src t mode sat uns).2)) ∧
  (8 ≤ src → 8 ≤ t → let i := num (fmtWidth src)
    convertElem x src t mode sat uns = (image (if sat = true ∧ i < lo then lo else if sat = true ∧ hi < i then hi else i), 0) ∧
    ((widenElem x src t uns).1, (widenElem x src t uns).2.1, (widenElem x src t uns).2.2) = (image i, 0, true)) ∧
  (src ≤ 7 → t ≤ 7 → (∀ s, decodeF src (x % 2 ^ fmtWidth src) = .nan s → t ≤ 4 → widenElem x src t uns = (canon t, if s then 0x80 else 0, true)) ∧
    (∀ s m e c, decodeF src (x % 2 ^ fmtWidth src) = .num s m e → IsNum t s (rat false m e) c → IsNum t s (rat false m e) (widenElem x src t uns).1 ∧ (widenElem x src t uns).2 = (0, true)))) ∧ (
  ∀ (f mode : Nat) (sat xve : Bool) (xs : List FV), 3 ≤ f → f ≤ 7 → mode < 4 →
  let r := quantBlock xs f xve mode sat
  let extra := xve = true ∧ f = 7
  let emax : Int := match f with | 3 => 8 | 4 => 15 | 5 => 4 | _ => 2
  let value := fun (x : FV) => match x with | .num s m e => rat s m e | _ => 0
  let se := r.1 % 256
  let s := pow2 (Int.ofNat se - 127)
  ((∃ x ∈ xs, ∀ s m e, x ≠ FV.num s m e) → r = (0x00FF, xs.map fun _ => 0, 0)) ∧
  ((∀ x ∈ xs, ∃ s m e, x = FV.num s m e) → ∃ (fx : Nat) (fls : List Nat), fls.length = xs.length ∧ r.2.2 = fls.foldl (· ||| ·) fx ∧ r.2.1.length = xs.length ∧ r.1 < 2 ^ 16 ∧
    ((∀ x ∈ xs, value x = 0) → se = 0 ∧ fx = 0) ∧
    (∀ (l : Int) x, x ∈ xs → (∀ y ∈ xs, mag (value y) ≤ mag (value x)) → pow2 l ≤ mag (value x) → mag (value x) < pow2 (l + 1) →
      let z := l - emax + 127
      (z < 0 → se = 0) ∧ (254 < z → se = 254) ∧ (0 ≤ z → z ≤ 254 → Int.ofNat se = z)) ∧
    (¬extra → r.1 / 256 = 0 ∧ fx = 0) ∧
    (extra → ∀ (j : Nat) x, xs[j]? = some x → value x ≠ 0 → (∀ y ∈ xs, mag (value y) ≤ mag (value x)) → (∀ (i : Nat) y, i < j → xs[i]? = some y → mag (value y) < mag (value x)) →
      NarrowsRat 3 0 true (value x / s) (r.1 / 256, fx)) ∧
    ∀ (j : Nat) a m e, xs[j]? = some (FV.num a m e) → ∃ q fl v, narrow (.num a m (e + 127 - Int.ofNat se)) f mode sat = (q, fl) ∧ fls[j]? = some fl ∧ decodeF f q = v ∧
      let y := value (.num a m e) / s
      let nearer := extra ∧ mag (y - value (decodeF 3 (r.1 / 256))) < mag (y - value v)
      (nearer → r.2.1[j]? = some 8) ∧ (¬nearer → r.2.1[j]? = some q))) ∧ (
  ∀ (cx : Cx) (a src t : Nat) (sat : Bool) (c : Nat) (l : List (Nat × Nat)) (fl i : Nat), src ≤ 2 → 1 ≤ t → t ≤ 7 → c < 2 ^ 32 →
  let r := efStep cx a src t sat (c, l, fl) i
  let x := decodeF src (elem cx a (fmtWidth src) i)
  ∃ y fy, r.2.1 = l ++ [(i, y)] ∧ r.2.2 = fl ||| fy ∧
    (∀ s, x = .nan s → (y, fy) = narrow (.nan s) t 0 sat ∧ r.1 = 0) ∧
    ((∀ s, x ≠ .nan s) → ∀ s, decodeF 0 c = .nan s → (y, fy) = narrow (.nan false) t 0 sat ∧ r.1 = 0) ∧
    (∀ s b n d, x = .inf s → decodeF 0 c = .num b n d → (y, fy) = narrow (.inf s) t 0 sat ∧ r.1 = 0) ∧
    ∀ s m e b n d, x = .num s m e → decodeF 0 c = .num b n d →
      let T := rat s m e + rat b n d
      (T = 0 → y % 2 ^ (fmtWidth t - 1) = 0 ∧ fy = 0 ∧ r.1 = 0) ∧
      (T ≠ 0 → NarrowsRat t 0 sat T (y, fy) ∧ ((∀ z k g, decodeF t y ≠ .num z k g) → r.1 = 0) ∧
        ∀ z k g, decodeF t y = .num z k g → (T = rat z k g → r.1 = 0) ∧ (T ≠ rat z k g → ∃ fc, NarrowsRat 0 0 false (T - rat z k g) (r.1, fc))))

/-- R50 to R56: the sums of the matrix units: a row of products is cut into promotion blocks by absolute k, each summed exactly or aligned, with the specials of R54 and the saturation of R53, and
promoted with one rounding; a product; the format words accepted. -/
def Obligations.MatrixArithmetic : Prop := (
  ∀ (fw : BitVec 32) (k : Nat) (ps : List FV) (c : BitVec 32),
  let step := if fwPINT fw = 1 then 64 else if fwPINT fw = 2 then 128 else if fwBLK fw = 1 ∨ fwBLK fw = 2 ∨ fwBLK fw = 3 then 8 * 2 ^ fwBLK fw else if fwBLK fw = 0 then 8 else 1
  let n := step - k % step
  let small := decide (5 ≤ fwAF fw ∧ 5 ≤ fwBF fw)
  accumulate fw k [] c = (c, false) ∧
  (n < ps.length → ∃ r1 s1, accumulate fw k (ps.take n) c = (r1, s1) ∧ (accumulate fw k ps c).1 = (accumulate fw (k + n) (ps.drop n) r1).1 ∧
    (accumulate fw k ps c).2 = (s1 || (accumulate fw (k + n) (ps.drop n) r1).2)) ∧
  (ps ≠ [] → ps.length ≤ n → ∃ v, BlockSum small ps v (accumulate fw k ps c).2 ∧ Promotes c v (accumulate fw k ps c).1)) ∧ (
  ∀ x y : FV, let isNan := fun (v : FV) => ∃ s, v = .nan s
  (isNan x ∨ isNan y → isNan (productF x y)) ∧ (∀ a b n d, x = .inf a → y = .num b n d → productF x y = (if n = 0 then .nan false else .inf (a != b)) ∧ productF y x = productF x y) ∧
  (∀ a b, x = .inf a → y = .inf b → productF x y = .inf (a != b)) ∧
  ∀ a m e b n d, x = .num a m e → y = .num b n d → ∃ k g, productF x y = .num (a != b) k g ∧ rat (a != b) k g = rat a m e * rat b n d) ∧ (
  ∀ (w : BitVec 32) (xv : Bool), let a := w.toNat % 16
  let b := w.toNat / 16 % 16
  let blk := w.toNat / 2 ^ 12 % 8
  let pint := w.toNat / 2 ^ 16 % 4
  let kind := fun (x : Nat) => if x ≤ 2 then 1 else if x ≤ 6 then 2 else 3
  formatWordOk w xv = true ↔ w.toNat / 2 ^ 21 = 0 ∧ w.toNat / 256 % 16 = 0 ∧ (1 ≤ a ∧ a ≤ 7) ∧ (1 ≤ b ∧ b ≤ 7) ∧ kind a = kind b ∧ blk ≤ 3 ∧ (blk ≠ 0 → kind a ≠ 1) ∧
    (w.getLsbD 15 = true → a = 7 ∧ b = 7 ∧ blk ≠ 0 ∧ xv = true) ∧ pint ≠ 3 ∧ (pint ≠ 0 → (a = 3 ∨ a = 4) ∧ (b = 3 ∨ b = 4)))

/-- R250, R251, R290: CSRR of every CSR a group reads, at any time outside a transaction, with its frame. R252: CSRW, CSRS and CSRC of every CSR: d takes the old value, and the RW fields take s(a), old OR s(a), old AND NOT s(a); fields written
1 to clear clear; reserved values of VTYPE and FCSR leave their field; read-only CSRs stay; a number with no
entry for the group is an illegal instruction. SIGA is `SignatureChain`'s. -/
def Obligations.SpecialRegisters : Prop := (
  ∀ (d : BitVec 6) (s : State) (cx : Cx) (t : Team) (iv : Invoc) (c : Ctx), CtlActs s cx → cx.g.txn = none →
  getTeam s cx.k = some t → getInv s t.inv = some iv → getCtx s iv.ctx = some c →
  ∀ e ∈ writtenCsrs cx ++ readOnlyCsrs s cx t iv c,
    CtlWrites (exec (.csrr d e.1) s) s cx cx.g d.toNat e.2 0) ∧ (
  ∀ (d a : BitVec 6) (s : State) (cx : Cx) (c : Ctx), CtlFree s cx → getCtx s cx.cn = some c →
  let x := readX cx.g.th a.toNat
  let writes := fun (n : BitVec 12) (old : Word) (g : Word → Word → Group) =>
    CtlWrites (exec (.csrw d a n) s) s cx (g x x) d.toNat old 0 ∧
    CtlWrites (exec (.csrs d a n) s) s cx (g (old ||| x) x) d.toNat old 0 ∧
    CtlWrites (exec (.csrc d a n) s) s cx (g (old &&& ~~~x) 0) d.toNat old 0
  writes 0x000 (BitVec.ofNat 64 (readVlen cx)) (fun v _ => { cx.g with vlen := BitVec.ofNat 64 (Nat.min v.toNat (vlmax cx.kn cx.g)) }) ∧
  writes 0x001 cx.g.vtype (fun v _ =>
    let g := { cx.g with vtype := vtypeAfter c cx.g.vtype v }
    if vtFmt g = vtFmt cx.g then g else { g with vlen := BitVec.ofNat 64 (Nat.min (readVlen cx) (vlmax cx.kn g)) }) ∧
  writes 0x002 cx.g.vmask (fun v _ => { cx.g with vmask := v &&& 0x7F }) ∧
  writes 0x003 cx.g.vstride (fun v _ => { cx.g with vstride := v }) ∧
  writes 0x004 cx.g.ecar (fun v _ => { cx.g with ecar := v &&& 0xFFFFFFFF }) ∧
  writes 0x006 cx.g.fcsr (fun v _ => { cx.g with fcsr := fcsrAfter cx.g.fcsr v }) ∧
  writes 0x009 ((cx.g.th.err ++ cx.g.th.pend).setWidth 64) (fun _ clr =>
    { cx.g with th := { cx.g.th with err := cx.g.th.err &&& ~~~(clr.extractLsb' 8 8) } }) ∧
  (∀ t iv, getTeam s cx.k = some t → getInv s t.inv = some iv → ∀ e ∈ readOnlyCsrs s cx t iv c, writes e.1 e.2 fun _ _ => cx.g)) ∧ (
  ∀ (d a : BitVec 6) (n : BitVec 12) (s : State) (cx : Cx), CtlActs s cx → cx.g.txn = none → Handled s cx.k → (0x019 ≤ n.toNat ∧ n.toNat < 0x020 ∨ 0x023 ≤ n.toNat ∨ 0x00B ≤ n.toNat ∧ n.toNat < 0x010) →
  ∀ i ∈ [Instr.csrr d n, .csrw d a n, .csrs d a n, .csrc d a n], CtlTraps (exec i s) s cx 1 ((encode i).setWidth 64))

/-- R308, R309: the integer vector instructions, register and scalar forms, in a control thread and in a block. R309: VSEL writes every element below VLEN, from a where VMASK admits it and from b elsewhere; in a block, where VMASK does not apply,
from a. -/
def Obligations.VectorInteger : Prop := (
  ∀ (d a b i : BitVec 6) (c : BitVec 1),
  VecInt (.vadd d a b c) d a b c (fun _ x y => x + y) ∧
  VecInt (.vsub d a b c) d a b c (fun w x y => x + 2 ^ w - y) ∧
  VecInt (.vmul d a b c) d a b c (fun _ x y => x * y) ∧
  VecInt (.vmulh d a b c) d a b c (fun w x y => (BitVec.ofInt w (toS w x * toS w y / 2 ^ w)).toNat) ∧
  VecInt (.vand d a b c) d a b c (fun _ x y => x &&& y) ∧
  VecInt (.vor d a b c) d a b c (fun _ x y => x ||| y) ∧
  VecInt (.vxor d a b c) d a b c (fun _ x y => x ^^^ y) ∧
  VecInt (.vsll d a b c) d a b c (fun w x y => x * 2 ^ (y % w)) ∧
  VecInt (.vsrl d a b c) d a b c (fun w x y => x / 2 ^ (y % w)) ∧
  VecInt (.vsra d a b c) d a b c (fun w x y => (BitVec.ofInt w (toS w x / 2 ^ (y % w))).toNat) ∧
  VecInt (.vmin d a b c) d a b c (fun w x y => if toS w x ≤ toS w y then x else y) ∧
  VecInt (.vmax d a b c) d a b c (fun w x y => if toS w y ≤ toS w x then x else y) ∧
  VecInt (.vminu d a b c) d a b c (fun _ x y => Nat.min x y) ∧
  VecInt (.vmaxu d a b c) d a b c (fun _ x y => Nat.max x y) ∧
  VecMap (.vaddi d a i) [a] d (fun g => 8 ≤ elemWidth g) elemWidth 0 (fun cx j => (elem cx a.toNat (elemWidth cx.g) j + (i.signExtend 64).toNat, 0)) ∧
  VecMap (.vbcs d a) [] d (fun g => 8 ≤ elemWidth g) elemWidth 0 (fun cx _ => ((readS cx a.toNat).toNat, 0)) ∧
  VecMap (.vid d) [] d (fun g => 8 ≤ elemWidth g) elemWidth 0 (fun _ j => (j, 0)) ∧
  VecMap (.vpopc d a) [a] d (fun g => 8 ≤ elemWidth g) elemWidth 0 fun cx j =>
    ((List.range (elemWidth cx.g)).countP fun n => (elem cx a.toNat (elemWidth cx.g) j).testBit n, 0)) ∧ (
  ∀ d a b : BitVec 6,
  (∀ s cx, CtlFree s cx → VecRegs cx.g [a, b] [d] → 8 ≤ elemWidth cx.g → VecDone (exec (.vsel d a b) s) s cx cx.g 0 fun g' =>
    let w := elemWidth cx.g
    ElemsTake cx.g g' d.toNat w (List.range (readVlen cx)) (fun j => if maskBit cx j then elem cx a.toNat w j else elem cx b.toNat w j) ∧
      g'.fcsr = cx.g.fcsr ∧ SlotsKept cx.g g' [d.toNat] ∧ g'.p = cx.g.p) ∧
  (∀ s cx bs pc, BlkActs s cx bs pc → VecRegs cx.g [a, b] [d] → 8 ≤ elemWidth cx.g → BlkDone (exec (.vsel d a b) s) s cx bs pc fun g' =>
    ElemsTake cx.g g' d.toNat (elemWidth cx.g) bs (fun j => elem cx a.toNat (elemWidth cx.g) j) ∧
      g'.fcsr = cx.g.fcsr ∧ SlotsKept cx.g g' [d.toNat] ∧ g'.p = cx.g.p))

/-- R310, R311: the floating-point vector instructions: the active elements take the rounded results, FCSR their flags. -/
def Obligations.VectorFloat : Prop := ∀ (d a b : BitVec 6) (c : BitVec 1) (l : BitVec 4),
  let sgn := fun (i : Instr) (s : Bool → Bool → Bool) => VecFp i d a b c fun f _ x y _ =>
    (if isNaN (decodeF f x) then canonNaN f
      else x % 2 ^ (fmtWidth f - 1) + if s (x.testBit (fmtWidth f - 1)) (y.testBit (fmtWidth f - 1)) then 2 ^ (fmtWidth f - 1) else 0, 0)
  let fn := fun (i : Instr) (rs : List (BitVec 6)) (f : Nat → Word → Nat → Nat → Nat × Nat) =>
    VecMap i rs d (fun g => vtFmt g ≤ 2) elemWidth l.toNat fun cx j =>
      f (vtFmt cx.g) cx.g.fcsr (elem cx a.toNat (elemWidth cx.g) j) (elem cx b.toNat (elemWidth cx.g) j)
  VecFp (.vfadd d a b c) d a b c (fun f m x y _ => fadd f m x y) ∧ VecFp (.vfsub d a b c) d a b c (fun f m x y _ => fsub f m x y) ∧
  VecFp (.vfmul d a b c) d a b c (fun f m x y _ => fmul f m x y) ∧ VecFp (.vffma d a b c) d a b c (fun f m x y z => ffma f m x y z) ∧
  VecFp (.vfmin d a b c) d a b c (fun f _ x y _ => fminmax false f x y) ∧ VecFp (.vfmax d a b c) d a b c (fun f _ x y _ => fminmax true f x y) ∧
  sgn (.vfsgn d a b c) (fun _ y => y) ∧ sgn (.vfsgnN d a b c) (fun _ y => !y) ∧ sgn (.vfsgnX d a b c) (fun x y => x != y) ∧
  fn (.vfdiv d a b l) [a, b] (fun f m x y => fdiv f m x y) ∧ fn (.vfsqrt d a l) [a] (fun f m x _ => funary sqrtF f m x) ∧
  fn (.vfunRcp d a l) [a] (fun f m x _ => funary rcpF f m x) ∧ fn (.vfunRsq d a l) [a] (fun f m x _ => funary rsqF f m x) ∧
  fn (.vfunExp2 d a l) [a] (fun f m x _ => funary exp2F f m x) ∧ fn (.vfunLog2 d a l) [a] (fun f m x _ => funary log2F f m x) ∧
  fn (.vfunSin d a l) [a] (fun f m x _ => funary (trigF false) f m x) ∧ fn (.vfunCos d a l) [a] (fun f m x _ => funary (trigF true) f m x)

/-- R318, R319: the compares and VCLASS into the bits of a predicate. -/
def Obligations.VectorCompare : Prop := ∀ (p : BitVec 7) (a b m : BitVec 6) (sc : BitVec 1) (c : BitVec 3),
  (c.toNat ≤ 5 → VecTest (.vcmp p a b sc c) (a :: yForm sc b) p (fun g => 8 ≤ elemWidth g) fun cx j =>
    let w := elemWidth cx.g
    let x := elem cx a.toNat w j
    let y := if sc = 0 then elem cx b.toNat w j else scalarElem cx b.toNat w
    (match c.toNat with
      | 0 => decide (x = y) | 1 => decide (x ≠ y) | 2 => decide (toS w x < toS w y) | 3 => decide (toS w y ≤ toS w x)
      | 4 => decide (x < y) | _ => decide (y ≤ x), 0)) ∧
  (c.toNat ≤ 4 → VecTest (.vfcmp p a b sc c) (a :: yForm sc b) p (fun g => vtFmt g ≤ 2) fun cx j =>
    let w := elemWidth cx.g
    let x := decodeF (vtFmt cx.g) (elem cx a.toNat w j)
    let y := decodeF (vtFmt cx.g) (if sc = 0 then elem cx b.toNat w j else scalarElem cx b.toNat w)
    (match compareF x y with
      | none => decide (c.toNat = 1 ∨ c.toNat = 4)
      | some o => match c.toNat with
        | 0 => decide (o = 0) | 1 => decide (o ≠ 0) | 2 => decide (o < 0) | 3 => decide (o ≤ 0) | _ => false,
      if c.toNat = 2 ∨ c.toNat = 3 then (if isNaN x ∨ isNaN y then flNV else 0) else snanFlag x ||| snanFlag y)) ∧
  VecTest (.vclass p a m) [a] p (fun g => vtFmt g ≤ 2) fun cx j =>
    let w := elemWidth cx.g
    let x := elem cx a.toNat w j
    let kind := match decodeF (vtFmt cx.g) x with
      | .nan _ => 0 | .inf _ => 1 | .num _ n _ => if n = 0 then 4 else if n < 2 ^ fpM (vtFmt cx.g) then 3 else 2
    (m.getLsbD kind && (!m.getLsbD 5 || x.testBit (w - 1)), 0)

/-- R312 to R317: conversions: same width, narrowing, the error-feedback chain, widening, block scaling and quantising. Where the format
has no exact image of a widened value the element takes a free value (DESIGN CHOICE, log entry 16). -/
def Obligations.VectorConvert : Prop := ∀ (d a b : BitVec 6) (t : BitVec 4) (m : BitVec 3) (sat u : BitVec 1),
  (m ≠ 4 → m.toNat ≤ 5 → VecMap (.vcvt d a t m sat u) [a] d
    (fun g => (vtFmt g, t.toNat) ∈ [(0, 10), (10, 0), (1, 9), (9, 1), (2, 9), (9, 2), (1, 2), (2, 1)] ∧
      (sat = 1 → vtFmt g ≤ 2 ∧ t.toNat ≤ 2) ∧ (u = 1 → 8 ≤ vtFmt g ∨ 8 ≤ t.toNat)) elemWidth 0
    fun cx j => convert (elem cx a.toNat (elemWidth cx.g) j) (vtFmt cx.g) t.toNat (cvtMode cx.g m) (sat = 1) (u = 1)) ∧
  (m ≠ 4 → m.toNat ≤ 5 → VecMap (.vnarw d a t m sat u) [a] d (fun g => vnarwPair (vtFmt g) t.toNat = true ∧ (u = 1 → 8 ≤ vtFmt g ∨ 8 ≤ t.toNat))
    (fun _ => fmtWidth t.toNat) 0 fun cx j => convertElem (elem cx a.toNat (elemWidth cx.g) j) (vtFmt cx.g) t.toNat (cvtMode cx.g m) (sat = 1) (u = 1)) ∧
  (∀ s cx, CtlFree s cx → VecRegs cx.g [a] [d] → vnarwPair (vtFmt cx.g) t.toNat = true → vtFmt cx.g ≤ 7 → t.toNat ≤ 7 →
    let r := (active cx).foldl (efStep cx a.toNat (vtFmt cx.g) t.toNat (sat = 1)) (cx.g.ecar.toNat % 2 ^ 32, [], 0)
    VecDone (exec (.vnarw d a t 4 sat 0) s) s cx { cx.g with ecar := BitVec.ofNat 64 r.1 } 0 fun g' =>
      ListTake cx.g g' d.toNat (fmtWidth t.toNat) r.2.1 ∧ g'.fcsr = cx.g.fcsr ||| BitVec.ofNat 64 r.2.2 ∧ SlotsKept cx.g g' [d.toNat] ∧ g'.p = cx.g.p) ∧
  VecWide (.vwide d a t u) [a] d (fun g => vwidePair (vtFmt g) t.toNat = true ∧ (u = 1 → 8 ≤ vtFmt g)) (fmtWidth t.toNat)
    (fun cx j =>
      let r := widenElem (elem cx a.toNat (elemWidth cx.g) j) (vtFmt cx.g) t.toNat (u = 1)
      (if r.2.2 then r.1 else (Config.freeWord cx.s.draws j).toNat, r.2.1)) ∧
  (m ≠ 4 → m.toNat ≤ 5 → VecWide (.vbscl d a b m sat) [a, b] d (fun g => 3 ≤ vtFmt g ∧ vtFmt g ≤ 7 ∧ vtBlk g ≠ 0) 32 fun cx j =>
    narrow (blockValue (elem cx a.toNat (elemWidth cx.g) j) (bits (vecImage cx b.toNat j) (j / blockSize (vtBlk cx.g) * 16) 16) (vtFmt cx.g) (vtXve cx.g)) 0
      (cvtMode cx.g m) (sat = 1)) ∧
  (m ≠ 4 → m.toNat ≤ 5 → d ≠ b → ∀ s cx, CtlFree s cx → VecRegs cx.g [] [d, b] → (∀ k, k < wideCount cx 32 → a.toNat + k < nvCount cx.g ∧ a.toNat + k ≠ d.toNat) →
    3 ≤ vtFmt cx.g → vtFmt cx.g ≤ 7 → vtBlk cx.g ≠ 0 →
    let z := blockSize (vtBlk cx.g)
    let mine := fun q => (active cx).filter fun e => e / z = q
    let r := fun q => quantBlock ((mine q).map fun e => decodeF 0 (wideElem cx a.toNat 32 e)) (vtFmt cx.g) (vtXve cx.g) (cvtMode cx.g m) (sat = 1)
    VecDone (exec (.vquant d a b m sat) s) s cx cx.g 0 fun g' =>
      (∀ n, n ≠ d.toNat → n ≠ b.toNat → tgetD g'.v n 0 = tgetD cx.g.v n 0) ∧
      (∀ q, q * z < readVlen cx → held g' b.toNat 16 q = (r q).1 % 2 ^ 16 ∧ ∀ e ∈ (mine q).zip (r q).2.1, held g' d.toNat (elemWidth cx.g) e.1 = e.2 % 2 ^ elemWidth cx.g) ∧
      (∀ j, j < readVlen cx → maskBit cx j = false → held g' d.toNat (elemWidth cx.g) j = 0) ∧
      (∀ x, readVlen cx * elemWidth cx.g ≤ x → bit (tgetD g'.v d.toNat 0) x = bit (tgetD cx.g.v d.toNat 0) x) ∧ g'.p = cx.g.p)

/-- R320: the permutes. R321, R48: reductions of the active elements from an initial value, the floating-point sum over its fixed tree. (What VFREDMAX
gives with no active element is the model's choice: log entry 78.) -/
def Obligations.VectorPermuteAndReduce : Prop := (
  ∀ d a b : BitVec 6,
  let below := fun (cx : Cx) (w j : Nat) => if j < readVlen cx then elem cx a.toNat w j else 0
  let x := fun (cx : Cx) => (readX cx.g.th b.toNat).toNat
  Permutes (.vslup d a b) [a] d (fun cx => cx.g) (fun cx w => ((active cx).filter fun i => x cx ≤ i).map fun i => (i, elem cx a.toNat w (i - x cx))) ∧
  Permutes (.vsldn d a b) [a] d (fun cx => cx.g) (fun cx w => (active cx).map fun i => (i, below cx w (i + x cx))) ∧
  Permutes (.vrgath d a b) [a, b] d (fun cx => cx.g) (fun cx w => (active cx).map fun i => (i, below cx w (elem cx b.toNat w i))) ∧
  Permutes (.vcompr d a b) [a] d (fun cx => { cx.g with th := writeX cx.g.th b.toNat (BitVec.ofNat 64 (active cx).length) })
    (fun cx w => (List.range (active cx).length).zip ((active cx).map fun i => elem cx a.toNat w i)) ∧
  Permutes (.vexpnd d a) [a] d (fun cx => cx.g) (fun cx w => (active cx).zip ((List.range (active cx).length).map fun k => elem cx a.toNat w k)) ∧
  Permutes (.vbcast d a b) [a] d (fun cx => cx.g) (fun cx w => (active cx).map fun i => (i, below cx w (x cx))) ∧
  Permutes (.vins d a b) [] d (fun cx => cx.g) (fun cx _ => if x cx < readVlen cx then [(x cx, (readX cx.g.th a.toNat).toNat)] else []) ∧
  ∀ s cx, CtlFree s cx → VecRegs cx.g [a] [] → 8 ≤ elemWidth cx.g →
    CtlWrites (exec (.vextr d a b) s) s cx cx.g d.toNat (BitVec.ofNat 64 (below cx (elemWidth cx.g) (x cx))) 0) ∧ (
  ∀ d a b : BitVec 6,
  let w := fun (cx : Cx) => elemWidth cx.g
  let y := fun (cx : Cx) => (readX cx.g.th b.toNat).toNat % 2 ^ elemWidth cx.g
  let es := fun (cx : Cx) => (active cx).map fun j => elem cx a.toNat (elemWidth cx.g) j
  let int := fun (g : Group) => 8 ≤ elemWidth g
  Reduces (.vredsum d a b) d a int (fun cx => ((BitVec.ofNat (w cx) (y cx + (es cx).sum)).signExtend 64, 0)) ∧
  Reduces (.vredmin d a b) d a int (fun cx => (BitVec.ofInt 64 (((es cx).map (toS (w cx))).foldl min (toS (w cx) (y cx))), 0)) ∧
  Reduces (.vredmax d a b) d a int (fun cx => (BitVec.ofInt 64 (((es cx).map (toS (w cx))).foldl max (toS (w cx) (y cx))), 0)) ∧
  Reduces (.vredminU d a b) d a int (fun cx => (BitVec.ofNat 64 ((es cx).foldl Nat.min (y cx)), 0)) ∧
  Reduces (.vredmaxU d a b) d a int (fun cx => (BitVec.ofNat 64 ((es cx).foldl Nat.max (y cx)), 0)) ∧
  Reduces (.vredlogAnd d a b) d a int (fun cx => (BitVec.ofNat 64 ((es cx).foldl (· &&& ·) (y cx)), 0)) ∧
  Reduces (.vredlogOr d a b) d a int (fun cx => (BitVec.ofNat 64 ((es cx).foldl (· ||| ·) (y cx)), 0)) ∧
  Reduces (.vredlogXor d a b) d a int (fun cx => (BitVec.ofNat 64 ((es cx).foldl (· ^^^ ·) (y cx)), 0)) ∧
  (∀ n, Reduces (.vfredsum d a b) d a
    (fun g => vtFmt g ≤ 2 ∧ ∀ cx : Cx, cx.g = g → cx.vps = none → readVlen cx ≤ 2 ^ n ∧ (n = 0 ∨ 2 ^ (n - 1) < readVlen cx)) fun cx =>
      let t := tree (fadd (vtFmt cx.g) cx.g.fcsr)
        (fun j => if j < readVlen cx ∧ maskBit cx j = true then elem cx a.toNat (w cx) j else 2 ^ (w cx - 1)) n 0
      let r := fadd (vtFmt cx.g) cx.g.fcsr (y cx) t.1
      (BitVec.ofNat 64 r.1, r.2 ||| t.2)) ∧
  Reduces (.vfredmax d a b) d a (fun g => vtFmt g ≤ 2) fun cx =>
    let r := (es cx).foldl (fun acc x => let m := fminmax true (vtFmt cx.g) acc.1 x; (m.1, acc.2 ||| m.2)) (y cx, 0)
    (BitVec.ofNat 64 (if isNaN (decodeF (vtFmt cx.g) r.1) then canonNaN (vtFmt cx.g) else r.1), r.2))

/-- R322 to R324: vector loads and stores, in a control thread and in a block, from the restart index on. R248, R335 to R337: the vector atomics. -/
def Obligations.VectorMemory : Prop := (
  ∀ (d a b : BitVec 6) (f : BitVec 2) (im : BitVec 7) (l : BitVec 4),
  let base := fun (cx : Cx) => readS cx a.toNat + im.signExtend 64 * 8
  let unit := fun (cx : Cx) e => 8 * (base cx).toNat + 2 * f.toNat + e * elemWidth cx.g
  let strided := fun (cx : Cx) e => 8 * (base cx + BitVec.ofNat 64 e * cx.g.vstride).toNat
  let index := fun (cx : Cx) e => elem cx b.toNat (elemWidth cx.g) e
  let byU := fun (cx : Cx) e => 8 * (readS cx a.toNat + BitVec.ofNat 64 (index cx e)).toNat
  let byS := fun (cx : Cx) e => 8 * (readS cx a.toNat + BitVec.ofInt 64 (toS (elemWidth cx.g) (index cx e))).toNat
  let whole := fun (g : Group) => 8 ≤ elemWidth g
  let offset := fun (g : Group) => f = 0 ∨ vtFmt g = 5 ∨ vtFmt g = 6
  VecLoads (.vld d a f im l) [] d offset l.toNat unit ∧ VecStores (.vst d a f im) [] d offset unit ∧
  VecLoads (.vlds d a im l) [] d whole l.toNat strided ∧ VecStores (.vsts d a im) [] d whole strided ∧
  VecLoads (.vldx d a b l) [b] d whole l.toNat byU ∧ VecLoads (.vldxSx d a b l) [b] d whole l.toNat byS ∧
  VecStores (.vstx d a b) [b] d whole byU ∧ VecStores (.vstxSx d a b) [b] d whole byS) ∧ (
  ∀ (d b : BitVec 6) (o p l : BitVec 4), p.toNat ≤ 9 →
  let fmt := fun (g : Group) => if p = 9 then vtFmt g = 0 else vtFmt g = 10 ∨ vtFmt g = 11
  VecAtomics (.vamo d b o p l) [] d b true fmt l.toNat (fun cx e old => some (amo (elemWidth cx.g) p.toNat old (elem cx d.toNat (elemWidth cx.g) e))) ∧
  (p ≠ 8 → VecAtomics (.vredm d b o p) [d] d b false fmt 0 (fun cx e old => some (amo (elemWidth cx.g) p.toNat old (elem cx d.toNat (elemWidth cx.g) e)))) ∧
  (∀ c : BitVec 6, c = d + 1 → d.toNat % 2 = 0 → VecAtomics (.vcas d b o l) [c] d b true (fun g => vtFmt g = 10 ∨ vtFmt g = 11) l.toNat fun cx e old =>
    if old = elem cx d.toNat (elemWidth cx.g) e then some (elem cx c.toNat (elemWidth cx.g) e) else none))

/-- R106, R301, R303, R312, R335, R373: where the vector instructions trap on their registers and their format: a register the configuration does not name, and a write to a
register bound to a READ slot, are illegal; a format the entry does not accept is an illegal format. What they do otherwise the other statements say. -/
def Obligations.VectorTraps : Prop := ∀ (d a b j : BitVec 6) (p : BitVec 7) (c u sat : BitVec 1) (k m : BitVec 3) (o q l t : BitVec 4) (f : BitVec 2) (im : BitVec 7),
  let int := fun (g : Group) => 8 ≤ elemWidth g
  let fp := fun (g : Group) => vtFmt g ≤ 2
  let word := fun (g : Group) => vtFmt g = 10 ∨ vtFmt g = 11
  let on := fun (rs ws : List (BitVec 6)) (g : Group) => VecRegs g rs ws
  let addr := fun (rs ws : List (BitVec 6)) (g : Group) => VecRegs g (b :: rs) ws ∧ addrLegal g b.toNat = true
  let never := fun (_ : Group) => False
  (∀ i ∈ [Instr.vadd d a b c, .vsub d a b c, .vmul d a b c, .vmulh d a b c, .vand d a b c, .vor d a b c, .vxor d a b c, .vsll d a b c, .vsrl d a b c, .vsra d a b c,
    .vmin d a b c, .vmax d a b c, .vminu d a b c, .vmaxu d a b c], VecTraps i true (on (a :: yForm c b) [d]) int) ∧
  (∀ i ∈ [Instr.vaddi d a j, .vpopc d a], VecTraps i true (on [a] [d]) int) ∧ (∀ i ∈ [Instr.vbcs d a, .vid d], VecTraps i true (on [] [d]) int) ∧
  VecTraps (.vsel d a b) true (on [a, b] [d]) int ∧
  (∀ i ∈ [Instr.vfadd d a b c, .vfsub d a b c, .vfmul d a b c, .vffma d a b c, .vfmin d a b c, .vfmax d a b c, .vfsgn d a b c, .vfsgnN d a b c, .vfsgnX d a b c],
    VecTraps i true (on (a :: yForm c b) [d]) fp) ∧
  VecTraps (.vfdiv d a b l) true (on [a, b] [d]) fp ∧
  (∀ i ∈ [Instr.vfsqrt d a l, .vfunRcp d a l, .vfunRsq d a l, .vfunExp2 d a l, .vfunLog2 d a l, .vfunSin d a l, .vfunCos d a l], VecTraps i true (on [a] [d]) fp) ∧
  VecTraps (.vcmp p a b c k) true (if k.toNat ≤ 5 then on (a :: yForm c b) [] else never) int ∧
  VecTraps (.vfcmp p a b c k) true (if k.toNat ≤ 4 then on (a :: yForm c b) [] else never) fp ∧ VecTraps (.vclass p a j) true (on [a] []) fp ∧
  VecTraps (.vcvt d a t m sat u) true (if m.toNat ≤ 5 then on [a] [d] else never) (fun g => m ≠ 4 ∧
    (vtFmt g, t.toNat) ∈ [(0, 10), (10, 0), (1, 9), (9, 1), (2, 9), (9, 2), (1, 2), (2, 1)] ∧ (sat = 1 → vtFmt g ≤ 2 ∧ t.toNat ≤ 2) ∧ (u = 1 → 8 ≤ vtFmt g ∨ 8 ≤ t.toNat)) ∧
  (m ≠ 4 → VecTraps (.vnarw d a t m sat u) true (if m.toNat ≤ 5 then on [a] [d] else never) fun g => vnarwPair (vtFmt g) t.toNat = true ∧ (u = 1 → 8 ≤ vtFmt g ∨ 8 ≤ t.toNat)) ∧
  (∀ i ∈ [Instr.vslup d a b, .vsldn d a b, .vcompr d a b, .vexpnd d a, .vbcast d a b], VecTraps i false (on [a] [d]) int) ∧
  VecTraps (.vrgath d a b) false (on [a, b] [d]) int ∧ VecTraps (.vextr d a b) false (on [a] []) int ∧ VecTraps (.vins d a b) false (on [] [d]) int ∧
  (∀ i ∈ [Instr.vredsum d a b, .vredmin d a b, .vredmax d a b, .vredminU d a b, .vredmaxU d a b, .vredlogAnd d a b, .vredlogOr d a b, .vredlogXor d a b],
    VecTraps i false (on [a] []) int) ∧
  (∀ i ∈ [Instr.vfredsum d a b, .vfredmax d a b], VecTraps i false (on [a] []) fp) ∧
  (let offset := fun (g : Group) => f = 0 ∨ vtFmt g = 5 ∨ vtFmt g = 6
   VecTraps (.vld d a f im l) true (on [] [d]) offset ∧ VecTraps (.vst d a f im) true (on [d] []) offset) ∧
  VecTraps (.vlds d a im l) true (on [] [d]) int ∧ VecTraps (.vsts d a im) true (on [d] []) int ∧
  (∀ i ∈ [Instr.vldx d a b l, .vldxSx d a b l], VecTraps i true (on [b] [d]) int) ∧ (∀ i ∈ [Instr.vstx d a b, .vstxSx d a b], VecTraps i true (on [d, b] []) int) ∧
  (let fmt := fun (g : Group) => if q = 9 then vtFmt g = 0 else word g
   VecTraps (.vamo d b o q l) true (if q.toNat ≤ 9 then addr [] [d] else never) fmt ∧
   VecTraps (.vredm d b o q) true (if q.toNat ≤ 9 ∧ q ≠ 8 then addr [d] [] else never) fmt) ∧
  VecTraps (.vcas d b o l) true (if d.toNat % 2 = 0 then addr [d + 1] [d] else never) word ∧
  VecTraps (.vwaitm p a b k f) false (fun g => VecRegs g [a, b] [] ∧ addrLegal g a.toNat = true) fun g => vtFmt g = 0 ∨ word g

/-- R329 to R333, R112, R115: starting a block, its paths' branches, joins and stops, and the wait for it. -/
def Obligations.Blocks : Prop := ∀ (o : BitVec 23) (q : BitVec 16) (p : BitVec 7) (v : BitVec 6),
  (∀ s cx, CtlFree s cx → Untraced s cx.k → active cx ≠ [] → CtlDone (exec (.vf o) s) s cx.k cx.i (cx.g.th.pc + 4) fun g' =>
    GroupRest { cx.g with block := g'.block } g' ∧ XKept cx.g.th g'.th 0 ∧
    (∃ b, g'.block = some b ∧ b.start = ahead cx.g.th.pc o ∧ b.n = readVlen cx ∧ b.atPoint = false ∧ b.forced = false ∧
      ∀ n, tgetD b.snap n 0 = if n < 64 then readX cx.g.th n else 0) ∧
    ∀ u, vpOf g' u = if u ∈ active cx then some { cond := .run, pc := ahead cx.g.th.pc o, wins := [] } else none) ∧
  (∀ s cx, CtlFree s cx → active cx = [] → CtlDone (exec (.vf o) s) s cx.k cx.i (cx.g.th.pc + 4) fun g' => GroupRest cx.g g' ∧ XKept cx.g.th g'.th 0) ∧
  (∀ s cx, CtlFree s cx → CtlDone (exec .vsync s) s cx.k cx.i (cx.g.th.pc + 4) fun g' => GroupRest cx.g g' ∧ XKept cx.g.th g'.th 0) ∧
  ∀ s cx bs pc b, BlkActs s cx bs pc → Untraced s cx.k → preempting s cx.k = false → cx.g.block = some b →
    PathsGo (exec (.vbr p q) s) s cx bs (fun u => if predBit cx p.toNat u then ahead pc q else pc + 4) .run ∧
    (addrOk cx.g v.toNat = true → v.toNat < nvCount cx.g → elemWidth cx.g ≠ 6 → (∀ u ∈ bs, elem64 cx v.toNat u % 4 = 0) →
      PathsGo (exec (.vjr v) s) s cx bs (fun u => BitVec.ofNat 64 (elem64 cx v.toNat u)) .run) ∧
    ((∃ e ∈ b.vps, e.1 ∉ bs ∧ e.2.cond = .run) → PathsGo (exec .vjoin s) s cx bs (fun _ => pc) .join ∧ PathsGo (exec .vstop s) s cx bs (fun _ => pc) .stop) ∧
    ((∀ e ∈ b.vps, e.1 ∉ bs → e.2.cond ≠ .run) →
      let joins := (b.vps.filter fun e => decide (e.1 ∉ bs) && decide (e.2.cond = .join)).map fun e => e.2.pc
      Settles (exec .vstop s) s cx b bs joins ∧ Settles (exec .vjoin s) s cx b bs (pc :: joins) ∧
      ((∀ x ∈ joins, pc.toNat ≤ x.toNat) → ∃ t g', exec .vjoin s = .next t ∧ getGroup t cx.k cx.i = some g' ∧
        ∀ u ∈ bs, (vpOf g' u).map (fun p => (p.cond, p.pc)) = some (.run, pc + 4)))

/-- R350, R351, R156: GMMA and GMMAS with a format word on which every active VP agrees: each element of the FP32 wide group accumulates
its 16 products. The word of VP i is 32-bit element i from register f on, as of a wide operand (log entry 19). A register b at or above NV is illegal also with no VP
active (R106). -/
def Obligations.GroupMatrix : Prop := ∀ (d a b : BitVec 6) (f : BitVec 3) (l : BitVec 4) (scaled : Bool) (s : State) (cx : Cx) (fw : BitVec 32), CtlFree s cx →
  let i := if scaled then Instr.gmmas d a b f l else .gmma d a b f l
  let n := readVlen cx
  n % 256 = 0 → f.toNat + (if scaled then 2 else 0) < nvCount cx.g → a.toNat < nvCount cx.g → WideRegs cx d.toNat 32 →
  (nvCount cx.g ≤ b.toNat → Handled s cx.k → CtlTraps (exec i s) s cx 1 ((encode i).setWidth 64)) ∧
  (active cx = [] → b.toNat < nvCount cx.g → VecDone (exec i s) s cx cx.g 0 fun g' => g'.v = cx.g.v ∧ g'.p = cx.g.p ∧ g'.fcsr = cx.g.fcsr ∧ g'.slots = cx.g.slots) ∧
  (active cx ≠ [] → b.toNat < nvCount cx.g → (∀ e ∈ active cx, BitVec.ofNat 32 (wideElem cx f.toNat 32 e) = fw) → (∀ k, k < wideCount cx (fmtWidth (fwBF fw)) → b.toNat + k < nvCount cx.g) →
    formatWordOk fw (hasXv s cx.cn) = true → vtFmt cx.g = fwAF fw → (if scaled then fwBLK fw ≠ 0 ∧ fwBLK fw = vtBlk cx.g else fwBLK fw = 0) →
    let hdr := fun r e => bits (vecImage cx r e) (e / blockSize (vtBlk cx.g) * 16) 16
    let value := fun (fmt r e code : Nat) => if e ∉ active cx then FV.num false 0 0
      else if scaled then blockValue code (hdr r e) fmt (fwXVE fw) else decodeF fmt code
    let x := fun e => value (fwAF fw) (f.toNat + 1) e (elem cx a.toNat (elemWidth cx.g) e)
    let y := fun e => value (fwBF fw) (f.toNat + 2) e (wideElem cx b.toNat (fmtWidth (fwBF fw)) e)
    VecDone (exec i s) s cx cx.g l.toNat fun g' => WideTake cx.g g' d.toNat 32 (capElems cx.kn cx.g 32) (wideCount cx 32) (List.range n)
      (fun c => (accumulate fw 0 ((List.range 16).map fun k => productF (x (c / 256 * 256 + c % 256 / 16 * 16 + k)) (y (c / 256 * 256 + c % 16 * 16 + k)))
        (BitVec.ofNat 32 (wideElem cx d.toNat 32 c))).1.toNat) ∧
      SlotsKept cx.g g' ((List.range (wideCount cx 32)).map (d.toNat + ·)) ∧ g'.p = cx.g.p ∧ g'.fcsr = cx.g.fcsr)

/-- R306, R307: VCFG, and VSETVL with no slot in stream mode. -/
def Obligations.VectorConfig : Prop := ∀ (n gr : BitVec 2) (d a : BitVec 6) (im : BitVec 12) (s : State) (cx : Cx), CtlFree s cx →
  (∀ x ∈ cx.g.slots, x.st = .idle) →
  (8 ≤ 512 * cx.kn.budget / (8 * 2 ^ n.toNat * 2 ^ gr.toNat) → VecDone (exec (.vcfg n gr) s) s cx
    { cx.g with vlen := 0, vtype := cx.g.vtype.extractLsb' 12 52 ++ gr ++ n ++ cx.g.vtype.extractLsb' 0 8 } 0 fun g' =>
      (∀ r, tgetD g'.v r 0 = 0) ∧ g'.p = cx.g.p ∧ g'.fcsr = cx.g.fcsr ∧ g'.slots = cx.g.slots) ∧
  (let set := fun (i : Instr) (req : Nat) =>
    let m := BitVec.ofNat 64 (Nat.min req (vlmax cx.kn cx.g))
    CtlWrites (exec i s) s cx { cx.g with vlen := m } d.toNat m 0
   set (.vsetvl d a) (readX cx.g.th a.toNat).toNat ∧ set (.vsetvli d im) im.toNat)

/-- R167: VSETVL with READ slots in stream mode, enough of each stream delivered: VLEN is the request, at most VLMAX and at most what
remains of each gated stream; every slot moves past its strip, and its register holds the next one. R166, R168, R360, R361: binding a slot, draining and releasing it. -/
def Obligations.StreamSlots : Prop := (
  ∀ (d a : BitVec 6) (s : State) (cx : Cx), CtlFree s cx → cx.g.slots.length = 4 →
  (∀ x ∈ cx.g.slots, x.st = .idle ∨ (x.st = .read ∧ x.desc.dir ≠ 2)) → (∃ x ∈ cx.g.slots, x.st = .read) →
  (∀ x ∈ cx.g.slots, x.st = .read → fmtWidth x.desc.fmt = elemWidth cx.g) →
  (∀ p q x y, lget cx.g.slots p = some x → lget cx.g.slots q = some y → x.st = .read → y.st = .read → x.vd = y.vd → p = q) →
  let left := fun (x : Slot) => x.len - (x.pos + x.slen)
  let n := cx.g.slots.foldl (fun n x => if x.st = .read ∧ x.desc.gate then Nat.min n (left x) else n) (Nat.min (readX cx.g.th a.toNat).toNat (vlmax cx.kn cx.g))
  let ready := fun (x : Slot) => x.ahead.drop x.slen
  (∀ x ∈ cx.g.slots, x.st = .read → Nat.min n (left x) ≤ (ready x).length ∧ (ready x ≠ [] ∨ x.pos + x.slen = x.len)) →
  CtlDone (exec (.vsetvl d a) s) s cx.k cx.i (cx.g.th.pc + 4) fun g' =>
    GroupRest { cx.g with v := g'.v, slots := g'.slots, vlen := BitVec.ofNat 64 n } g' ∧ XKept cx.g.th g'.th d.toNat ∧ XWritten cx.g.th g'.th d.toNat (BitVec.ofNat 64 n) 0 ∧
    (∀ r, (∀ x ∈ cx.g.slots, x.st = .read → x.vd ≠ r) → tgetD g'.v r 0 = tgetD cx.g.v r 0) ∧
    ∀ q x, lget cx.g.slots q = some x → (x.st = .idle → lget g'.slots q = some x) ∧ (x.st = .read → ∃ y, lget g'.slots q = some y ∧
      { y with spare := x.spare } = { x with pos := x.pos + x.slen, slen := Nat.min n (left x), ahead := ready x, wanted := false } ∧
      ∀ j, j < cxVlmax cx → held g' x.vd (elemWidth cx.g) j = if j < Nat.min n (left x) then ((ready x)[j]?).getD 0 % 2 ^ elemWidth cx.g else 0)) ∧ (
  ∀ (v a idx : BitVec 6) (q : BitVec 2),
  Binds (.scfg v a q idx) v a q idx false (fun _ _ => True) ∧
  Binds (.smc v a q idx) v a q idx true (fun cx d => chanSender cx.s cx.k d.chan = none ∧ d.dir = 0) ∧
  ∀ s cx x, CtlFree s cx → lget cx.g.slots q.toNat = some x →
    let same := fun (g' : Group) => g'.p = cx.g.p ∧ g'.fcsr = cx.g.fcsr ∧ ∀ n, n ≠ q.toNat → lget g'.slots n = lget cx.g.slots n
    (x.st ≠ .write → VecDone (exec (.sdrain q) s) s cx cx.g 0 fun g' => g'.v = cx.g.v ∧ g'.p = cx.g.p ∧ g'.fcsr = cx.g.fcsr ∧ g'.slots = cx.g.slots) ∧
    (x.st = .idle → VecDone (exec (.srel q) s) s cx cx.g 0 fun g' => g'.v = cx.g.v ∧ g'.p = cx.g.p ∧ g'.fcsr = cx.g.fcsr ∧ g'.slots = cx.g.slots) ∧
    (x.st = .read ∧ x.multicast = false ∨ x.st = .write ∧ x.slen = 0 → VecDone (exec (.srel q) s) s cx cx.g 0 fun g' =>
      g'.v = cx.g.v ∧ same g' ∧ ∃ y, lget g'.slots q.toNat = some y ∧ Freed x y) ∧
    (x.st = .read → x.multicast = true → ∀ iv, invOf s cx.k = some iv → ∃ t g' y, exec (.srel q) s = .next t ∧ getGroup t cx.k cx.i = some g' ∧
      g'.th.pc = cx.g.th.pc + 4 ∧ lget g'.slots q.toNat = some y ∧ Freed x y ∧
      ∀ m ∈ gangTeams s cx.k, ∀ tm j g n z, getTeam s m = some tm → bit x.desc.mask (tm.tidx % iv.gang) = true → lget tm.groups j = some g → lget g.slots n = some z →
        z.st = .read → z.desc.dir = 2 → z.desc.chan = x.desc.chan → ¬(m = cx.k ∧ j = cx.i ∧ n = q.toNat) →
        ∃ g2, getGroup t m j = some g2 ∧ lget g2.slots n = some (if z.ended then z else { z with len := z.pos + z.ahead.length, ended := true })) ∧
    (x.st = .write → (∀ n y, n ≠ q.toNat → lget cx.g.slots n = some y → y.st ≠ .write ∨ y.vd ≠ x.vd) → ∀ t ps, closeWrites s cx x = some (t, ps) →
      MemOutside s t ps ∧ ∃ u, { u with poison := t.poison } = t ∧ (∀ l ∈ u.poison, l ∈ t.poison) ∧
      VecDone (exec (.sdrain q) s) u cx cx.g 0 (fun g' => same g' ∧ ZeroReg cx g' x.vd ∧ (∀ n, n ≠ x.vd → tgetD g'.v n 0 = tgetD cx.g.v n 0) ∧
        lget g'.slots q.toNat = some { x with pos := x.pos + x.slen, slen := 0, written := 0 }) ∧
      VecDone (exec (.srel q) s) u cx cx.g 0 (fun g' => same g' ∧ g'.v = cx.g.v ∧ ∃ y, lget g'.slots q.toNat = some y ∧ Freed x y)))

/-- R178 to R180, R341: BINIT, BARV, BWAIT and BSYNC where they complete at once, of a group and of the sequencer: the last arrival starts
the next phase and releases every waiter; BWAIT at the phase it names, and a BSYNC that is not the last arrival, wait in WAIT-BELL. -/
def Obligations.Bells : Prop := ∀ (b : BitVec 4) (r : BitVec 6) (s : State) (x : Bell),
  let fresh := fun (v : Word) => { x with counting := true, exp := v.toNat, arr := 0 }
  let counted := fun (a : Nat) (pc : Word) => { x with arr := x.arr + 1, by' := if a ∈ x.by' then x.by' else x.by' ++ [a], last := pc }
  let turned := fun (pc : Word) => { x with ph := x.ph + 1, arr := 0, by' := [], last := pc }
  let fits := fun (v : Word) => 1 ≤ v.toNat ∧ v.toNat ≤ 65535 ∧ (x.counting = true → x.arr = 0)
  let opens := fun (s1 : State) (k : Nat) (pc : Word) => Released (withBell s k b.toNat (turned pc)) s1 k b.toNat ∧ TeamOnly s s1 k ∧
    getBell s1 k b.toNat = some (turned pc)
  (∀ cx, CtlActs s cx → cx.g.txn = none → getBell s cx.k b.toNat = some x → traceOn s cx.k 9 = false →
    let v := readX cx.g.th r.toNat
    (fits v → CtlLeaves (exec (.binit b r) s) (withBell s cx.k b.toNat (fresh v)) cx cx.g) ∧
    (x.counting = true → x.arr + 1 < x.exp →
      CtlWrites (exec (.barv b r) s) (withBell s cx.k b.toNat (counted cx.i cx.g.th.pc)) cx cx.g r.toNat (x.ph.setWidth 64) 0) ∧
    (x.counting = true → x.exp ≤ x.arr + 1 → ∃ s2, opens s2 cx.k cx.g.th.pc ∧ CtlWrites (exec (.barv b r) s) s2 cx cx.g r.toNat (x.ph.setWidth 64) 0 ∧
      CtlLeaves (exec (.bsync b) s) s2 cx cx.g) ∧
    (x.counting = true → x.ph ≠ v.setWidth 16 → CtlLeaves (exec (.bwait b r) s) s cx cx.g)) ∧
  (∀ sx, SeqActs s sx → r.toNat < 32 → getBell s sx.k b.toNat = some x → traceOn s sx.k 9 = false →
    let v := readX sx.q.th r.toNat
    (fits v → SeqLeaves (exec (.binit b r) s) (withBell s sx.k b.toNat (fresh v)) sx sx.q) ∧
    (x.counting = true → x.arr + 1 < x.exp →
      SeqPuts (exec (.barv b r) s) (withBell s sx.k b.toNat (counted 16 sx.q.th.pc)) sx sx.q r.toNat (x.ph.setWidth 64)) ∧
    (x.counting = true → x.exp ≤ x.arr + 1 → ∃ s2, opens s2 sx.k sx.q.th.pc ∧ SeqPuts (exec (.barv b r) s) s2 sx sx.q r.toNat (x.ph.setWidth 64) ∧
      SeqLeaves (exec (.bsync b) s) s2 sx { sx.q with cache := [] }) ∧
    (x.counting = true → x.ph ≠ v.setWidth 16 → SeqLeaves (exec (.bwait b r) s) s sx { sx.q with cache := [] })) ∧
  ∀ cx, CtlActs s cx → cx.g.txn = none → getBell s cx.k b.toNat = some x → x.counting = true →
    let waits := fun (i : Instr) (s1 : State) => ∃ t, exec i s = .next t ∧ ButGroup s1 t cx.k cx.i ∧
      getGroup t cx.k cx.i = some { cx.g with th := { cx.g.th with run := .waitBell b.toNat, word := encode i } }
    (x.ph = (readX cx.g.th r.toNat).setWidth 16 → waits (.bwait b r) s) ∧
    (x.arr + 1 < x.exp → waits (.bsync b) (withBell s cx.k b.toNat (counted cx.i cx.g.th.pc)))

/-- R342, R181: BSIG hands its signal to the Timetable: to the team its pair names, or to the sender's own team's index. -/
def Obligations.Signals : Prop := ∀ (b : BitVec 4) (r : BitVec 6) (s : State) (k : Nat) (t : Team) (iv : Invoc) (lo hi : Word),
  getTeam s k = some t → getInv s t.inv = some iv → r ≠ 0 → r.toNat % 2 = 0 → lo &&& 0xFFFFFFFF7000FC00 = 0 → hi.toNat < 2 ^ 48 →
  (lo.getLsbD 31 = true → lo &&& 0x0FFFFFFF = 0) →
  let g : Signal := { ctx := if lo.getLsbD 31 then iv.ctx else lo.toNat % 2 ^ 10, inv := if lo.getLsbD 31 then t.inv % 4096 else lo.toNat / 2 ^ 16 % 2 ^ 12, tidx := hi.toNat, bell := b.toNat, fromCtx := iv.ctx, fromPart := t.inv / 4096, fromInv := t.inv % 4096, fromTidx := t.tidx, r0 := lo, r1 := hi }
  (∀ cx, CtlActs s cx → cx.g.txn = none → cx.k = k → readX cx.g.th r.toNat = lo → readX cx.g.th (r.toNat + 1) = hi →
    CtlLeaves (exec (.bsig b r) s) { s with signals := s.signals ++ [g] } cx cx.g) ∧
  (∀ sx, SeqActs s sx → sx.k = k → r.toNat < 32 → readX sx.q.th r.toNat = lo → readX sx.q.th (r.toNat + 1) = hi →
    SeqLeaves (exec (.bsig b r) s) { s with signals := s.signals ++ [g] } sx sx.q)

/-- R184 to R186, R339, R340: WAITM and VWAITM at issue: a satisfied watch sets the bits of its predicate, one whose timeout is 0 writes the
results, and any other parks the group in WAIT-MEM where it stands. -/
def Obligations.Watches : Prop := ∀ (p : BitVec 7) (a b : BitVec 6) (z : BitVec 1) (c : BitVec 3) (t : BitVec 2) (s : State) (cx : Cx),
  CtlFree s cx → cx.g.th.rewatch = none →
  let timeout := readX cx.g.th (60 + t.toNat)
  let holds := fun (w x y : Nat) => match c.toNat with
    | 0 => x = y | 1 => x ≠ y | 2 => toS w x < toS w y | 3 => toS w y ≤ toS w x | 4 => x < y | 5 => y ≤ x | 6 => x &&& y ≠ 0 | _ => x &&& y = 0
  let lines := fun (s1 : State) (vas : List Word) => ((vas.filterMap fun va => (getCtx s1 cx.cn).bind fun c => (peek (tables s1) c.root va.toNat).map (·.1 / 64)).eraseDups).take 64
  let parks := fun (i : Instr) (s1 : State) (w : Watch) => ∃ u, exec i s = .next u ∧ ButGroup s1 u cx.k cx.i ∧
    getGroup u cx.k cx.i = some { cx.g with th := { cx.g.th with run := .waitMem w, word := encode i } }
  (∀ s1 l, Lands s cx (readX cx.g.th a.toNat) (atomBytes z) .read s1 l → poisoned s1 l (atomBytes z) = false →
    let i := Instr.waitm p a b z c t
    let n := atomBytes z
    let x := locRead s1 l n
    let y := (readX cx.g.th b.toNat).toNat % 2 ^ (8 * n)
    let s2 := (locLoad s1 l n).1
    (holds (8 * n) x y → WatchEnds (exec i s) s2 cx p (fun v => v < cxVlmax cx) (fun _ => True)) ∧
    (¬holds (8 * n) x y → timeout = 0 → WatchEnds (exec i s) s2 cx p (fun v => v < cxVlmax cx) (fun _ => False)) ∧
    (¬holds (8 * n) x y → timeout ≠ 0 → parks i s2 { vec := false, pd := p.toNat, size := n, cond := c.toNat, items := [(0, readX cx.g.th a.toNat, y)], timeout := timeout, last := [(0, false)], lines := lines s2 [readX cx.g.th a.toNat], due := false })) ∧
  (VecRegs cx.g [a, b] [] → addrOk cx.g a.toNat = true → vtFmt cx.g = 0 ∨ vtFmt cx.g = 10 ∨ vtFmt cx.g = 11 →
    let i := Instr.vwaitm p a b c t
    let w := elemWidth cx.g
    ∀ s2 vs, readAll (asker cx) (fun e => 8 * elem64 cx a.toNat e) w false (active cx) true s = some (s2, vs) →
    let sat := fun e => ∃ x, (e, x) ∈ vs ∧ holds w x (elem cx b.toNat w e)
    ((∀ e ∈ active cx, sat e) → WatchEnds (exec i s) s2 cx p (· ∈ active cx) (fun _ => True)) ∧
    ((∃ e ∈ active cx, ¬sat e) → timeout = 0 → WatchEnds (exec i s) s2 cx p (· ∈ active cx) sat) ∧
    ((∃ e ∈ active cx, ¬sat e) → timeout ≠ 0 → ∃ last, last.map (·.1) = active cx ∧ parks i s2 { vec := true, pd := p.toNat, size := w / 8, cond := c.toNat, items := (active cx).map fun e => (e, BitVec.ofNat 64 (elem64 cx a.toNat e), elem cx b.toNat w e), timeout := timeout, last := last, lines := lines s2 ((active cx).map fun e => BitVec.ofNat 64 (elem64 cx a.toNat e)), due := false }))

/-- R140, R171, R362, R363: CPY starts an operation under a free token, or completes the token at once for a length of 0; TWAIT goes on when
every token of its mask is complete, TPOLL reads TOKS and clears ERR for its mask. R175, R364: the tag table: SPLK answers the slot of a line or 0xFFFFFFFF, SPINS inserts or answers 1 for a full table and 2 for a slot
that is no multiple of 256 or outside the allocation, SPINV and SPINV.ALL remove. -/
def Obligations.TokensAndTags : Prop := (
  ∀ (d a b : BitVec 6) (t : BitVec 3) (w : BitVec 8) (s : State),
  let started := fun (k ag : Nat) (dst src len pc : Word) => if len = 0 then s else withOp s k ag t.toNat (.cpy dst src len.toNat) pc
  let pend := fun (th : Thread) (len : Word) => if len = 0 then th else { th with pend := th.pend ||| 1#8 <<< t.toNat }
  let inRange := fun (k : Nat) (va len : Word) => windowBad s k va len.toNat = false
  (∀ cx, CtlActs s cx → cx.g.txn = none →
    let rd := fun (n : BitVec 6) => readX cx.g.th n.toNat
    ((rd b).toNat < 2 ^ 32 → inRange cx.k (rd d) (rd b) → inRange cx.k (rd a) (rd b) → cx.g.th.pend.getLsbD t.toNat = false →
      CtlLeaves (exec (.cpy d a b t) s) (started cx.k cx.i (rd d) (rd a) (rd b) cx.g.th.pc) cx { cx.g with th := pend cx.g.th (rd b) }) ∧
    (cx.g.th.pend &&& w = 0 → CtlLeaves (exec (.twait w) s) s cx cx.g) ∧
    CtlWrites (exec (.tpoll d w) s) s cx { cx.g with th := { cx.g.th with err := cx.g.th.err &&& ~~~w } } d.toNat ((cx.g.th.err ++ cx.g.th.pend).setWidth 64) 0) ∧
  (∀ sx, SeqActs s sx →
    let rd := fun (n : BitVec 6) => readX sx.q.th n.toNat
    (d.toNat < 32 → a.toNat < 32 → b.toNat < 32 → (rd b).toNat < 2 ^ 32 → inRange sx.k (rd d) (rd b) → inRange sx.k (rd a) (rd b) →
      sx.q.th.pend.getLsbD t.toNat = false →
      SeqLeaves (exec (.cpy d a b t) s) (started sx.k 16 (rd d) (rd a) (rd b) sx.q.th.pc) sx { sx.q with th := pend sx.q.th (rd b) }) ∧
    (sx.q.th.pend &&& w = 0 → SeqLeaves (exec (.twait w) s) s sx { sx.q with cache := if w = 0 then sx.q.cache else [] }) ∧
    (d.toNat < 32 → SeqPuts (exec (.tpoll d w) s) s sx
      { sx.q with th := { sx.q.th with err := sx.q.th.err &&& ~~~w }, cache := if w &&& ~~~sx.q.th.pend = 0 then sx.q.cache else [] }
      d.toNat ((sx.q.th.err ++ sx.q.th.pend).setWidth 64)))) ∧ (
  ∀ (d a b : BitVec 6) (s : State) (cx : Cx) (t : Team) (iv : Invoc), CtlActs s cx → cx.g.txn = none →
  getTeam s cx.k = some t → getInv s t.inv = some iv →
  let line := (readX cx.g.th a.toNat).toNat / 256 % 2 ^ 49
  let slot := (readX cx.g.th b.toNat).toNat
  let tags := fun (f : Tbl Nat) => modTeam s cx.k fun x => { x with tags := f }
  CtlWrites (exec (.splk d a) s) s cx cx.g d.toNat (BitVec.ofNat 64 ((tget t.tags line).getD 0xFFFFFFFF)) 0 ∧
  (let full := tget t.tags line = none ∧ 8 * iv.spad ≤ t.tags.length
   let off := slot % 256 ≠ 0 ∨ iv.spad * 4096 ≤ slot
   CtlWrites (exec (.spins d a b) s) (tags (if off ∨ full then t.tags else tput t.tags line slot)) cx cx.g d.toNat (if off then 2 else if full then 1 else 0) 0) ∧
  CtlLeaves (exec (.spinv a) s) (tags (tdel t.tags line)) cx cx.g ∧ CtlLeaves (exec .spinvAll s) (tags []) cx cx.g)

/-- R147, R353 to R355, R149, R161: TSET grants, TSET.M writes MSTAT, TGET reads the sequencer's CSRs, TREC writes an operand record. R51, R148, R150, R356, R157 to R160, R359: the accumulator instructions where they complete: TMM and TMMS add the products of two
views, TZERO opens, TSAVE writes the image and TRESTORE loads it, TCVT converts into a view and TCVT.C closes as well. -/
def Obligations.MatrixOps : Prop := (
  ∀ (k : BitVec 5) (m : BitVec 3) (c : BitVec 12) (s : State) (sx : Sx) (t : Team) (iv : Invoc),
  SeqActs s sx → getTeam s sx.k = some t → getInv s t.inv = some iv →
  let q := sx.q
  let rd := fun i => readX q.th (k.toNat + i)
  let fw := (rd 6).setWidth 32
  let depth := t.target.gmaxk * (if fwAF fw ≤ 2 then 1 else if fwAF fw ≤ 6 then 2 else 4)
  let step := if fwPINT fw = 1 then 64 else if fwPINT fw = 2 then 128 else if fwBLK fw = 0 then 8 else 8 * 2 ^ fwBLK fw
  let free := ∀ a ∈ q.accs, a.st ≠ .opened
  let min3 := fun (x y z : Nat) => Nat.min (Nat.min x y) z
  let kd := step * (Nat.min (rd 2).toNat depth / step)
  let put := fun (gm gn : Nat) => { q with gm := gm, gn := gn, gk := Nat.min (if kd < step then step else kd) (rd 5).toNat, fmt := fw, cache := [] }
  (k.toNat ≤ 25 → (rd 6).toNat < 2 ^ 32 → formatWordOk fw (hasXv s sx.cn) = true →
    (free → SeqLeaves (exec (.tset k) s) s sx (put (min3 (rd 0).toNat t.target.gmaxm (rd 3).toNat) (min3 (rd 1).toNat t.target.gmaxn (rd 4).toNat))) ∧
    (¬free → SeqLeaves (exec (.tset k) s) s sx (put q.gm q.gn))) ∧
  (∃ m', SeqLeaves (exec (.tsetM k) s) s sx { q with mstat := m' } ∧ ∀ n, m'.getLsbD n =
    if n = 12 then (rd 0).getLsbD 12 else if 1 ≤ n ∧ n ≤ 4 ∨ 8 ≤ n ∧ n ≤ 11 then q.mstat.getLsbD n && !(rd 0).getLsbD n else q.mstat.getLsbD n) ∧
  (∀ r ∈ [(0x009, toksWord q.th), (0x00A, BitVec.ofNat 64 s.clk), (0x012, BitVec.ofNat 64 t.tidx), (0x013, BitVec.ofNat 64 (t.tidx % iv.gang)),
      (0x014, classWord t.target), (0x015, BitVec.ofNat 64 t.target.gmaxm), (0x016, BitVec.ofNat 64 t.target.gmaxn),
      (0x017, BitVec.ofNat 64 t.target.gmaxk), (0x040, BitVec.ofNat 64 q.gm), (0x041, BitVec.ofNat 64 q.gn), (0x042, BitVec.ofNat 64 q.gk),
      (0x043, mstatWord q), (0x044, q.fmt.setWidth 64)], c.toNat = r.1 → SeqWrites (exec (.tget k c) s) s sx k.toNat r.2 0) ∧
  (k.toNat ≤ 28 → SeqLeaves (exec (.trec k m) s) s sx { q with m := tputD q.m m.toNat (rd 3 ++ rd 2 ++ rd 1 ++ rd 0) 0 })) ∧ (
  ∀ (c : BitVec 2) (a b m : BitVec 3) (w : BitVec 8) (l : BitVec 4) (scaled : Bool) (s : State) (sx : Sx) (t : Team),
  SeqActs s sx → getTeam s sx.k = some t → sx.q.th.pend &&& w = 0 →
  let q := acquired sx.q w
  let ac := getAcc q c
  let close := fun (q : Seq) (st : AccState) => withAcc q c { st := st, fmt := 0, kpos := 0, data := [] }
  (q.gm ≠ 0 → q.gn ≠ 0 → overCapacity sx c q.gm q.gn = false → SeqLeaves (exec (.tzero c w l) s) s sx
    { withAcc q c { st := .opened, fmt := q.fmt, kpos := 0, data := [] } with mstat := withBit q.mstat (8 + c.toNat) false }) ∧
  (let i := if scaled then Instr.tmms c a b w l else Instr.tmm c a b w l
   let ra := getRec q a
   let rb := getRec q b
   recFormatOk ra (some (fwAF q.fmt)) = true → recFormatOk rb (some (fwBF q.fmt)) = true →
   recRowsBad sx ra q.gm q.gk false false true = none → recRowsBad sx rb q.gk q.gn false false true = none →
   ac.st = .opened → sameFormat q.fmt ac.fmt = true → (scaled = true ↔ fwBLK q.fmt ≠ 0) →
   (q.gm = 0 ∨ q.gn = 0 ∨ q.gk = 0 → SeqLeaves (exec i s) s sx q) ∧
   (q.gm ≠ 0 → q.gn ≠ 0 → q.gk ≠ 0 → ∀ sx2 ta tb,
    (if scaled then fillHeaders (headerVas ra q.gm q.gk ++ headerVas rb q.gk q.gn) { sx with q := q } else ({ sx with q := q }, none)) = (sx2, none) →
    getTeam sx2.s (recTeam sx2.s sx.k ra) = some ta → getTeam sx2.s (recTeam sx2.s sx.k rb) = some tb →
    viewPoison ta ra q.gm q.gk = none → viewPoison tb rb q.gk q.gn = none →
    let el := fun (i j : Nat) => accumulate q.fmt ac.kpos ((List.range q.gk).map fun k => productF (viewValue sx2.q ta ra scaled i k) (viewValue sx2.q tb rb scaled k j)) (tgetD ac.data (i * q.gn + j) 0)
    let sat := ∃ i j, i < q.gm ∧ j < q.gn ∧ (el i j).2 = true
    (sat → q.mstat.getLsbD 12 = false) → ∃ data m', (∀ i j, i < q.gm → j < q.gn → tgetD data (i * q.gn + j) 0 = (el i j).1) ∧
      (∀ n, q.gm * q.gn ≤ n → tgetD data n 0 = tgetD ac.data n 0) ∧ (sat → m' = withBit q.mstat (8 + c.toNat) true) ∧ (¬sat → m' = q.mstat) ∧
      SeqLeaves (exec i s) sx2.s sx { withAcc sx2.q c { ac with kpos := ac.kpos + q.gk, data := data } with mstat := m' })) ∧
  (let r := getRec q m
   let o := recOffset r
   recFormatOk r none = true → recRowsBad sx r 0 0 true false false = none → o % 64 = 0 →
   (ac.st = .opened → 64 + 4 * q.gm * q.gn ≤ recExtent r → ∃ s1, SpadTakes s s1 sx.k o (accImage q c ac) ∧
     SeqLeaves (exec (.tsave c m w l) s) s1 sx (close q .saved)) ∧
   (let h := spadBytes t o 64
    let rows := frameNat h 2 2
    let cols := frameNat h 4 2
    imageOk h (hasXv s sx.cn) = true → 1 ≤ rows → rows ≤ 128 → 1 ≤ cols → cols ≤ 256 → 64 + 4 * rows * cols ≤ recExtent r →
    (othersOpen q c = 0 → rows ≤ t.target.gmaxm ∧ cols ≤ t.target.gmaxn) → (othersOpen q c ≠ 0 → rows = q.gm ∧ cols = q.gn) →
    overCapacity sx c rows cols = false → (∀ u ∈ spadUnits o 64 ++ spadUnits (o + 64) (4 * rows * cols), u ∉ t.spadPoison) →
    ∃ data, (∀ n, n < rows * cols → tgetD data n 0 = BitVec.ofNat 32 (bytesNat (spadBytes t (o + 64 + 4 * n) 4))) ∧ (∀ n, rows * cols ≤ n → tgetD data n 0 = 0) ∧
      SeqLeaves (exec (.trestore c m w l) s) s sx { withAcc q c { st := .opened, fmt := BitVec.ofNat 32 (frameNat h 8 4), kpos := frameNat h 0xC 4, data := data } with gm := rows, gn := cols, mstat := withBit q.mstat (8 + c.toNat) (decide (frameNat h 0x10 4 = 1)) })) ∧
  (let r := getRec q m
   let bw := fmtWidth (recFmt r)
   let bx := boxOf r q.gm q.gn
   recFormatOk r none = true → recRowsBad sx r q.gm q.gn true false true = none → ac.st = .opened → recFmt r ≤ 4 →
   let cv := fun (i j : Nat) => convAcc q.fmt (recFmt r) (tgetD ac.data (i * q.gn + j) 0)
   ∃ s1 y, TeamOnly s s1 sx.k ∧ getTeam s1 sx.k = some y ∧ { y with spad := t.spad } = t ∧
     (∀ i j n, i < bx.1 → j < bx.2 → n < bw → (∀ i' j', i < i' → i' < bx.1 → j' < bx.2 → recBit r bw i j + n < recBit r bw i' j' ∨ recBit r bw i' j' + bw ≤ recBit r bw i j + n) →
       spadBits y (recBit r bw i j + n) 1 = bits (cv i j).1 n 1) ∧
     (∀ n, (∀ i j, i < bx.1 → j < bx.2 → n < recBit r bw i j ∨ recBit r bw i j + bw ≤ n) → spadBits y n 1 = spadBits t n 1) ∧
     let q1 := { q with mstat := mstatOr q.mstat ((pairsOf bx.1 bx.2).map fun e => (cv e.1 e.2).2) }
     SeqLeaves (exec (.tcvt c m w l) s) s1 sx q1 ∧ SeqLeaves (exec (.tcvtC c m w l) s) s1 sx (close q1 .closed)))

/-- R357, R358, R140: TLD, TST and TST.C under a free token: the operation holds the box's elements in ascending order of destination, TST
converts them at issue, and TST.C closes the accumulator. -/
def Obligations.TileTransfers : Prop := ∀ (m t : BitVec 3) (k : BitVec 5) (c : BitVec 2) (l : BitVec 4) (s : State) (sx : Sx),
  SeqActs s sx → sx.q.th.pend.getLsbD t.toNat = false →
  let q := sx.q
  let r := getRec q m
  let fmt := recFmt r
  let base := readX q.th k.toNat
  (let box := if c = 0 then (q.gm, q.gk) else if c = 1 then (q.gk, q.gn) else (q.gm, q.gn)
   let bx := boxOf r box.1 box.2
   c ≠ 3 → recFormatOk r (if c = 0 then some (fwAF q.fmt) else if c = 1 then some (fwBF q.fmt) else none) = true →
   recRowsBad sx r box.1 box.2 false true true = none → ∃ cells, Cells cells bx (fun i j => (i, j)) (fun e => recBit r (fmtWidth fmt) e.1 e.2) ∧
     SeqStarts (exec (.tld m t k c l) s) s sx q t (bx.1 * bx.2) (.tld r base fmt cells (decide (c.toNat < 2 ∧ recSbase r ≠ 0)))) ∧
  (let ac := getAcc q c
   let bx := boxOf r q.gm q.gn
   let acc := fun (i j : Nat) => tgetD ac.data (i * q.gn + j) 0
   recFormatOk r none = true → fmt ≤ 7 → ac.st = .opened →
   let stores := fun (q1 : Seq) (n : Nat) (kind : EngKind) => SeqStarts (exec (.tst m t k c l) s) s sx q1 t n kind ∧
     SeqStarts (exec (.tstC m t k c l) s) s sx (withAcc q1 c { st := .closed, fmt := 0, kpos := 0, data := [] }) t n kind
   (fmt < 3 ∨ recSbase r = 0 →
     let cv := fun (i j : Nat) => convAcc q.fmt fmt (acc i j)
     ∃ vals, Cells vals bx (fun i j => (recElem r i j, (cv i j).1)) (·.1) ∧
       stores { q with mstat := mstatOr q.mstat ((pairsOf bx.1 bx.2).map fun e => (cv e.1 e.2).2) } (bx.1 * bx.2) (.tst r base fmt vals [])) ∧
   (3 ≤ fmt → recSbase r ≠ 0 → 4 ≤ recShift r → recShift r ≤ 6 → ∃ es, Cells es bx (fun i j => (recElem r i j, acc i j)) (·.1) ∧
     let z := quantTst q.fmt fmt (recShift r) es
     stores { q with mstat := mstatOr q.mstat [z.2.2] } (bx.1 * bx.2 + z.2.1.length) (.tst r base fmt z.1 z.2.1)))

/-- R75, R80 to R83, R345, R346, R348: the queue instructions: the order of R346, statuses OK, FULL, CLOSED or DISABLED, EMPTY and BAD-KIND, the
record moved, the indices and mirror cell advanced; QINFO. R86 to R88, R347: LAUNCH and LAUNCH.T: FULL while no number is free; else OK with the lowest free number, and the record's invocation: in
DISPATCHABLE where it passes every check (it names no handle to wait for), FAULTED where it fails one. -/
def Obligations.QueueAndLaunch : Prop := (
  ∀ (d a q : BitVec 6) (l : BitVec 4) (s : State) (cx : Cx) (c : Ctx) (t : Team), CtlActs s cx → cx.g.txn = none →
  getCtx s cx.cn = some c → getTeam s cx.k = some t →
  let x := getQueue c q.toNat
  let clu := t.target.cluster
  let kind := fun (i : Instr) (ok : Prop) (P : Prop) => (ok → P) ∧ (¬ok → CtlWrites (exec i s) s cx cx.g d.toNat 4 l.toNat)
  kind (.qpush d a q l) (qKind x ≠ 2) (Pushes (.qpush d a q l) s cx d a q l x 0) ∧
  kind (.spawn d a q l) (qKind x = 2) (Pushes (.spawn d a q l) s cx d a q l x clu) ∧
  kind (.qpop d a q l) (qKind x ≠ 0) ((qKind x = 2 → Takes (.qpop d a q l) s cx d a q l x clu clu true) ∧
    (qKind x ≠ 2 → Takes (.qpop d a q l) s cx d a q l x 0 0 false)) ∧
  kind (.qsteal d a q l) (qKind x = 2) (
    let ours := fun k => (tget s.clusters k).bind (·.part) = some c.part ∧ qCount x k ≠ 0
    (∀ j, j < 47 → ours ((clu + 1 + j) % 48) → (∀ j', j' < j → ¬ours ((clu + 1 + j') % 48)) → x.st ≠ .disabled →
      Takes (.qsteal d a q l) s cx d a q l x ((clu + 1 + j) % 48) 0 false) ∧
    ∀ s1, (readX cx.g.th a.toNat).toNat % 16 = 0 → unitsFit (asker cx) (2 ^ qSsz x / 8) s (readX cx.g.th a.toNat) = some s1 →
      (x.st = .disabled → CtlWrites (exec (.qsteal d a q l) s) s1 cx cx.g d.toNat 2 l.toNat) ∧
      (x.st ≠ .disabled → (∀ j, j < 47 → ¬ours ((clu + 1 + j) % 48)) → CtlWrites (exec (.qsteal d a q l) s) s1 cx cx.g d.toNat 3 l.toNat)) ∧
  CtlWrites (exec (.qinfo d q l) s) s cx cx.g d.toNat (BitVec.ofNat 64 ((match x.st with | .disabled => 0 | .opened => 1 | .full => 2 | .draining => 3 | .closed => 4) +
    2 ^ 3 * qKind x + 2 ^ 5 * qPrio x + 2 ^ 8 * qLogn x + 2 ^ 16 * qCount x (if qKind x = 2 then clu else 0))) l.toNat) ∧ (
  ∀ (d a : BitVec 6) (l : BitVec 4) (tile : Bool) (s : State) (cx : Cx) (c : Ctx) (t : Team), CtlActs s cx → cx.g.txn = none →
  getCtx s cx.cn = some c → getTeam s cx.k = some t → a.toNat % 2 = 0 → 2 ≤ a.toNat → a.toNat ≤ 56 → s.hub.rebuilding = false →
  let i := if tile then Instr.launchT d a l else Instr.launch d a l
  let rd := fun k => readX cx.g.th (a.toNat + k)
  let rec' := setBit (packBits (fun k => (rd k).toNat) 64 0 8) 1 tile
  (freeInv s c.part = none → CtlWrites (exec i s) s cx cx.g d.toNat 1 l.toNat) ∧
  ∀ num, freeInv s c.part = some num →
    let ik := invKey c.part num
    let s0 := { s with arb := s.arb + 1 }
    let iv0 := recordInvoc cx.cn rec' tile [] t.prio (s.arb + 1) (findKernel c (field rec' 1 1) (field rec' 2 1))
    let answers := fun (s1 : State) => CtlWrites (exec i s) s1 cx cx.g d.toNat (BitVec.ofNat 64 (num * 2 ^ 16)) l.toNat
    (∀ s1 n o kn, badRecord s0 cx.cn c rec' iv0 = false → findKernel c (field rec' 1 1) (field rec' 2 1) = some (o, kn) → rd 2 = 0 → rd 3 = 0 →
      (if tile then tileCount s0 cx.cn iv0.tbase = (s1, some n) else s1 = s0 ∧ n = iv0.teams) → noFit s1 ik { iv0 with teams := n } = false →
      ∃ iv, answers (trackNow { openJob s1 cx.cn iv.job with invs := tput s1.invs ik iv } cx.cn) ∧ Launched iv rd tile cx.cn t.prio (s.arb + 1) o kn ∧ iv.st = .dispatchable ∧ iv.teams = n) ∧
    ((checkRecord s0 ik cx.cn c rec' [] iv0).2.1 ≠ 0 → ∃ s1 iv, answers s1 ∧ getInv s1 ik = some iv ∧ iv.st = .faulted ∧ iv.ctx = cx.cn ∧ iv.kind = .launch))

/-- R365, R366, R368: the access forms of the heap, where the barrier passes and nothing faults: HLD and HLDD load, HST and HSTD store and set
or clear the reference bit, the vector forms do so for each element. R209, R216, R217: the load barrier outside a transaction, by what the region table says of a value (log entry 30), and the bound and header checks behind it, the header loaded like any other
word, a poisoned PIN consumed (log entry 96). -/
def Obligations.HeapAccess : Prop := (
  ∀ (h a : BitVec 4) (d v b : BitVec 6) (im : BitVec 8) (l : BitVec 4),
  let off := 8 * im.toNat
  (∀ s cx, CtlActs s cx → cx.g.txn = none → HasHeap s cx →
    let x := readH cx.g a.toNat
    let bitIs := fun (t : State) (va : Nat) (on : Bool) => ∃ c, getCtx t cx.cn = some c ∧ (tget c.heap.refBits (va / 8)).isSome = on
    (∀ c1 y, heapRead cx x (.reg a.toNat) off 0 true true = some (c1, y) → HWrites (exec (.hld h a im l) s) c1.s cx c1.g h.toNat (BitVec.ofNat 64 y) l.toNat) ∧
    (∀ c1 y, heapRead cx x (.reg a.toNat) off 0 false true = some (c1, y) → CtlWrites (exec (.hldd d a im l) s) c1.s cx c1.g d.toNat (BitVec.ofNat 64 y) l.toNat) ∧
    (∀ c1 z va c2 ref c3 lc, addrObject cx x (.reg a.toNat) off 0 true true = .at c1 va →
      barrier 0 barrierFuel c1 (readH c1.g h.toNat) (.reg h.toNat) = .val c2 z ref → heapPlace c2 va .write 0 = .at c3 lc →
      ∃ t, CtlLeaves (exec (.hst h a im) s) t cx c3.g ∧ DeviceKept c3.s t ∧ Stored c3.s t lc 8 z.toNat ∧ bitIs t va true) ∧
    (∀ c1 va c2 lc, addrObject cx x (.reg a.toNat) off 0 true true = .at c1 va → heapPlace c1 va .write 0 = .at c2 lc →
      ∃ t, CtlLeaves (exec (.hstd d a im) s) t cx c2.g ∧ DeviceKept c2.s t ∧ Stored c2.s t lc 8 (readX c1.g.th d.toNat).toNat ∧ bitIs t va false)) ∧
  HeapLoads (.vhld v b im l) v b off l true ∧ HeapLoads (.vhldd v b im l) v b off l false ∧
  (let P := fun (cx : Cx) (g' : Group) => g'.v = cx.g.v ∧ g'.p = cx.g.p ∧ g'.fcsr = cx.g.fcsr ∧ g'.slots = cx.g.slots
   let covers := fun (t u : State) => { u with poison := t.poison } = t ∧ ∀ l ∈ u.poison, l ∈ t.poison
   (∀ s cx c ps, CtlFree s cx → HasHeap s cx → HeapVec cx [v, b] [] b → heapWriteAll cx v.toNat b.toNat off (toDo cx) cx = some (c, ps) →
     MemOutside s c.s ps ∧ ∃ u, covers c.s u ∧ VecDone (exec (.vhstd v b im) s) u cx cx.g 0 (P cx)) ∧
   (∀ s cx bs pc c ps, BlkActs s cx bs pc → HasHeap s cx → HeapVec cx [v, b] [] b → heapWriteAll cx v.toNat b.toNat off (toDo cx) cx = some (c, ps) →
     MemOutside s c.s ps ∧ ∃ u, covers c.s u ∧ BlkDone (exec (.vhstd v b im) s) u (leftBy c.s cx) bs pc (P (leftBy c.s cx))))) ∧ (
  ∀ (e n : Nat) (cx : Cx) (c : Ctx) (x : Word) (slot : HSlot), getCtx cx.s cx.cn = some c → cx.g.txn = none →
  let h := c.heap
  let base := fun g => h.heapva.toNat + g * 2 ^ 21
  let a := (x &&& 0x01FFFFFFFFFFFFFF).toNat
  let gen := x.toNat / 2 ^ 58 % 16
  let b := barrier e (n + 1) cx x slot
  let isRef := x.toNat / 2 ^ 62 = 1
  let traps := fun (kind : Nat) => b = .bad cx (.trap 6 (heapValue kind e))
  (¬isRef → b = .val cx x none) ∧
  (isRef → x.getLsbD 57 = true ∨ a % 16 ≠ 0 → traps 1) ∧
  (isRef → x.getLsbD 57 = false → a % 16 = 0 →
    (h.enabled = false ∨ a < base 0 ∨ base h.heapn.toNat ≤ a → traps 4) ∧
    ∀ g, h.enabled = true → g < h.heapn.toNat → base g ≤ a → a < base (g + 1) →
      let r := getRegion h g
      let moving := r.st = .evacuating ∨ r.st = .relocated
      (r.st = .free → traps 4) ∧ (r.st ≠ .free → gen = r.gen → b = .val cx x (some a)) ∧
      (r.st ≠ .free → gen ≠ r.gen → ¬moving ∨ gen ≠ (r.gen + 15) % 16 ∨ tget r.fwd (a - base g) = none → traps 4) ∧
      (∀ f, gen ≠ r.gen → moving → gen = (r.gen + 15) % 16 → tget r.fwd (a - base g) = some f →
        (f.st = .dropped → traps 5) ∧
        (f.st = .copied → let y := makeRef f.newGen f.newAddr; b = barrier e n (healSlot cx slot x y) y slot) ∧
        (f.st = .copying → ∃ s1, b = .bad { cx with s := s1 } .stay ∧ { s1 with arb := cx.s.arb, ctxs := cx.s.ctxs } = cx.s) ∧
        (f.st = .notCopied → let pin := if tampered cx.s c (a + 4) then some 0 else pinOf cx.s c.root a
          (pin = some 0 → ∃ s1, b = .bad { cx with s := s1 } .stay ∧ { s1 with arb := cx.s.arb, ctxs := cx.s.ctxs, teams := cx.s.teams } = cx.s) ∧
          (pin = none → ∃ s1, b = .bad { cx with s := s1 } (.trap 0x10 (BitVec.ofNat 64 a)) ∧ { s1 with teams := cx.s.teams } = cx.s) ∧
          ∀ p, pin = some (p + 1) → ∃ s1, b = .val { cx with s := s1 } x (some a) ∧ { s1 with teams := cx.s.teams } = cx.s))) ∧
  (∀ off store first cx1 y hdr cx2 lc, barrier e barrierFuel cx x slot = .val cx1 y (some hdr) → heapPlace cx1 hdr .read e = .at cx2 lc →
    let slow := match lc with | .glob _ _ leaf => leaf.getLsbD 4 | _ => false
    let cx3 := { cx2 with s := (locLoad cx2.s lc 4).1 }
    addrObject cx x slot off e store first = if slow && !first then .spec
      else if poisoned cx2.s lc 4 then .bad cx2 (.trap 0x10 (BitVec.ofNat 64 hdr))
      else if locRead cx2.s lc 4 < off then .bad cx3 (.trap 6 (heapValue 2 e))
      else if store ∧ off < 8 then .bad cx3 (.trap 6 (heapValue 3 e)) else .at cx3 (hdr + off)))

/-- R210, R213, R214, R223, R224, R227, R367: HALLOC places an object, zeroed, its header holding SIZE, or gives the null reference; HPIN and
HUNPIN take and give back a hall pass and count PIN, A and D set in the leaf it lies behind (R195), a poisoned one left alone (log entry 96); HCMP compares objects. -/
def Obligations.HeapManage : Prop := ∀ (f d : BitVec 6) (h a l : BitVec 4) (s : State) (cx : Cx) (c : Ctx), CtlActs s cx → cx.g.txn = none →
  getCtx s cx.cn = some c → hasFeature c 3 = true →
  let hp := c.heap
  let size := Nat.max 8 (((readX cx.g.th f.toNat).toNat + 7) / 8 * 8)
  let bound := if hp.enabled then hp.hapva else 0
  (hp.enabled = false ∨ 2097144 < size ∨ allocPlace hp size = none → HWrites (exec (.halloc f h l) s) s cx cx.g h.toNat 0 l.toNat) ∧
  (∀ g off s1 ps, hp.enabled = true → size ≤ 2097144 → allocPlace hp size = some (g, off) →
    let va := hp.heapva.toNat + g * 2 ^ 21 + off
    let at' := (ps.head?.map (·.2.1)).getD 0
    va % 8 = 0 → writeSpan (asker cx) 514 s va (8 + size) [] = (s1, .inl ps) → (∀ p ∈ ps, dirtyAt s1 (coreOf s1 cx.k) cx.cn p.1 = s1) →
    ∃ t ct, HWrites (exec (.halloc f h l) s) t cx cx.g h.toNat (makeRef (getRegion hp g).gen va) l.toNat ∧
      { t with mem := s1.mem, poison := s1.poison, tlb := s1.tlb, teams := s1.teams, ctxs := s1.ctxs } = s1 ∧
      readNat t.mem at' 8 = size ∧ (∀ p ∈ ps, ∀ b, p.2.1 ≤ b → b < p.2.1 + p.2.2 → Outside at' 8 b → readByte t.mem b = 0) ∧
      (∀ b, (∀ p ∈ ps, Outside p.2.1 p.2.2 b) → readByte t.mem b = readByte s1.mem b) ∧
      getCtx t cx.cn = some ct ∧ { ct.heap with refBits := hp.refBits } = { allocRecord hp size g off with refBits := hp.refBits } ∧
      ∀ w, va / 8 ≤ w → w < (va + 8 + size) / 8 → tget ct.heap.refBits w = none) ∧
  (∀ c1 y hdr c2 pa gva leaf n, barrier 0 barrierFuel cx (readH cx.g a.toNat) (.reg a.toNat) = .val c1 y (some hdr) →
    heapPlace c1 hdr .read 0 = .at c2 (.glob pa gva leaf) → n < 16 → tget c2.g.pins n = none → (∀ m, m < n → (tget c2.g.pins m).isSome = true) →
    poisoned c2.s (.glob pa gva leaf) 8 = false →
    let header := readNat c2.s.mem pa 8
    let pin := header / 2 ^ 32 % 2 ^ 16
    pin < 65535 → (dirtyAt c2.s (coreOf c2.s cx.k) cx.cn hdr).mem = c2.s.mem → ∃ u, PinBecomes c2.s u (pa + 4) (pin + 1) ∧
      CtlWrites (exec (.hpin d a l) s) u cx { c2.g with pins := tput c2.g.pins n (hdr, header % 2 ^ 32) } d.toNat (bound + BitVec.ofNat 64 (n * 2 ^ 21)) l.toNat) ∧
  (∀ n hdr sz pa leaf va len at', n < 16 → (readX cx.g.th f.toNat - bound).toNat / 2 ^ 21 = n → tget cx.g.pins n = some (hdr, sz) → tampered s c (hdr + 4) = false →
    peek (tables s) c.root (hdr + 4) = some (pa, leaf) → walk (tables s) c.root (hdr + 4) = .leaf va len at' leaf →
    let set := orEntry s at' 0x300
    ∃ u, (poisonIn s pa 2 = false → PinBecomes set u pa (readNat set.mem pa 2 - 1)) ∧ (poisonIn s pa 2 = true → { u with teams := s.teams } = s) ∧
      CtlLeaves (exec (.hunpin f) s) u cx { cx.g with pins := tdel cx.g.pins n }) ∧
  (let names := fun (x : Word) => match lookRef hp x with
     | .raw => some x.toNat
     | .fast p => some p
     | .entry _ _ e => some (if e.st = .dropped then refAddr x else e.newAddr)
     | _ => none
   ∀ p q, names (readH cx.g h.toNat) = some p → names (readH cx.g a.toNat) = some q →
     CtlWrites (exec (.hcmp d h a l) s) s cx cx.g d.toNat (if p = q then 1 else 0) l.toNat)

/-- R232, R233, R238, R243, R246, R369 to R371: MSEND counts INJ, takes the next SEQ and keeps the message, or declares it lost at once; WQUIET
parks behind a wave of its job; MCOUNT reads INJ and CON. -/
def Obligations.MessageInstr : Prop := ∀ (v a d : BitVec 6) (s : State) (cx : Cx) (c : Ctx) (iv : Invoc) (j : Job), CtlFree s cx → getCtx s cx.cn = some c → hasFeature c 4 = true →
  invOf s cx.k = some iv →
  let x := (readX cx.g.th a.toNat).toNat
  (let dst := x % 2 ^ 13
   let len := x / 2 ^ 24 % 2 ^ 5
   let key := dst * 65536 + iv.job
   let seq := tgetD s.sendSeq key 0
   let m : Msg := { dst := dst, src := thisDevice, job := iv.job, hidx := x / 2 ^ 16 % 2 ^ 8, len := len, seq := seq % 2 ^ 32, payload := natBytes (vecImage cx v.toNat 0) (8 * len) }
   let s1 := { s with sendSeq := tput s.sendSeq key (seq + 1), jobs := tmod s.jobs iv.job fun j => { j with inj := j.inj + 1, dirty := true } }
   x / 2 ^ 13 % 2 ^ 3 = 0 → x < 2 ^ 29 → len ≤ 30 → v.toNat < nvCount cx.g → 64 * len ≤ vlmax cx.kn cx.g * elemWidth cx.g → iv.job ≠ 0 →
   let full := tget s.jobs iv.job = none ∨ 4096 ≤ s.unacked.countP fun u => u.msg.dst = dst
   (full → exec (.msend v a) s = .next (putGroup s cx.k cx.i { cx.g with th := { cx.g.th with run := .running, stalled := true } })) ∧
   (¬full → tget s.jobs iv.job = some j →
   let lost := Config.deviceAssigned dst = false ∨ dst ∈ s.hub.lost
   (lost → CtlLeaves (exec (.msend v a) s) (repaired s1 m j) cx cx.g) ∧
   (¬lost → (s.links.map (·.1)).Nodup → ∃ s2, CtlLeaves (exec (.msend v a) s) s2 cx cx.g ∧ Flowed { s1 with unacked := s1.unacked ++ [{ msg := m, resent := false, queried := false, stranded := false }] } s2))) ∧
  (x < 2 ^ 16 → x ≠ 0 → tget s.jobs x = some j → j.ctx = cx.cn → ∃ t, exec (.wquiet a) s = .next t ∧
    ButGroup (if (tget s.waves x).isSome then s else { s with waveNo := s.waveNo + 1, waves := tput s.waves x { id := s.waveNo + 1, i1 := 0, c1 := 0, i2 := 0, c2 := 0, d := false, first := [], second := [], ok := true } }) t cx.k cx.i ∧
    getGroup t cx.k cx.i = some { cx.g with th := { cx.g.th with run := .waitQuiet x s.waveNo, word := encode (.wquiet a) } }) ∧
  (d ≠ 0 → d.toNat % 2 = 0 → x < 2 ^ 16 →
    let ours := (tget s.jobs x).bind fun j => if j.ctx = cx.cn then some (j.inj, j.con) else none
    CtlDone (exec (.mcount d a) s) s cx.k cx.i (cx.g.th.pc + 4) fun g' => GroupRest cx.g g' ∧
      readX g'.th d.toNat = (ours.map (·.1)).getD 0 ∧ readX g'.th (d.toNat + 1) = (ours.map (·.2)).getD 0 ∧
      rawX g'.th d.toNat = (ours.map (·.1)).getD 0 ∧ rawX g'.th (d.toNat + 1) = (ours.map (·.2)).getD 0 ∧
      ∀ n, n ≠ d.toNat → n ≠ d.toNat + 1 → rawX g'.th n = rawX cx.g.th n ∧ (cx.g.th.wins = [] → readX g'.th n = readX cx.g.th n))

/-- R187 to R190, R343, R344: TXB opens a transaction with a snapshot, loads read its own writes, stores are kept aside, TXE makes them visible, TXA, a
second TXB, a ninth line, a disallowed instruction and a conflicting access abort, that of another transaction and any that is none's own: of the group's block (log entry 77), a page
walk, a fetch, an engine, the device, the host. The reference bits follow the stores in program order (R215). -/
def Obligations.Transactions : Prop := ∀ (o : BitVec 24) (c : BitVec 8) (d a : BitVec 6) (im7 : BitVec 7) (im11 : BitVec 11) (l : BitVec 4) (s : State) (cx : Cx),
  CtlActs s cx → (∃ ct, getCtx s cx.cn = some ct ∧ hasFeature ct 5 = true) →
  (cx.g.txn = none → CtlLeaves (exec (.txb o) s) s cx { cx.g with txs := 1, txn := some { abort := ahead cx.g.th.pc o, wins := cx.g.th.wins, x := cx.g.th.x, h := cx.g.h, fcsr := cx.g.fcsr, readLines := [], writeLines := [], writes := [], stores := [], regions := [], staged := [] } }) ∧
  ∀ x, cx.g.txn = some x →
    Aborts (exec (.txa c) s) s cx x 7 c.toNat ∧ Aborts (exec (.txb o) s) s cx x 9 0 ∧
    (∀ i ∈ [Instr.yield, .eret, .trap (c.setWidth 18), .clock d, .fence 1, .wquiet a, .qinfo d a l, .splk d a, .binit 0 a, .tset 0, .tzero 0 0 0, .tmm 0 0 0 0 0], Aborts (exec i s) s cx x 8 0) ∧
    (x.staged.foldl dirtyLeaf s = s → ∃ s1, CtlLeaves (exec .txe s) s1 cx { cx.g with txn := none, txs := BitVec.ofNat 64 (256 * (txnLines x).length) } ∧
      DeviceKept s s1 ∧ (∀ p, p < 2 ^ 52 → (∀ e ∈ x.writes, e.1 < 2 ^ 52) → readByte s1.mem p = (x.writes.reverse.find? fun e => e.1 = p).elim (readByte s.mem p) (·.2)) ∧
      ∀ n ct, getCtx s n = some ct → ∃ ct', getCtx s1 n = some ct' ∧ { ct' with heap := { ct'.heap with refBits := ct.heap.refBits } } = ct ∧
        ∀ w, let own := decide (n = cx.cn)
          let meets := fun (e : Nat × Nat × Nat × Bool) => (match peek (tables s1) ct.root (8 * w) with | some (p, _) => decide (p < e.1 + e.2.1) && decide (e.1 < p + 8) | none => false) ||
            own && decide (e.2.1 ≠ 0) && decide (e.2.2.1 / 8 ≤ w) && decide (w ≤ (e.2.2.1 + e.2.1 - 1) / 8)
          tget ct'.heap.refBits w = x.stores.foldl (fun b e => if own && e.2.2.2 && decide (e.2.2.1 / 8 = w) then some true else if meets e then none else b) (tget ct.heap.refBits w)) ∧
    (∀ s1 pa va leaf, resolve s (asker cx) (readX cx.g.th a.toNat + im7.signExtend 64 * BitVec.ofNat 64 8) 8 .read 0 = (s1, .at (.glob pa va leaf)) →
      leaf.getLsbD 5 = false → leaf.getLsbD 11 = false → poisoned s1 (.glob pa va leaf) 8 = false →
      let lines := if pa / 64 ∈ x.readLines then x.readLines else x.readLines ++ [pa / 64]
      let i := Instr.ldd d a im7 l
      ((txnLines { x with readLines := lines }).length ≤ 8 → ∃ rs, CtlWrites (exec i s) (snoop s1 cx.k cx.i (pa / 64) false) cx { cx.g with txn := some { x with readLines := lines, regions := rs } } d.toNat
        (BitVec.ofNat 64 (bytesNat ((List.range 8).map fun j => (tget x.writes (pa + j)).getD (readByte s1.mem (pa + j))))) l.toNat) ∧
      (8 < (txnLines { x with readLines := lines }).length → Aborts (exec i s) s1 cx x 2 0)) ∧
    (∀ s1 pa va leaf, resolve s (asker cx) (readX cx.g.th a.toNat + im11.signExtend 64 * BitVec.ofNat 64 8) 8 .stage 0 = (s1, .at (.glob pa va leaf)) →
      leaf.getLsbD 5 = false → leaf.getLsbD 11 = false →
      let lines := if pa / 64 ∈ x.writeLines then x.writeLines else x.writeLines ++ [pa / 64]
      (txnLines { x with writeLines := lines }).length ≤ 8 → ∃ rs ws ds, (∀ y, cachedLeaf s1 (coreOf s1 cx.k) cx.cn va = some y → y ∈ ds) ∧ (∀ y ∈ x.staged, y ∈ ds) ∧ CtlLeaves (exec (.std d a im11) s) (snoop s1 cx.k cx.i (pa / 64) true) cx
        { cx.g with txn := some { x with writeLines := lines, regions := rs, writes := ws, stores := x.stores ++ [(pa, 8, va, false)], staged := ds } } ∧
        ∀ p, tget ws p = if pa ≤ p ∧ p < pa + 8 then some (BitVec.ofNat 8 ((readX cx.g.th d.toNat).toNat / 2 ^ (8 * (p - pa)))) else tget x.writes p) ∧
    (∀ k i line w, (k, i) ≠ (cx.k, cx.i) → getGroup (snoop s k i line w) cx.k cx.i =
      if line ∈ x.writeLines ∨ (w = true ∧ line ∈ x.readLines) then some (abortTxn cx.g 1 0) else some cx.g) ∧
    ∀ pa n w, getGroup (snoopRange s pa n w) cx.k cx.i =
      if ∃ line ∈ txnLines x, (line ∈ x.writeLines ∨ (w = true ∧ line ∈ x.readLines)) ∧ pa < 64 * line + 64 ∧ 64 * line < pa + n then some (abortTxn cx.g 1 0) else some cx.g

/-- R119, R262, R263, R291 to R300, R379: the system instructions where they complete: NOP and the hints do nothing in any stream, TRAP 0 retires the
group, YIELD leaves it READY, CLOCK reads the clock, FENCE, ICSYNC, PREFI and a passing SIGCHK go on, BRK stops the group under BRKON, an
extension word parks for its emulation or runs from the microcode (which words those are, and what they do, is free: log entry 9). BRK under BRKON stays READY where it
stands, its word held (log entry 64); FENCE and ICSYNC find nothing left to order (log entry 2). -/
def Obligations.System : Prop := ∀ (d a b q : BitVec 6) (f : BitVec 8) (m : BitVec 2) (o k4 : BitVec 4) (c3 : BitVec 3) (pl : BitVec 16) (v : BitVec 24),
  NoEffect .nop ∧ NoEffect (.hintPrefd q pl) ∧ NoEffect (.hintBrlikely pl) ∧ NoEffect (.hint q k4 pl) ∧
  (∀ s cx bs pc, BlkActs s cx bs pc → (∃ c, getCtx s cx.cn = some c ∧ hasFeature c 9 = true) →
    BlkDone (exec (.sigchk v) s) s cx bs pc fun g' => g'.v = cx.g.v ∧ g'.p = cx.g.p ∧ g'.fcsr = cx.g.fcsr ∧ g'.slots = cx.g.slots) ∧
  ∀ s cx c iv, CtlActs s cx → cx.g.txn = none → getCtx s cx.cn = some c → invOf s cx.k = some iv →
    (cx.g.block = none → (∀ x y z u w e, iv.kind ≠ .handler x y z u w e) → ∃ t g', exec (.trap 0) s = .next t ∧ ButGroup (unpinAll s cx.cn cx.g) t cx.k cx.i ∧
      getGroup t cx.k cx.i = some g' ∧ Retires cx.g g') ∧
    (∃ t g', exec .yield s = .next t ∧ ButGroup s t cx.k cx.i ∧ getGroup t cx.k cx.i = some g' ∧ g'.th.pc = cx.g.th.pc + 4 ∧ g'.th.run = .ready ∧ GroupRest cx.g g' ∧ XKept cx.g.th g'.th 0) ∧
    CtlWrites (exec (.clock d) s) s cx cx.g d.toNat (BitVec.ofNat 64 s.clk) 0 ∧
    (o ≠ 0 → CtlLeaves (exec (.fence o) s) s cx cx.g) ∧ (c3.toNat ≤ 4 → cx.g.block = none → CtlLeaves (exec (.icsync c3) s) s cx cx.g) ∧ CtlLeaves (exec (.prefi a) s) s cx cx.g ∧
    (c.brkOn = false → CtlLeaves (exec (.brk v) s) s cx cx.g) ∧
    (c.brkOn = true → ∃ t, exec (.brk v) s = .next t ∧ ButGroup s t cx.k cx.i ∧ getGroup t cx.k cx.i =
      some { cx.g with th := { cx.g.th with run := .ready, halted := true, haltReq := false, epc := cx.g.th.pc, word := encode (.brk v) } }) ∧
    (hasFeature c 9 = true →
      let fold := bits cx.g.siga.toNat 0 24 ^^^ bits cx.g.siga.toNat 24 24 ^^^ bits cx.g.siga.toNat 48 16
      (kflag cx.kn 3 = false → CtlLeaves (exec (.sigchk v) s) s cx cx.g) ∧
      (kflag cx.kn 3 = true → cx.g.block = none → fold = v.toNat → CtlDone (exec (.sigchk v) s) s cx.k cx.i (cx.g.th.pc + 4) fun g' => GroupRest cx.g g' ∧ XKept cx.g.th g'.th 0 ∧ g'.siga = 0) ∧
      (kflag cx.kn 3 = true → cx.g.block ≠ none → exec (.sigchk v) s = .next (putGroup s cx.k cx.i { cx.g with th := { cx.g.th with run := .running } })) ∧
      (kflag cx.kn 3 = true → cx.g.block = none → fold ≠ v.toNat → mayReplay s cx.k = false → Handled s cx.k → CtlTraps (exec (.sigchk v) s) s cx 7 (BitVec.ofNat 64 (fold * 2 ^ 24 + v.toNat)))) ∧
    (let i := Instr.extensionOpcode m d a b f
     let xs := (readX cx.g.th a.toNat, readX cx.g.th b.toNat, readX cx.g.th d.toNat)
     let undefined := Handled s cx.k → CtlTraps (exec i s) s cx 1 ((encode i).setWidth 64)
     (∃ t, exec i s = .next t) ∧ (s.hub.microcodeMode = false → hasFeature c 2 = false → undefined) ∧ (s.hub.microcodeMode = true → s.hub.microcode = none ∨ hasFeature c 1 = false → undefined) ∧
     (s.hub.microcodeMode = false → hasFeature c 2 = true → if Config.emulates m f = true then ∃ t, exec i s = .next t ∧ ButGroup s t cx.k cx.i ∧
       getGroup t cx.k cx.i = some { cx.g with th := { cx.g.th with run := .parkedEmul (encode i), word := encode i } } else undefined) ∧
     ∀ obj, s.hub.microcodeMode = true → s.hub.microcode = some obj → hasFeature c 1 = true → if (m, f) ∈ s.hub.store then
       ∀ s1 bs, extLoads (Config.extensionLoads obj m f s.draws xs) [] cx = .ok ({ cx with s := s1 }, bs) → match Config.extensionTrap obj m f s.draws bs xs with
         | some (cause, v) => Handled s cx.k → CtlTraps (exec i s) s1 cx (BitVec.ofNat 8 (cause.val + 1)) v
         | none => ∀ s2 ls s3, extPlaces (Config.extensionStores obj m f s.draws bs xs) [] { cx with s := s1 } = .ok ({ cx with s := s2 }, ls) →
           extStores ls { cx with s := s2 } = .val { cx with s := s3 } 0 →
           CtlWrites (exec i s) s3 cx { cx.g with fcsr := cx.g.fcsr ||| ((Config.extensionFlags obj m f s.draws bs xs).setWidth 64 <<< 3) } d.toNat (Config.extension obj m f s.draws bs xs) 0
     else undefined)

/-- R391: SIGA of a control thread: each instruction it completes, whichever it is, but SIGCHK, turns its low 48 bits left by 3 and adds its word; a
transfer taken clears them; bits 63:48 stand; CSRW SIGA is chained like any other, and a wait chains its word when it ends. -/
def Obligations.SignatureChain : Prop := ∀ (d a b r : BitVec 6) (i14 : BitVec 14) (o23 : BitVec 23) (s : State) (cx : Cx), CtlActs s cx →
  let step := fun (x : Word) (w : IWord) => x.extractLsb' 48 16 ++ ((x.extractLsb' 0 48).rotateLeft 3 ^^^ w.setWidth 48)
  let ends := fun (i : Instr) (v : Word) => ∃ t g', exec i s = .next t ∧ getGroup t cx.k cx.i = some g' ∧ g'.siga = v
  let old := cx.g.siga
  let own := fun (i : Instr) => match i with | .csrw _ _ n => n = 0x007 | .csrs _ _ n => n = 0x007 | .csrc _ _ n => n = 0x007 | .sigchk _ => True | _ => False
  (∀ i t g', isEncoded i = true → ¬ own i → exec i s = .next t → getGroup t cx.k cx.i = some g' → Completed i cx.g g' → g'.siga = step old (encode i)) ∧
  (∀ i t g', isEncoded i = true → exec i s = .next t → getGroup t cx.k cx.i = some g' → g'.th.run = .running → g'.th.pc ≠ cx.g.th.pc → g'.th.pc ≠ cx.g.th.pc + 4 →
    (cx.g.txn = none ∨ g'.txn ≠ none) → g'.siga = old.extractLsb' 48 16 ++ 0#48) ∧
  (∀ i t g', isEncoded i = true → exec i s = .next t → getGroup t cx.k cx.i = some g' → waits g'.th.run = true → g'.siga = old ∧ g'.th.word = encode i) ∧
  (∀ k a g, a ≠ 16 → getGroup s k a = some g → fld g.th.word 24 8 ≠ 0xBC#8 → (getGroup (completeWait s k a) k a).map (·.siga) = some (step g.siga g.th.word)) ∧
  (∀ i ∈ [Instr.add d a b, .sub d a b, .xor d a b, .mul d a b 0, .div d a b 0, .addi d a i14, .popc d a, .nop], ends i (step old (encode i))) ∧
  (∀ i ∈ [Instr.bra o23, .call o23], ends i (old.extractLsb' 48 16 ++ 0#48)) ∧
  ((readX cx.g.th a.toNat).toNat % 4 = 0 → ∀ i ∈ [Instr.jr a, .callr d a], ends i (old.extractLsb' 48 16 ++ 0#48)) ∧
  (cx.g.txn = none → cx.g.block = none → CtlDone (exec (.csrw d r 0x007) s) s cx.k cx.i (cx.g.th.pc + 4) fun g' => GroupRest cx.g g' ∧ XKept cx.g.th g'.th d.toNat ∧
    XWritten cx.g.th g'.th d.toNat old 0 ∧ g'.siga = step (readX cx.g.th r.toNat) (encode (.csrw d r 0x007)))

/-- R120, R261, R265, R284, R292, R301, R372, R377 to R379: taking a trap: a software trap, an illegal word or form, a missing feature, a misaligned
address or target, in a control thread, in a block and in the matrix stream; without a frame slot the team ends; a page fault parks. R293, R379 to R381: ERET of a handler: the handled agent takes the frame's writable parts and goes on at its EPC, READY or in the wait that its block's trap set aside; its slot is free and the
handler's group retired. ERET waits for a block of its own group, but is illegal at once in a group of no handler (log entry 98). Log entries 15 (the sections of a frame end to
end), 69 (the strided form with BOFF), 94 and 95 (traps in a block). -/
def Obligations.TrapsAndReturn : Prop := (
  ∀ (c : BitVec 18) (w : BitVec 32) (d a : BitVec 6) (k5 : BitVec 5) (p : BitVec 7) (h4 : BitVec 4) (i8 : BitVec 8) (im7 : BitVec 7) (l : BitVec 4),
  (∀ s cx, CtlActs s cx → cx.g.txn = none → Handled s cx.k →
    (c ≠ 0 → CtlTraps (exec (.trap c) s) s cx 9 (c.setWidth 64)) ∧
    (stridedOffset w = false → CtlTraps (exec (.illegalInstruction w) s) s cx 1 (w.setWidth 64)) ∧
    (stridedOffset w = true → cx.g.block = none →
      let v := (fld w 20 6 : BitVec 6).toNat
      CtlTraps (exec (.illegalInstruction w) s) s cx (if v < nvCount cx.g ∧ (fld w 26 6 = (0x19 : BitVec 6) → boundRead cx.g v = false) then 2 else 1) (w.setWidth 64)) ∧
    (∀ i ∈ [Instr.vjoin, .vstop, .vsync, .tset k5, .trec k5 0, .tget k5 0x040, .tzero 0 0 0], CtlTraps (exec i s) s cx 1 ((encode i).setWidth 64)) ∧
    CtlTraps (exec .eret s) s cx 1 ((encode .eret).setWidth 64) ∧
    (∀ ct, getCtx s cx.cn = some ct → hasFeature ct 3 = false → CtlTraps (exec (.hldd d h4 i8 l) s) s cx 1 ((encode (.hldd d h4 i8 l)).setWidth 64)) ∧
    ((readX cx.g.th a.toNat).toNat % 4 ≠ 0 → CtlTraps (exec (.jr a) s) s cx 4 (readX cx.g.th a.toNat)) ∧
    (let va := readX cx.g.th a.toNat + im7.signExtend 64 * BitVec.ofNat 64 8
     (va.toNat % 8 ≠ 0 → CtlTraps (exec (.ldd d a im7 l) s) s cx 4 va) ∧
     ∀ s1 t iv kind acc, resolve s (asker cx) va 8 .read 0 = (s1, .bad (.page va kind acc)) → getTeam s cx.k = some t → invOf s cx.k = some iv →
       exec (.ldd d a im7 l) s = .next (faultReport (putGroup s1 cx.k cx.i { cx.g with th := { cx.g.th with run := .parkedFault, park := .entry, stalled := false, inBlock := none, aside := none } }) iv.ctx
         { who := .agent cx.k cx.i, va := va, seq := 0, tidx := t.tidx, inv := invNum t.inv, agentBits := if cx.i = 16 then 16 else cx.i, elem := 0, kind := kind, access := acc }))) ∧
  (∀ s cx bs pc, BlkActs s cx bs pc →
    (∀ i ∈ [Instr.yield, .addi d a 0, .binit 0 a, .tset k5], BlkTraps (exec i s) s cx 1 ((encode i).setWidth 64) pc) ∧
    (stridedOffset w = false → BlkTraps (exec (.illegalInstruction w) s) s cx 1 (w.setWidth 64) pc)) ∧
  (∀ s sx, SeqActs s sx → Handled s sx.k →
    (∀ i ∈ [Instr.yield, .pand p p p, .vadd d a a 0, .add 32 a a], TakesTrap (exec i s) s sx.k 16 1 ((encode i).setWidth 64) sx.q.th.pc none)) ∧
  (∀ s cx t, CtlActs s cx → cx.g.txn = none → getTeam s cx.k = some t → c ≠ 0 → (∃ ct, ctxOf s cx.k = some ct ∧ ct.tfslots.toNat = 0) →
    (∀ iv, invOf s cx.k = some iv → ∀ x y z u w e, iv.kind ≠ .handler x y z u w e) → exec (.trap c) s = .next (markInvocation { s with arb := s.arb + 1 } t.inv 6 t.tidx 9 0))) ∧ (
  ∀ (s : State) (cx : Cx) (c : Ctx) (iv iv2 : Invoc) (hk ha slot : Nat) (cause : BitVec 8) (value epc : Word) (s1 : State) (bs : List Byte),
  CtlFree s cx → invOf s cx.k = some iv → getCtx s cx.cn = some c → iv.kind = .handler hk ha slot cause value epc → frameStands s hk ha slot = true →
  cause ≠ 0x11 → readFrame s cx.cn (c.tfbase.toNat + slot * 2 ^ 19) hk ha = (s1, .inl bs) → invOf s hk = some iv2 → getCtx s iv2.ctx = some c →
  (∀ b, exec .eret (putGroup s cx.k cx.i { cx.g with block := some b }) = .next (putGroup s cx.k cx.i { cx.g with block := some b, th := { cx.g.th with run := .running } })) ∧
  ∃ t own ct, exec .eret s = .next t ∧ getGroup t cx.k cx.i = some own ∧ Retires cx.g own ∧ getCtx t cx.cn = some ct ∧ tget ct.frames slot = none ∧
    (∀ g, ha < 16 → getGroup s1 hk ha = some g → ∃ g', getGroup t hk ha = some g' ∧ g'.th.run = backTo ha g.th ∧ g'.th.park = .none ∧ g'.th.inBlock = none ∧ g'.th.aside = none ∧ FrameTaken s1 g g' iv2.kernel c bs) ∧
    (∀ q, ha = 16 → getSeq s1 hk = some q → ∃ q', getSeq t hk = some q' ∧ q'.th.run = backTo 16 q.th ∧ q'.th.park = .none ∧ q'.th.pc = frameWord bs 0x10 ∧
      (∀ n, 1 ≤ n → n < 32 → rawX q'.th n = frameWord bs (0x100 + 8 * n)) ∧ (∀ n, n < 8 → tgetD q'.m n 0 = BitVec.ofNat 256 (frameNat bs (0x200 + 32 * n) 32)) ∧
      q'.cache = [] ∧ { q' with th := q.th, m := q.m, cache := q.cache } = q))

/-- R59 to R62, R65, R66, R69, R70, R72, R234, R378: the mailbox commands where they are accepted, KILL and the ends of SUSPEND and of the kill sequence,
QUERY, and the refusals of R60 and R61 (the handle LOAD takes, and what ADVSEC answers under BAD-STATE, are the model's choice: log
entries 86, 88). R60, R73, R72: a write to MBCMD while BUSY is 1 changes nothing, a command on a context that has one not complete is held back with BUSY set until then (log entry
34), and what the start of the kill sequence does. Besides: NO-RESOURCE comes before MAP (log entry 50), a PASID stays bound until DEAD (52), MBRES keep what no command gives (53), KILL
and SUSPEND take their steps as turns of their own (57), the host's memory lies at 2^51 plus its bus address (58), a command of another function is BAD-COMMAND in any state (105),
the kill waits for a rebuild of the Timetable's root (45), and without feature 4 no message handlers are bound (103). -/
def Obligations.ContextCommands : Prop := (
  ∀ (fn ctx : Nat) (ok : Bool) (val : BitVec 64) (s : State) (p : Page), MbFree s fn p →
  let arg := argOf p
  let ends := fun (i : Instr) (op : Nat) (eff : State → State) (code : Nat) (r0 r1 : Option Word) => MbEnds (exec i s) s fn op ctx eff code r0 r1
  let free := fun (a : Word) => ∀ e ∈ s.ctxs, e.2.asid = a → e.2.st = .dead
  let noAsid := ∀ k, k ≤ Config.asidCount.toNat → ¬free (Config.asid k)
  let bound := ∃ e ∈ s.ctxs, e.2.pasid = (arg 1).toNat % 2 ^ 20 ∧ e.2.st ≠ .dead
  (∀ part, fnPart s fn = some part → lowestFree s.ctxs 0 1024 = none ∨ noAsid ∨ bound → ends (.create fn ctx) 1 id 2 none none) ∧
  (∀ n part, lowestFree s.ctxs 0 1024 = some n → fnPart s fn = some part → ¬noAsid → ¬bound → createArgsOk s p = false → ends (.create fn ctx) 1 id 9 none none) ∧
  (∀ n part, lowestFree s.ctxs 0 1024 = some n → fnPart s fn = some part → ¬noAsid → ¬bound → createArgsOk s p = true →
    ∃ c, ends (.create fn ctx) 1 (fun t => { t with ctxs := tput t.ctxs n c }) 0 (some (BitVec.ofNat 64 n)) (some c.asid) ∧
      c.st = .creating ∧ c.owner = fn ∧ c.part = part ∧ free c.asid ∧ (∃ k, k ≤ Config.asidCount.toNat ∧ c.asid = Config.asid k) ∧ c.pasid = (arg 1).toNat % 2 ^ 20 ∧ c.root = (arg 0).toNat ∧ c.features = 0 ∧
      c.fq.base = (arg 2 &&& 0x01FFFFFFFFFFF000) ∧ c.fq.logn = 8 + (arg 2).toNat % 8 ∧ c.eq.base = (arg 3 &&& 0x01FFFFFFFFFFF000) ∧ c.eq.logn = 8 + (arg 3).toNat % 8 ∧
      c.fq.head = 0 ∧ c.fq.tail = 0 ∧ c.eq.head = 0 ∧ c.eq.tail = 0 ∧ c.objs = [] ∧ c.queues = [] ∧ c.heap.enabled = false ∧ c.frames = [] ∧ c.handler = none ∧ c.brkOn = false) ∧
  (∀ c, getCtx s ctx = some c → c.owner = fn → NoCommand s ctx →
    let has := c.st = .negotiated ∨ c.st = .loaded ∨ c.st = .running ∨ c.st = .suspended
    let set := fun (f : Ctx → Ctx) (t : State) => modCtx t ctx f
    (let g := ((arg 1 ++ arg 0) &&& supported s fn c.part &&& 0x3FF8#128) ||| (if s.hub.microcodeMode then 3#128 else 5#128)
     c.st = .creating → (arg 3 ++ arg 2) &&& ~~~g = 0 →
       ends (.negotiate fn ctx) 2 (set fun c => { c with features := g, st := .negotiated }) 0 (some (g.setWidth 64)) (some (g.extractLsb' 64 64))) ∧
    (∀ s2 img h n, has → deviceReadLong ctx ((arg 1).toNat / 4096 + 2) (mbBegun s fn 3 ctx) (arg 0).toNat (arg 1).toNat = (s2, .inl img) → parseObject img (arg 1).toNat = some h →
      h.native = true → h.signer = Config.fusedKey ∨ (∃ x, tget s.parts c.part = some x ∧ h.signer ∈ x.keys) → s.hub.secver ≤ h.secver →
      (h.kernels.foldl (fun f k => f ||| kflagFeatures k) h.features) &&& ~~~c.features = 0 →
      rangeOk (tables s2) c.root (fun e => e.getLsbD 1 && e.getLsbD 3) (arg 2).toNat h.nlen = true → lowestFree c.objs 0 256 = some n →
      let s3 := installBytes ctx (h.nlen / 4096 + 2) s2 (arg 2).toNat ((img.drop h.noff).take h.nlen)
      let s4 := modCtx s3 ctx fun c => { c with objs := tput c.objs n { base := arg 2, nlen := h.nlen, secver := h.secver, kernels := h.kernels }, st := if c.st = .negotiated then .loaded else c.st }
      ends (.load fn ctx) 3 (fun _ => if Config.verifies h.signer img = false then s2 else { s4 with hub := { s4.hub with loadLog := s4.hub.loadLog ++ [{ ctx := ctx, handle := n, secver := h.secver, measure := Config.shake img }] } }) (if Config.verifies h.signer img = true then 0 else 4) (if Config.verifies h.signer img = true then some (BitVec.ofNat 64 n) else none) none) ∧
    (∀ s2 s1 va bs pa leaf lv fuel, ctxTranslate s2 hubCore ctx va .read = (s1, some (.ok pa leaf lv)) → bs ≠ [] → va % 4096 + bs.length ≤ 4096 → pa % 4096 + bs.length ≤ 4096 → pa < 2 ^ 52 →
      let t := installBytes ctx (fuel + 1) s2 va bs
      ∀ i, i < bs.length → some (readByte t.mem (pa + i)) = lget bs i) ∧
    (∀ o, has → tget c.objs (arg 0).toNat = some o → objectLive s ctx (arg 0).toNat = false →
      ends (.unload fn ctx) 4 (set fun c => { c with objs := tdel c.objs (arg 0).toNat, st := if c.st = .loaded ∧ tdel c.objs (arg 0).toNat = [] then .negotiated else c.st }) 0 none none) ∧
    (∀ o kn, c.st = .loaded → findKernel c ((arg 0).toNat / 256 % 256) ((arg 0).toNat % 256) = some (o, kn) → kn.groups = 1 → kn.mentry = 0 →
      rangeOk (tables s) c.root (fun e => e.getLsbD 1 && e.getLsbD 2) c.tfbase.toNat (c.tfslots.toNat * 2 ^ 19) = true → (arg 1).toNat % 4096 = 0 →
      (arg 1 ≠ 0 → rangeOk (tables s) c.root (fun e => e.getLsbD 1) (arg 1).toNat 4096 = true) →
      ends (.start fn ctx) 5 (set fun c => { c with handler := some ((arg 0).toNat / 256 % 256, (arg 0).toNat % 256), msgTable := if c.features.getLsbD 4 then arg 1 else 0, st := .running }) 0 none none) ∧
    (c.st = .running → exec (.suspend fn ctx) s = .next (modPage (requestPreempt { s with arb := s.arb + 1 } (residentOf s ctx)) fn fun p => { p with
      mbcmd := BitVec.ofNat 64 (6 + ctx % 65536 * 65536), mbstat := 0x100 ||| (p.mbstat &&& 0xFF) })) ∧
    (c.st = .suspended → ends (.resume fn ctx) 7 (fun t => advanceRecorded (set (fun c => { c with st := .running }) t) ctx) 0 none none) ∧
    ends (.kill fn ctx) 8 (fun t => beginKill t ctx) 0 none none ∧
    (c.st = .dead → ends (.release fn ctx) 9 (fun t => { t with ctxs := tdel t.ctxs ctx, invs := t.invs.filter fun e => e.2.ctx ≠ ctx, signals := t.signals.map fun g => { g with fromCtx := if g.fromCtx = ctx then 1024 else g.fromCtx } }) 0 none none) ∧
    ends (.query fn ctx) 10 id 0 (some (match c.st with | .creating => 1 | .negotiated => 2 | .loaded => 3 | .running => 4 | .suspended => 5 | .killing => 6 | .dead => 7)) (some (BitVec.ofNat 64 s.hub.secver)) ∧
    (c.st ≠ .loaded → ends (.start fn ctx) 5 id 1 none none) ∧ (c.st ≠ .dead → ends (.release fn ctx) 9 id 1 none none)) ∧
  (ctx < 1024 → getCtx s ctx = none → NoCommand s ctx → ends (.query fn ctx) 10 id 0 (some 0) (some (BitVec.ofNat 64 s.hub.secver))) ∧
  (¬NoCommand s ctx → ∀ r ∈ [(Instr.negotiate fn ctx, Command.negotiate, 2), (.load fn ctx, .load, 3), (.unload fn ctx, .unload, 4), (.start fn ctx, .start, 5), (.suspend fn ctx, .suspend, 6),
      (.resume fn ctx, .resume, 7), (.release fn ctx, .release, 9), (.query fn ctx, .query, 10)],
    HeldBack (exec r.1 s) s fn ctx r.2.1 fun p => { p with mbcmd := BitVec.ofNat 64 (r.2.2 + ctx % 65536 * 65536), mbstat := p.mbstat ||| 0x100 }) ∧
  (NoCommand s ctx → (∀ c, getCtx s ctx = some c → c.owner ≠ fn) → ∀ r ∈ [(Instr.negotiate fn ctx, 2), (.load fn ctx, 3), (.unload fn ctx, 4), (.start fn ctx, 5), (.resume fn ctx, 7), (.kill fn ctx, 8), (.release fn ctx, 9)],
    ends r.1 r.2 id 0x0A none none) ∧
  (fn = 0 →
    (s.ctxs = [] → ends (.setext fn ctx) 0x10 (fun t => { t with hub := { t.hub with microcodeMode := (arg 0).getLsbD 0 } }) 0 none none) ∧
    (s.hub.secver < (arg 0).toNat → (arg 0).toNat ≤ 255 → ends (.advsec fn ctx) 0x11 (fun t => { t with hub := { t.hub with secver := (arg 0).toNat } }) 0 none (some (arg 0))) ∧
    (let img := readBytes s.mem (2 ^ 51 + (arg 0).toNat % 2 ^ 51) (arg 1).toNat
     s.hub.microcodeMode = true → s.ctxs = [] → ok = true →
       ends (.loadmc fn ctx ok) 0x12 (fun t => if Config.verifies Config.fusedKey img = true then
           { t with hub := { t.hub with microcode := some (Config.shake img), store := (Config.microcodeEntries (Config.shake img)).take 256 } } else t) (if Config.verifies Config.fusedKey img = true then 0 else 4) none none) ∧
    (∀ x, tget s.parts (arg 0).toNat = some x → ok = true → ends (.addkey fn ctx ok) 0x13 (fun t => { t with parts := tmod t.parts (arg 0).toNat fun x =>
      { x with keys := x.keys ++ [BitVec.ofNat 512 (readNat s.mem (2 ^ 51 + (arg 1).toNat % 2 ^ 51) 64)] } }) 0 none none)) ∧
  (let op := val.toNat % 256
   ¬(1 ≤ op ∧ op ≤ 10) → ¬(fn = 0 ∧ 0x10 ≤ op ∧ op ≤ 0x13) → MbEnds (exec (.mailboxUnknownCommand fn val) s) s fn op (val.toNat / 2 ^ 16 % 2 ^ 16) id 0x0A none none) ∧
  (∀ c e, getCtx s ctx = some c → e ∈ s.invs → e.2.ctx = ctx → invLive e.2 = true → exec (.killSequenceComplete ctx) s = .next s) ∧
  (∀ c, getCtx s ctx = some c → c.st = .killing → (∀ e ∈ s.invs, e.2.ctx = ctx → invLive e.2 = false) →
    let s1 := { s with jobs := s.jobs.filter fun e => e.2.ctx ≠ ctx, waves := s.waves.filter fun e => (tget s.jobs e.1).all fun j => j.ctx ≠ ctx }
    let s2 := if c.eq.closed then s else modCtx (errorRecord s1 ctx 0x0E 0 0xFFFF 0 0 0) ctx fun c => { c with eq := { c.eq with closed := true } }
    ∃ t, exec (.killSequenceComplete ctx) s = .next t ∧ { t with ctxs := s2.ctxs, tlb := s2.tlb, hub := s2.hub } = s2 ∧
      (∃ ct, getCtx t ctx = some ct ∧ ct.st = .dead ∧ ct.heap.enabled = false) ∧ { t.hub with loadLog := s.hub.loadLog } = s.hub ∧ t.hub.loadLog = s.hub.loadLog.filter (fun r => r.ctx ≠ ctx) ∧
      t.tlb = s2.tlb.filter fun e => e.ctx ≠ ctx) ∧
  (∀ c, getCtx s ctx = some c → suspending s ctx = true → residentOf s ctx = [] →
    exec (.suspendComplete ctx) s = .next (freeHeld (modPage (modCtx s ctx fun c => { c with st := .suspended }) c.owner fun p => { p with mbstat := 0 }) ctx))) ∧ (
  ∀ (fn ctx : Nat) (s : State),
  (∀ p, Rising s.pages → tget s.pages fn = some p → tget (freeHeld s ctx).pages fn = some (freedPage ctx p) ∧ (∃ l, (freeHeld s ctx).agenda = l ++ s.agenda) ∧
    ∀ h ∈ p.held, h.ctx = ctx → Turn.command fn ctx h.cmd ∈ (freeHeld s ctx).agenda) ∧
  (∀ p, tget s.pages fn = some p → p.mbstat.getLsbD 8 = true → ∀ i ∈ [Instr.create fn ctx, .negotiate fn ctx, .load fn ctx, .unload fn ctx, .start fn ctx, .suspend fn ctx, .resume fn ctx,
    .kill fn ctx, .release fn ctx, .query fn ctx, .setext fn ctx, .advsec fn ctx, .loadmc fn ctx true, .addkey fn ctx true, .registerWrite fn 0x08 0], exec i s = .next s) ∧
  ∀ c, getCtx s ctx = some c → c.st ≠ .killing → c.st ≠ .dead →
    let t := beginKill s ctx
    (∃ ct, getCtx t ctx = some ct ∧ ct.st = .killing ∧ ct.eq.closed = c.eq.closed ∧ ct.frames = [] ∧ ct.fq.waiting = [] ∧ ct.fq.pri = [] ∧ ct.fq.unresolved = [] ∧
      ∀ n q, tget ct.queues n = some q → q.st = .disabled ∧ q.handles = []) ∧
    (∀ ik iv, getInv s ik = some iv → iv.ctx = ctx → invLive iv = true → (getInv t ik).map (·.st) = some (if s.hub.rebuilding then iv.st else .faulted) ∧
      ∀ k tm, getTeam s k = some tm → tm.inv = ik → getTeam t k = none) ∧
    (∀ ik iv, getInv s ik = some iv → (∀ e ∈ s.invs, e.1 = ik → e.2.ctx ≠ ctx) → getInv t ik = some iv) ∧
    (Rising s.invs → ∀ n j, tget s.jobs n = some j →
      let handled := if s.hub.rebuilding then 0 else s.invs.countP fun e => decide (e.2.ctx = ctx) && invLive e.2 && (match e.2.kind with | .message m _ => decide (m.job = n) | _ => false)
      tget t.jobs n = some { j with con := j.con + BitVec.ofNat 64 handled, dirty := j.dirty || decide (handled ≠ 0) }) ∧
    ∀ fn p, Rising s.pages → tget s.pages fn = some p →
      let cut := p.mbstat.getLsbD 8 = true ∧ p.mbcmd.toNat / 2 ^ 16 % 2 ^ 16 = ctx
      tget t.pages fn = some (freedPage ctx { p with
        mbstat := if cut then 0x0B else p.mbstat
        held := if cut then p.held.filter (fun h => decide (h.cmd.reg ≠ .mbcmd)) else p.held
        dbgcmd := if p.dbgcmd.map (·.ctx) = some ctx then none else p.dbgcmd
        dbgstat := if p.dbgcmd.map (·.ctx) = some ctx then 1 else p.dbgstat }))

/-- R75 to R79, R84, R86, R89, R90: the QCTL commands on a queue its function owns, the consumption of launch records and of bind records (whose
turn it is: log entry 84; held while the Timetable's root is rebuilt, R390: log entry 45; 0xFFFF as the INV of a BAD-BIND record: log entry 40). The model's choices: the indices of
a DISABLED queue are 0 (log entry 106), BAD-STATE comes before BAD-CONFIG (107), a storage page with MIG set is not mapped (108), and an unbind record may hold anything in the fields
it does not use (109). R59, R77, R206, R211, R377, R398, R402, R415: a register write keeps the RW bits of the register its offset names, where the register may be written now. -/
def Obligations.QueueControl : Prop := (
  ∀ (fn : Nat) (cmd : BitVec 3) (s : State),
  (∀ cn q c, selected s fn = some (cn, q, c) →
    let x := getQueue c q
    (x.st = .disabled → c.st = .loaded ∨ c.st = .running ∨ c.st = .suspended → badGeometry s c x = false →
      exec (.qctlEnable fn) s = .next (withQueue (zeroMirrors s cn x) cn q { x with st := .opened, idx := [], handles := [], last := 0 })) ∧
    (x.st = .disabled → c.st = .loaded ∨ c.st = .running ∨ c.st = .suspended → badGeometry s c x = true → exec (.qctlEnable fn) s = .next (withQueue s cn q { x with last := 2 })) ∧
    (x.st = .opened ∨ x.st = .full → exec (.qctlDrain fn) s = .next (withQueue s cn q { x with st := if qEmpty x then .closed else .draining, last := 0 })) ∧
    (x.st = .closed → exec (.qctlReopen fn) s = .next (withQueue s cn q { x with st := if qKind x ≠ 2 ∧ qCount x 0 = 2 ^ qLogn x then .full else .opened, last := 0 })) ∧
    (x.st ≠ .disabled → exec (.qctlDisable fn) s = .next (withQueue s cn q { x with st := .disabled, idx := [], handles := [], last := 0 })) ∧
    exec (.qctlInvalid fn cmd) s = .next (withQueue s cn q { x with last := 1 }) ∧
    (x.st ≠ .disabled → exec (.qctlEnable fn) s = .next (withQueue s cn q { x with last := 1 })) ∧
    (x.st ≠ .closed → exec (.qctlReopen fn) s = .next (withQueue s cn q { x with last := 1 }))) ∧
  (selected s fn = none → ∀ i ∈ [Instr.qctlEnable fn, .qctlDrain fn, .qctlReopen fn, .qctlDisable fn, .qctlInvalid fn cmd], exec i s = .next s) ∧
  (∀ part cn q, Rising s.ctxs → (∀ e ∈ s.ctxs, e.1 < 1024 ∧ Rising e.2.queues ∧ e.2.nextQ < 64 ∧ ∀ y ∈ e.2.queues, y.1 < 64) → turnOf s part = some (cn, q) →
    let first := ((tget s.parts part).map (·.nextCtx)).getD 0
    first < 1024 → ∃ c x, getCtx s cn = some c ∧ c.part = part ∧ c.st = .running ∧ tget c.queues q = some x ∧ offers c x = true ∧
      (∀ e ∈ s.ctxs, e.2.part = part → (e.1 + 1024 - first) % 1024 < (cn + 1024 - first) % 1024 → ∀ y ∈ e.2.queues, offers e.2 y.2 = false) ∧
      ∀ y ∈ c.queues, (y.1 + 64 - c.nextQ) % 64 < (q + 64 - c.nextQ) % 64 → offers c y.2 = false) ∧
  (∀ ctx q c, getCtx s ctx = some c → turnOf s c.part ≠ some (ctx, q) ∨ s.hub.rebuilding = true → exec (.launchRecordConsume ctx q) s = .next s ∧ exec (.bindRecordConsume ctx q) s = .next s) ∧
  ∀ ctx q c0 s1 c index bs num, getCtx s ctx = some c0 →
    let s0 := modCtx { s with parts := tmod s.parts c0.part fun p => { p with nextCtx := (ctx + 1) % 1024 } } ctx fun c => { c with nextQ := (q + 1) % 64 }
    queueTake s0 ctx 0xFFFF q 0 false = (s1, { status := 0, index := index, clu := 0, data := bs }) → getCtx s1 ctx = some c → freeInv s1 c.part = some num →
    let x := getQueue c q
    let rec' := bytesNat bs
    let sh := field rec' 1 1
    (nextRecord s ctx q = some false → ∃ t iv, exec (.launchRecordConsume ctx q) s = .next t ∧ getInv t (invKey c.part num) = some iv ∧ iv.ctx = ctx ∧ iv.kind = .launch ∧
      iv.obj = field rec' 1 1 ∧ iv.kidx = field rec' 2 1 ∧ iv.gang = field rec' 3 1 ∧ iv.spad = field rec' 6 2 ∧ iv.argp = BitVec.ofNat 64 (field rec' 0x20 8) ∧ iv.arg0 = BitVec.ofNat 64 (field rec' 0x28 8) ∧
      iv.ccell = BitVec.ofNat 64 (field rec' 0x30 8) ∧ iv.tile = bit rec' 1 ∧ iv.prio = qPrio x ∧ iv.aged = 0 ∧ iv.inputs = x.handles.filter (fun e => bit (field rec' 0x10 8) e.1) ∧
      (iv.st = .faulted ∨ iv.st = .waitInput ∨ iv.st = .waitSpace ∨ iv.st = .dispatchable)) ∧
    (nextRecord s ctx q = some true → field rec' 0 1 = 1 → sh ≤ 63 → field rec' 3 5 = 0 → field rec' 0x20 32 = 0 →
      let binds := fun (h : Handle) => exec (.bindRecordConsume ctx q) s = .next (withQueue s1 ctx q { x with handles := tput x.handles sh h })
      let len := field rec' 0x10 8
      (field rec' 2 1 = 0 → exec (.bindRecordConsume ctx q) s = .next (withQueue s1 ctx q { x with handles := tdel x.handles sh })) ∧
      (field rec' 2 1 = 1 → 1 ≤ len → len ≤ 2 ^ 40 → field rec' 0x18 8 = 0 → NoMigrate s1 ctx → ∃ tr, exec (.bindRecordConsume ctx q) s =
          .next (withQueue (modCtx s1 ctx fun c => { c with tracked := tr }) ctx q { x with handles := tput x.handles sh (.pages (BitVec.ofNat 64 (field rec' 8 8)) len) }) ∧
        ∀ n, tget tr n = if field rec' 8 8 < 4096 * (n + 1) ∧ 4096 * n < field rec' 8 8 + len then some (residency s1 c.root (4096 * n)) else tget c.tracked n) ∧
      (field rec' 2 1 = 2 → field rec' 8 8 = 0 → 1 ≤ len → len ≤ 65536 → field rec' 0x18 8 % 8 = 0 → binds (.heap len (BitVec.ofNat 64 (field rec' 0x18 8)))) ∧
      (3 ≤ field rec' 2 1 → exec (.bindRecordConsume ctx q) s = .next (errorRecord s1 ctx 0x02 0 0xFFFF q (field rec' 0 8) 0)))) ∧ (
  ∀ (fn off : Nat) (val : BitVec 64) (s : State) (p : Page), tget s.pages fn = some p →
  let o := exec (.registerWrite fn off val) s
  (∀ j, j < 4 → off = 8 + 8 * j → p.mbstat.getLsbD 8 = false → o = .next (modPage s fn fun p => { p with mbarg := lset p.mbarg j val })) ∧
  (off = 0x100 → o = .next (modPage s fn fun p => { p with qsel := val &&& 0x03FF003F })) ∧
  (off = 0x180 → o = .next (modPage s fn fun p => { p with invva := val &&& 0x01FFFFFFFFFFF000 })) ∧
  (off = 0x188 → o = .next (modPage s fn fun p => { p with invlen := val &&& 0xFFFFFFFF })) ∧
  (off = 0x240 → o = .next (modPage s fn fun p => { p with dbgsel := val &&& 0x03FFFFFFFFFFFFFF })) ∧
  (off = 0x248 → o = .next (modPage s fn fun p => { p with dbgarg := val })) ∧
  (∀ cn c, debugCtx s fn = some (cn, c) →
    (off = 0x260 → o = .next (modCtx s cn fun c => { c with trace := { c.trace with trbase := val &&& 0x01FFFFFFFFFFF000 } })) ∧
    (off = 0x268 → o = .next (modCtx s cn fun c => { c with trace := { c.trace with trcfg := val &&& 0x31F } })) ∧
    (off = 0x270 → o = .next (modCtx s cn fun c => { c with trace := { c.trace with head := val.setWidth 32 } }))) ∧
  (∀ cn q c, selected s fn = some (cn, q, c) →
    let x := getQueue c q
    let heap := fun (f : Heap → Heap) => o = .next (modCtx s cn fun c => { c with heap := f c.heap })
    (off = 0x108 → x.st = .disabled → o = .next (withQueue s cn q { x with base := val &&& 0x01FFFFFFFFFFF000 })) ∧
    (off = 0x110 → x.st = .disabled → o = .next (withQueue s cn q { x with geom := val &&& 0xE30F001F })) ∧
    (off = 0x160 → (val.setWidth 32 - c.eq.head).toNat ≤ (c.eq.tail - c.eq.head).toNat → o = .next (modCtx s cn fun c => { c with eq := { c.eq with head := val.setWidth 32 } })) ∧
    (off = 0x160 → (c.eq.tail - c.eq.head).toNat < (val.setWidth 32 - c.eq.head).toNat → o = .next s) ∧
    (c.heap.enabled = false → (off = 0x1C0 → heap fun h => { h with heapva := val &&& 0x01FFFFFFFFE00000 }) ∧ (off = 0x1C8 → heap fun h => { h with heapn := val &&& 0x1FFFF }) ∧
      (off = 0x1D0 → heap fun h => { h with hroot := val &&& 0x01FFFFFFFFFFF000 }) ∧ (off = 0x1D8 → heap fun h => { h with hrootn := val &&& 0xFFFF }) ∧
      (off = 0x1E0 → heap fun h => { h with hapva := val &&& 0x01FFFFFFFE000000 })) ∧
    (off = 0x1F0 → heap fun h => { h with hlive := val &&& 0x01FFFFFFFFFFFFFF }) ∧ (off = 0x200 → heap fun h => { h with hrsel := val &&& 0xFFFF }) ∧
    (c.st = .creating ∨ c.st = .negotiated ∨ c.st = .loaded →
      (off = 0x220 → o = .next (modCtx s cn fun c => { c with tfbase := val &&& 0x01FFFFFFFFF80000 })) ∧ (off = 0x228 → o = .next (modCtx s cn fun c => { c with tfslots := val &&& 0xFF })))))

/-- R145, R415, R416: what reporting an event writes to a context's error queue: a record of 64 bytes at base + 64 · (TAIL mod 2^e), in the order of R416, with the
next arbiter number, and TAIL + 1. It is written while two slots are free; a record that finds no room, or whose slot is not mapped with W, is dropped and counted; behind dropped
records one OVERFLOW record with the count comes first, in the slot kept for it, and the count starts again (DEDUCED, log entry 12, for the slots the two need). A queue closed by
its kill record takes nothing more. A device write puts its bytes at the address translated, and no other byte changes; one to a heap page is not made (R225). -/
def Obligations.ErrorQueueRecords : Prop := (∀ (s : State) (cn : Nat) (c : Ctx) (type code inv a0 a1 a2 : Nat), getCtx s cn = some c →
  let o := errorRecord s cn type code inv a0 a1 a2
  let size := 2 ^ c.eq.logn
  let held := (c.eq.tail - c.eq.head).toNat
  let slot := fun (n : BitVec 32) => c.eq.base.toNat + 64 * (n.toNat % size)
  let rec' := fun (seq type code inv a0 a1 a2 : Nat) => natBytes seq 8 ++ [BitVec.ofNat 8 type, BitVec.ofNat 8 code] ++ natBytes inv 2 ++ List.replicate 4 0 ++
    natBytes a0 8 ++ natBytes a1 8 ++ natBytes a2 8 ++ List.replicate 24 0
  let ticked := fun (s : State) => { s with arb := s.arb + 1 }
  let dropped := modCtx (ticked s) cn fun c => { c with eq := { c.eq with dropped := c.eq.dropped + 1 } }
  (c.eq.closed = true → o = s) ∧
  (c.eq.closed = false → (size < held + 2 → o = dropped) ∧
    (held + 2 ≤ size → c.eq.dropped = 0 →
      (deviceWrite (ticked s) cn (slot c.eq.tail) (rec' (s.arb + 1) type code inv a0 a1 a2) = none → o = dropped) ∧
      ∀ t, deviceWrite (ticked s) cn (slot c.eq.tail) (rec' (s.arb + 1) type code inv a0 a1 a2) = some t → o = modCtx t cn fun c => { c with eq := { c.eq with tail := c.eq.tail + 1 } }) ∧
    (held + 2 ≤ size → 0 < c.eq.dropped →
      (deviceWrite (ticked s) cn (slot c.eq.tail) (rec' (s.arb + 1) 0xFF 0 0xFFFF c.eq.dropped 0 0) = none → o = dropped) ∧
      ∀ t, deviceWrite (ticked s) cn (slot c.eq.tail) (rec' (s.arb + 1) 0xFF 0 0xFFFF c.eq.dropped 0 0) = some t →
        let u := ticked (modCtx t cn fun c => { c with eq := { c.eq with tail := c.eq.tail + 1, dropped := 0 } })
        (deviceWrite u cn (slot (c.eq.tail + 1)) (rec' (u.arb) type code inv a0 a1 a2) = none → o = modCtx u cn fun c => { c with eq := { c.eq with dropped := 1 } }) ∧
        ∀ v, deviceWrite u cn (slot (c.eq.tail + 1)) (rec' (u.arb) type code inv a0 a1 a2) = some v → o = modCtx v cn fun c => { c with eq := { c.eq with tail := c.eq.tail + 1 } })) ∧
  (∀ seq type code inv a0 a1 a2, (rec' seq type code inv a0 a1 a2).length = 64)) ∧
  ∀ (s s1 : State) (cn va pa va' : Nat) (leaf : BitVec 64) (bs : List Byte), va < 2 ^ 57 → pa + bs.length ≤ 2 ^ 52 → ctxTranslate s hubCore cn va .write = (s1, some (.ok pa leaf va')) →
    (leaf.getLsbD 6 = true → deviceWrite s cn va bs = none) ∧ (leaf.getLsbD 6 = false → ∃ t, deviceWrite s cn va bs = some t ∧ readBytes t.mem pa bs.length = bs ∧ ∀ a, Outside pa bs.length a → readByte t.mem a = readByte (dirtyAt s1 hubCore cn va).mem a)

/-- R59, R77, R204, R206, R211, R230, R377, R398, R402, R415: what the registers of a function's page read as: those of the page itself; those of the context that QSEL and DBGSEL name, which read
as zero where the function does not own it or it is FREE; the link registers of the physical function; the device number in its identity register (R24, R232; where it lies and how it is
laid out, log entry 102); a write-only register reads as zero (DEDUCED, log entry 14). That HSTAT keeps the code of a command on a context in
FREE is the model's choice (DESIGN CHOICE, log entry 93). -/
def Obligations.RegisterReads : Prop := ∀ (s : State) (fn : Nat) (p : Page), tget s.pages fn = some p →
  let read := readRegister s fn
  let low := fun (l : List (Nat × Word)) => ∀ e ∈ l, read e.1 = e.2
  low [(0x00, p.mbcmd), (0x08, argOf p 0), (0x10, argOf p 1), (0x18, argOf p 2), (0x20, argOf p 3), (0x40, p.mbstat), (0x48, p.mbres0), (0x50, p.mbres1), (0x100, p.qsel), (0x180, p.invva),
    (0x188, p.invlen), (0x198, p.invstat), (0x240, p.dbgsel), (0x248, p.dbgarg), (0x258, p.dbgstat), (0x118, 0), (0x190, 0), (0x1E8, 0), (0x250, 0)] ∧
  (∀ c, getCtx s (bits p.qsel.toNat 16 10) = some c → c.owner = fn →
    let x := getQueue c (bits p.qsel.toNat 0 6)
    let index := tgetD x.idx 0 (0, 0)
    let r := getRegion c.heap c.heap.hrsel.toNat
    low [(0x108, x.base), (0x110, x.geom), (0x128, index.2 ++ index.1), (0x140, c.fq.head.setWidth 64), (0x148, c.fq.tail.setWidth 64), (0x160, c.eq.head.setWidth 64), (0x168, c.eq.tail.setWidth 64),
      (0x1C0, c.heap.heapva), (0x1C8, c.heap.heapn), (0x1D0, c.heap.hroot), (0x1D8, c.heap.hrootn), (0x1E0, c.heap.hapva), (0x1F0, c.heap.hlive), (0x1F8, c.heap.hstat), (0x200, c.heap.hrsel),
      (0x220, c.tfbase), (0x228, c.tfslots)] ∧
    (x.last < 3 → read 0x120 = BitVec.ofNat 64 (x.last * 2 ^ 32 + match x.st with | .disabled => 0 | .opened => 1 | .full => 2 | .draining => 3 | .closed => 4)) ∧
    (r.top ≤ 2 ^ 21 → r.gen < 16 → bits (read 0x208).toNat 32 32 = r.top ∧ bits (read 0x208).toNat 8 24 = (if r.large = true then 1 else 0) ∧ bits (read 0x208).toNat 4 4 = r.gen ∧
      bits (read 0x208).toNat 0 4 = match r.st with | .free => 0 | .allocating => 1 | .live => 2 | .evacuating => 3 | .relocated => 4)) ∧
  ((∀ c, getCtx s (bits p.qsel.toNat 16 10) = some c → c.owner ≠ fn) →
    (∀ off ∈ [0x108, 0x110, 0x120, 0x128, 0x140, 0x148, 0x160, 0x168, 0x1C0, 0x1C8, 0x1D0, 0x1D8, 0x1E0, 0x1F0, 0x200, 0x208, 0x220, 0x228], read off = 0) ∧
    read 0x1F8 = if (getCtx s (bits p.qsel.toNat 16 10)).isSome then 0 else BitVec.ofNat 64 p.hfree) ∧
  (∀ c, getCtx s (bits p.dbgsel.toNat 48 10) = some c → c.owner = fn →
    low [(0x260, c.trace.trbase), (0x268, c.trace.trcfg), (0x270, c.trace.head.setWidth 64), (0x278, c.trace.tail.setWidth 64)]) ∧
  ((∀ c, getCtx s (bits p.dbgsel.toNat 48 10) = some c → c.owner ≠ fn) → ∀ off ∈ [0x260, 0x268, 0x270, 0x278], read off = 0) ∧
  (fn = 0 → pfUnlaid identityOffset = true ∧ (read identityOffset).toNat % 2 ^ 13 = Config.deviceNumber.toNat) ∧
  ∀ n l, fn = 0 → n < 16 → tget s.links n = some l → l.lanes < 16 → let w := (read (0x400000 + 0x20 * n)).toNat
    bits w 48 16 = min l.retrains 65535 ∧ bits w 16 32 = min l.replays (2 ^ 32 - 1) ∧ bits w 8 8 = 0 ∧ bits w 4 4 = l.lanes ∧
      bits w 0 4 = match l.st with | .down => 0 | .training => 1 | .active => 2 | .degraded => 3 | .retrain => 4 | .failed => 5

/-- R65, R203 to R208, R378: the fault queue's writes, HEAD and resolutions, PRI responses, invalidation, migration, the frame of a trap and its handler (MIGRATE
without the feature is the model's choice: log entry 83). What rests on the model's reading: a command on a context that has one not complete is held back with BUSY set (log entry
34), a rebuild holds the resolutions that reach its unit (45), MIGRATE marks every leaf whose page its range meets, a group of 16 as one page (47), the wait a fault had set aside stands again (94), and the
tracking of pages follows every store to a leaf (99). -/
def Obligations.FaultsAndPages : Prop := ∀ (fn ctx n team agent : Nat) (ok glob : Bool) (index : BitVec 32) (val : BitVec 64) (op : BitVec 3) (s : State),
  (∀ c, getCtx s ctx = some c →
    let settled := modCtx s ctx fun c => { c with fq := { c.fq with unresolved := c.fq.unresolved.filter fun e => decide (e.1 ≠ index.toNat) } }
    (∀ e s1, c.fq.waiting = [e] → (c.fq.tail - c.fq.head).toNat < 2 ^ c.fq.logn →
      deviceWrite s ctx (c.fq.base.toNat + 32 * (c.fq.tail.toNat % 2 ^ c.fq.logn)) (natBytes e.va.toNat 8 ++ natBytes e.seq 8 ++ natBytes e.tidx 6 ++ natBytes e.inv 2 ++ natBytes e.agentBits 2 ++
        natBytes e.elem 2 ++ natBytes e.kind 1 ++ natBytes e.access 1 ++ natBytes 0 2) = some s1 →
      exec (.faultEntryDeferredWrite ctx) s = .next (modCtx s1 ctx fun c => { c with fq := { c.fq with tail := c.fq.tail + 1, unresolved := c.fq.unresolved ++ [(c.fq.tail.toNat, e)], waiting := [] } })) ∧
    (∀ q, selected s fn = some (ctx, q, c) → c.fq.waiting = [] →
      let inside := (val.setWidth 32 - c.fq.head).toNat ≤ (c.fq.tail - c.fq.head).toNat
      (inside → exec (.fqheadWrite fn val) s = .next (modCtx s ctx fun c => { c with fq := { c.fq with head := val.setWidth 32 } })) ∧ (¬inside → exec (.fqheadWrite fn val) s = .next s)) ∧
    (∀ e, c.owner = fn → c.fq.unresolved.find? (fun e => decide (e.1 = index.toNat)) = some (index.toNat, e) →
      (rebuildHolds s e = true → exec (.fqresRetry fn ctx index) s = .next { s with hub := { s.hub with held := s.hub.held ++ [(fn, ctx, index, true)] } } ∧
        exec (.fqresFail fn ctx index) s = .next { s with hub := { s.hub with held := s.hub.held ++ [(fn, ctx, index, false)] } }) ∧
      (rebuildHolds s e = true ↔ match e.who with
        | .board .. => s.hub.rebuilding = true
        | .agent k _ => ∃ tm cl, getTeam s k = some tm ∧ tm.saved = false ∧ tget s.clusters tm.target.cluster = some cl ∧ cl.rebuilding = true
        | .engine k _ _ => ∃ tm cl, getTeam s k = some tm ∧ tm.saved = false ∧ tget s.clusters tm.target.cluster = some cl ∧ cl.rebuilding = true) ∧
      (rebuildHolds s e = false →
      (∀ k a th, e.who = .agent k a → getThread s k a = some th → th.run = .parkedFault → th.park = .entry →
        exec (.fqresRetry fn ctx index) s = .next (modThread settled k a fun th => { th with run := backTo a th, park := .none, inBlock := none, aside := none }) ∧
        (ctxNum s k = ctx → Handled s k → TakesTrap (exec (.fqresFail fn ctx index) s) settled k a 0x0A e.va (th.inBlock.getD th.pc) th.inBlock)) ∧
      (∀ k a tok o, e.who = .engine k a tok → getOp s k a tok = some o → o.parked = true →
        exec (.fqresRetry fn ctx index) s = .next (modTeam settled k fun t => { t with ops := t.ops.map fun o => if o.agent = a ∧ o.tok = tok then { o with parked := false } else o }) ∧
        exec (.fqresFail fn ctx index) s = .next (failOp settled k o e.kind e.va)) ∧
      (∀ ik order iv, e.who = .board ik order → getInv s ik = some iv → iv.order ≠ order → exec (.fqresRetry fn ctx index) s = .next settled ∧ exec (.fqresFail fn ctx index) s = .next settled) ∧
      (∀ ik iv, e.who = .board ik iv.order → getInv s ik = some iv → iv.ctx = ctx → iv.st = .waitInput ∨ iv.st = .waitSpace →
        (∃ u, exec (.fqresRetry fn ctx index) s = .next (advanceInv u ik) ∧
          Reexamined (modInv settled ik fun iv => { iv with asked := iv.asked.filter fun p => decide (e.va.toNat < p.1 ∨ p.1 + p.2 ≤ e.va.toNat) }) u ctx) ∧
        exec (.fqresFail fn ctx index) s = .next (endInvocation settled ik 3 0 0 0)))) ∧
    (∀ e, lget c.fq.pri n = some e → rebuildHolds s e = true → exec (.priResponse ctx n ok) s = .next s) ∧
    (∀ e k a th, lget c.fq.pri n = some e → rebuildHolds s e = false → e.who = .agent k a → getThread s k a = some th → th.run = .parkedFault → th.park = .entry →
      let s1 := modCtx s ctx fun c => { c with fq := { c.fq with pri := c.fq.pri.eraseIdx n } }
      exec (.priResponse ctx n ok) s = .next (if ok then modThread s1 k a fun th => { th with run := backTo a th, park := .none, inBlock := none, aside := none } else faultAppend s1 ctx e)) ∧
    (∀ p, tget s.pages fn = some p → p.invstat.getLsbD 8 = false → c.owner = fn → NoCommand s ctx →
      let lo := p.invva.toNat / 4096 % 2 ^ 45 * 4096
      let len := p.invlen.toNat % 2 ^ 32 * 4096
      let begun := fun (x : InvCmd) => modPage s fn fun p => { p with invstat := 0x100, invcmd := x }
      exec (.invalidate fn ctx glob) s = .next (begun (.invalidate ctx glob)) ∧
      (hasFeature c 7 = false → exec (.migrate fn ctx glob) s = .next (modPage s fn fun p => { p with invstat := 2 })) ∧
      (hasFeature c 7 = true → meetsMoving s c (invRange p) = false → ∃ tr, exec (.migrate fn ctx glob) s = .next (modCtx (begun (.migrate ctx glob)) ctx fun c => { c with tracked := tr }) ∧
        ∀ n, (tget c.tracked n = none → tget tr n = none) ∧ ∀ r, tget c.tracked n = some r → (tget tr n = some (false, false) ∨ tget tr n = some r) ∧
          (len = 0 ∨ lo ≤ 4096 * n ∧ 4096 * n < lo + len → tget tr n = some (false, false)))) ∧
    (∀ p, tget s.pages fn = some p → p.invstat.getLsbD 8 = false → c.owner = fn → ¬NoCommand s ctx →
      HeldBack (exec (.invalidate fn ctx glob) s) s fn ctx (.invalidate glob) (fun p => { p with invstat := p.invstat ||| 0x100 }) ∧
      HeldBack (exec (.migrate fn ctx glob) s) s fn ctx (.migrate glob) fun p => { p with invstat := p.invstat ||| 0x100 }) ∧
    (∀ p, tget s.pages fn = some p → c.fq.waiting = [] →
      let lo := p.invva.toNat / 4096 % 2 ^ 45 * 4096
      let len := p.invlen.toNat % 2 ^ 32 * 4096
      let meets := fun (va size : Nat) => len = 0 ∨ (va < lo + len ∧ lo < va + size)
      let freed := ∃ e ∈ s.pages, ∃ h ∈ e.2.held, h.ctx = ctx ∧ h.cmd.reg = .hctl
      let ends := fun (s1 t : State) => { t with tlb := s1.tlb, teams := s1.teams, ctxs := s1.ctxs } = { freeHeld (modPage s1 fn fun p => { p with invstat := 0, invcmd := .none }) ctx with ctxs := s1.ctxs } ∧
        t.tlb = s1.tlb.filter (fun e => ¬((e.ctx = ctx ∨ (glob = true ∧ e.glob = true ∧ e.part = c.part)) ∧
          if e.size = 4096 ∧ e.leaf.getLsbD 53 = true then meets (e.va / 65536 * 65536) 65536 else meets e.va e.size)) ∧
        (∃ tr st, getCtx t ctx = some { c with tracked := tr, heap := { c.heap with hstat := st } } ∧ (∀ n, (tget tr n).isSome = (tget c.tracked n).isSome) ∧
          (freed → st = c.heap.hstat &&& 0xFF) ∧ (¬freed → st = c.heap.hstat)) ∧ (∀ n, n ≠ ctx → getCtx t n = getCtx s1 n) ∧
        ∀ k tm, getTeam s1 k = some tm → ∃ tm', getTeam t k = some tm' ∧ { tm' with seq := tm.seq } = tm ∧
          tm'.seq = tm.seq.map fun q => { q with cache := q.cache.filter fun e => ¬(len = 0 ∨ (lo ≤ e.1 ∧ e.1 < lo + len)) }
      (p.invcmd = .invalidate ctx glob → storesThrough s ctx (invRange p) glob = false → ∃ t, exec (.invalidationComplete fn) s = .next t ∧ ends s t) ∧
      (p.invcmd = .invalidate ctx glob → storesThrough s ctx (invRange p) glob = true → exec (.invalidationComplete fn) s = .next s) ∧
      let gone := c.st = .killing ∨ c.st = .dead
      (p.invcmd = .migrate ctx glob → gone → ∃ t, exec (.migrateMark fn) s = .next t ∧ ends s t) ∧
      (p.invcmd = .migrate ctx glob → ¬gone → heldIn s ctx c (invRange p) = true ∨ storesThrough s ctx (invRange p) glob = true → exec (.migrateMark fn) s = .next s) ∧
      (p.invcmd = .migrate ctx glob → ¬gone → heldIn s ctx c (invRange p) = false → storesThrough s ctx (invRange p) glob = false →
        let u := markRange s c.root (invRange p)
        (∃ t, exec (.migrateMark fn) s = .next t ∧ ends u t) ∧ { u with mem := s.mem, teams := s.teams } = s ∧
        ∀ x, let marked := ∃ va a size, va < 2 ^ 57 ∧ LeafAt (tables s) va 4 c.root a size ∧ meets (va / size * size) size ∧ a % 2 ^ 52 = x % 2 ^ 52
          (marked → readByte u.mem x = readByte s.mem x ||| 0x80) ∧ (¬marked → readByte u.mem x = readByte s.mem x))) ∧
    (∀ th slot bs s1 num h o kn seq, getThread s team agent = some th → th.run = .parkedFault → th.park = .trap seq → ctxNum s team = ctx → ctxOf s team = some c → c.st ≠ .killing → c.st ≠ .dead → s.hub.rebuilding = false →
      lowestFree c.frames 0 c.tfslots.toNat = some slot → agentFrame s team agent th.trapc.toNat seq th.trapv th.epc = some bs →
      deviceWriteLong ctx framePages s (c.tfbase.toNat + slot * 2 ^ 19) bs = some s1 →
      let s2 := modCtx (modThread s1 team agent fun th => { th with park := .frame slot }) ctx fun c => { c with frames := tput c.frames slot { team := team, agent := agent, handler := none } }
      let ik := invKey c.part num
      let iv := handlerInvoc ctx o kn h.1 h.2 (.handler team agent slot th.trapc th.trapv th.epc) (s2.arb + 1)
      (freeInv s c.part = none → exec (.trapFrameWrite team agent) s = .next s2) ∧
      (freeInv s c.part = some num → c.handler = some h → findKernel c h.1 h.2 = some (o, kn) → noFit { s2 with arb := s2.arb + 1, invs := tput s2.invs ik iv } ik iv = false →
        ∃ u, exec (.trapFrameWrite team agent) s = .next u ∧ Reexamined (modCtx { s2 with arb := s2.arb + 1, invs := tput s2.invs ik { iv with st := .dispatchable } } ctx fun c =>
          { c with frames := tmod c.frames slot fun f => { f with handler := some ik } }) u ctx))) ∧
  (∀ p, tget s.pages fn = some p → p.invstat.getLsbD 8 = false → exec (.invctlInvalid fn ctx op) s = .next (modPage s fn fun p => { p with invstat := 2 }))

/-- R211 to R214, R219 to R222: the heap commands and the steps of an evacuation: plan and bump, drain, copy, sweep; a reservation tried again. What rests on the model's reading: no
to-space is needed where nothing is live, and MAP comes before NO-SPACE (log entries 31, 32), the limits of a heap that ENABLE accepts, and that the command is not obeyed for a context of another
function (33), the code HSTAT shows for a FREE context (93), a command held back with BUSY set (34), what a sweep heals (35), a rebuild that holds the reservation (45), an object whose PIN is poisoned stays uncopied (96), and
the tracking of pages (99). -/
def Obligations.HeapEvents : Prop := ∀ (fn ctx off inv : Nat) (dest region : BitVec 16) (any : Bool) (op : BitVec 3) (s : State) (c : Ctx), getCtx s ctx = some c →
  let h := c.heap
  let g := region.toNat
  let r := getRegion h g
  let base := fun g => h.heapva.toNat + g * 2 ^ 21
  let stat := fun (i : Instr) (code : Word) => exec i s = .next (modHeap s ctx fun h => { h with hstat := code })
  (c.owner ≠ fn ∨ h.hstat.getLsbD 8 = true → ∀ i ∈ [Instr.heapEnable fn ctx, .heapDisable fn ctx, .evacuate fn ctx dest region any, .hctlInvalid fn ctx op], exec i s = .next s) ∧
  (c.owner = fn → h.hstat.getLsbD 8 = false → ¬NoCommand s ctx →
    ∀ r ∈ [(Instr.heapEnable fn ctx, Command.heapEnable), (.heapDisable fn ctx, .heapDisable), (.evacuate fn ctx dest region any, .evacuate dest region any), (.hctlInvalid fn ctx op, .hctlInvalid op)],
      HeldBack (exec r.1 s) (modHeap s ctx fun h => { h with hstat := h.hstat ||| 0x100 }) fn ctx r.2 id) ∧
  (c.owner = fn → h.hstat.getLsbD 8 = false → NoCommand s ctx →
    (hasFeature c 3 = true → c.st ≠ .creating → c.st ≠ .killing → c.st ≠ .dead → h.enabled = false →
      (HeapAccepted s c → exec (.heapEnable fn ctx) s = .next (modHeap s ctx fun h => { h with enabled := true, regions := [], alloc := none, refBits := [], hstat := 0 })) ∧
      (¬HeapAccepted s c → stat (.heapEnable fn ctx) 2)) ∧
    (hasFeature c 3 = false ∨ c.st = .creating ∨ h.enabled = true → stat (.heapEnable fn ctx) 1) ∧
    (ctxHasTeam s ctx = false → movingCount h = 0 → ∃ rs, exec (.heapDisable fn ctx) s = .next (modHeap s ctx fun h => { h with enabled := false, regions := rs, alloc := none, refBits := [], hstat := 0 }) ∧
      ∀ n, tget rs n = (tget h.regions n).map fun r => { st := .free, gen := r.gen, top := 0, large := false, fwd := [], drained := false, leaves := [] }) ∧
    (ctxHasTeam s ctx = true ∨ movingCount h ≠ 0 → stat (.heapDisable fn ctx) 1) ∧
    stat (.hctlInvalid fn ctx op) 2 ∧
    (h.enabled = false ∨ h.heapn.toNat ≤ g ∨ r.st ≠ .live ∨ r.large = true ∨ 4 ≤ movingCount h → stat (.evacuate fn ctx dest region any) 1) ∧
    (let from' := if any then 0 else dest.toNat
     let free := fun d => from' ≤ d ∧ d < h.heapn.toNat ∧ (getRegion h d).st = .free
     let mapped := fun d => ∀ i, i < 512 → MappedRW s c.root (base d + 4096 * i) true
     h.enabled = true → g < h.heapn.toNat → r.st = .live → r.large = false → movingCount h < 4 →
      ((∃ va ∈ planPages c g from', tampered s c va = true) → exec (.evacuate fn ctx dest region any) s = .next (modCtx s ctx fun c => { c with broken := true })) ∧
      ((∀ va, tampered s c va = false) → r.top ≤ 2 ^ 21 →
      (∀ code, planOf s c g from' = .inr code → stat (.evacuate fn ctx dest region any) (BitVec.ofNat 64 code)) ∧
      (¬mapped g → planOf s c g from' = .inr 2) ∧ (∀ code, planOf s c g from' = .inr code → code = 2 ∨ code = 3 ∧ ∀ d, ¬free d) ∧
      ∀ objs t, planOf s c g from' = .inl (objs, t) → t ≠ some g → mapped g ∧ Planned s c (base g) r.top 0 objs ∧ (t = none ↔ ∀ o ∈ objs, o.2.2 = false ∨ o.2.1 = 0) ∧
       (∀ d, t = some d → free d ∧ mapped d ∧ ∀ d', free d' → d ≤ d') ∧
      ∃ u h', exec (.evacuate fn ctx dest region any) s = .next u ∧ u.arb = s.arb + 1 ∧ { u with arb := s.arb, teams := s.teams } = modHeap s ctx (fun _ => h') ∧ h'.hstat = 0 ∧
        (getRegion h' g).st = .evacuating ∧ (getRegion h' g).gen = (r.gen + 1) % 16 ∧ (getRegion h' g).drained = false ∧ (getRegion h' g).top = r.top ∧
        (∀ pre o post, objs = pre ++ o :: post → (∀ x ∈ pre, x.1 ≠ o.1) → tget (getRegion h' g).fwd o.1 = some (match t with
          | some d => if o.2.2 then { st := .notCopied, newAddr := base d + liveBytes pre, newGen := (getRegion h d).gen, priority := 0 } else { st := .dropped, newAddr := 0, newGen := 0, priority := 0 }
          | none => { st := if o.2.2 then .notCopied else .dropped, newAddr := if o.2.2 then liveBytes pre else 0, newGen := 0, priority := 0 })) ∧
        (∀ d, t = some d → (getRegion h' d).top = liveBytes objs ∧ (getRegion h' d).gen = (getRegion h d).gen) ∧
        ∀ k j x, getGroup s k j = some x → getGroup u k j = some (if (invOf s k).map (·.ctx) = some ctx ∧ (x.txn.map fun y => y.regions.contains g) = some true then abortTxn x 3 0 else x)))) ∧
  (let put := fun (f : Region → Region) => modHeap s ctx fun h => { h with regions := tput h.regions g (f (getRegion h g)) }
   let clean := fun (f : Tbl Fwd) => ∀ e ∈ f, e.2.st ≠ .notCopied ∧ e.2.st ≠ .copying
   (r.st = .evacuating → clean r.fwd → exec (.evacuateDrainComplete ctx g) s = .next (put fun r => { r with drained := true, st := .relocated })) ∧
   (r.st = .evacuating → ¬clean r.fwd → exec (.evacuateDrainComplete ctx g) s = .next (put fun r => { r with drained := true })) ∧
   (∀ f, tget r.fwd off = some f → r.st = .evacuating → r.drained = true →
     let changed := ∃ e ∈ r.fwd, e.2.st = .notCopied ∧ tampered s c (base g + e.1) = true
     (changed → exec (.objectCopyStart ctx g off) s = .next (modCtx s ctx fun c => { c with broken := true })) ∧
     (¬changed → f.st = .notCopied → pinOf s c.root (base g + off) = some 0 →
       (∀ e ∈ r.fwd, e.2.st = .notCopied → pinOf s c.root (base g + e.1) = some 0 → copiedBefore e (off, f) = false) →
       exec (.objectCopyStart ctx g off) s = .next (put fun r => { r with fwd := tmod r.fwd off fun f => { f with st := .copying } })) ∧
     (¬changed → f.st ≠ .notCopied ∨ pinOf s c.root (base g + off) ≠ some 0 → exec (.objectCopyStart ctx g off) s = .next s)) ∧
   (∀ f size s1 a s2 b, tget r.fwd off = some f → f.st = .copying → tampered s c (base g + off) = false → planRead s c.root (base g + off) 4 = some size →
     caretakerSpan ctx .read 514 s (base g + off) (objectLen size) = (s1, some a) → caretakerSpan ctx .write 514 s1 f.newAddr (objectLen size) = (s2, some b) →
     let s3 := dirtySpan ctx 514 s2 f.newAddr (objectLen size)
     ∃ t ct f', exec (.objectCopyComplete ctx g off) s = .next t ∧ { t with mem := s2.mem, poison := s2.poison, tlb := s2.tlb, teams := s2.teams, ctxs := s2.ctxs } = s2 ∧
       ((b.flatMap fun p => upFrom p.1 p.2).Nodup → (∀ p ∈ b, p.1 + p.2 ≤ 2 ^ 52) → pieceBytes t.mem b = pieceBytes s2.mem a) ∧ (∀ x, (∀ p ∈ b, Outside p.1 p.2 x) → readByte t.mem x = readByte s3.mem x) ∧
       getCtx t ctx = some ct ∧ tget (getRegion ct.heap g).fwd off = some f' ∧ f' = { f with st := .copied }) ∧
   (r.st = .relocated → leavesChanged (tables s) c.root r = false → ∃ t ct, exec (.sweepComplete ctx g) s = .next t ∧ getCtx t ctx = some ct ∧
     { ct with heap := h, broken := c.broken } = c ∧ getRegion ct.heap g = { st := .free, gen := r.gen, top := 0, large := false, fwd := [], drained := false, leaves := [] } ∧
     (∀ n, n ≠ g → getRegion ct.heap n = getRegion h n) ∧ (∀ w, base g / 8 ≤ w → w < (base g + 2 ^ 21) / 8 → tget ct.heap.refBits w = none) ∧
     ∀ k j x, getGroup s k j = some x → x.txn = none → (invOf s k).map (·.ctx) = some ctx → (x.h.map (·.1)).Nodup →
       ∃ y, getGroup t k j = some y ∧ y.v = x.v ∧ y.th.x = x.th.x ∧ ∀ n, tgetD y.h n 0 = healed h g (tgetD x.h n 0))) ∧
  (∀ iv, getInv s inv = some iv → iv.st = .waitSpace → iv.ctx = ctx →
    Reexamined s (trackNow s ctx) ctx ∧
    (s.hub.rebuilding = false → lget iv.results iv.reserved = none → ∃ u, exec (.heapReservationRetry inv) s = .next u ∧ Reexamined (modInv s inv fun iv => { iv with st := .dispatchable }) u ctx) ∧
    (∀ n refc s0 s1 x hd, lget iv.results iv.reserved = some (hd, .heap n refc) → iv.results.length = iv.reserved + 1 → s.hub.rebuilding = false → deviceMay (trackNow s ctx) ctx refc.toNat = (s0, true) →
      heapAlloc s0 (hubAsker ctx) (BitVec.ofNat 64 n) = (s1, .made x) → ∃ u, exec (.heapReservationRetry inv) s = .next u ∧
        Reexamined (modInv ((deviceWrite s1 ctx refc.toNat (natBytes x.toNat 8)).getD s1) inv fun iv => { iv with reserved := iv.reserved + 1, refs := iv.refs ++ [(hd, x)], st := .dispatchable }) u ctx) ∧
    (s.hub.rebuilding = true → exec (.heapReservationRetry inv) s = .next s)) ∧
  ∀ n p, getCtx s n = none → tget s.pages fn = some p → ∀ r ∈ [(Instr.heapEnable fn n, 1), (.heapDisable fn n, 0), (.evacuate fn n dest region any, 1), (.hctlInvalid fn n op, 2)],
    exec r.1 s = .next (modPage s fn fun p => { p with hfree := r.2 })

/-- R84, R93, R95, R98, R108, R119, R383: aging, selection, placement of fresh and of saved teams, retirement and the end of an invocation. The targets are those of the
model's plan (DESIGN CHOICE and DEDUCED, log entries 21, 27, 41). What else rests on the model's reading: a sequencer stops once its groups have retired, and retirement waits for the engines
(log entry 38), a mark comes before BAD-TILE (42), all of it waits while the Timetable's root is rebuilt (45), and another PLACING invocation comes first where it has room (81). -/
def Obligations.Scheduling : Prop := ∀ (inv part team : Nat) (s : State) (iv : Invoc), getInv s inv = some iv →
  (ages s inv iv = true → ∃ iv', exec (.priorityAging inv) s = .next (modInv s inv fun _ => iv') ∧
    effPrio iv' = Nat.min 7 (effPrio iv + 1) ∧ { iv' with aged := iv.aged } = iv) ∧
  (let ready := fun (e : Nat × Invoc) => e.1 / 4096 = part ∧ e.2.st = .dispatchable ∧ MayPlace s e.2
   (inv, iv) ∈ s.invs → ready (inv, iv) →
    (∀ e ∈ s.invs, ready e → e.1 = inv ∨ effPrio e.2 < effPrio iv ∨ effPrio e.2 = effPrio iv ∧ iv.order < e.2.order) →
    exec (.invocationSelect part) s = .next (modInv s inv fun iv => { iv with st := .placing })) ∧
  (∀ unit, nextUnit s inv iv = some unit → ∀ l ∈ unit, ∀ t ∈ l, t < iv.nextTeam → ∀ e ∈ s.teams, e.2.inv = inv → e.2.tidx / iv.gang = t / iv.gang → e.2.saved = true) ∧
  (let rival := fun (e : Nat × Invoc) => e.1 ≠ inv ∧ e.1 / 4096 = inv / 4096 ∧ e.2.st = .placing ∧ MayPlace s e.2 ∧ Precedes e.2 iv ∧ ∃ u l, nextUnit s e.1 e.2 = some u ∧ planUnit s s e.1 e.2 u = some l ∧ l ≠ []
   iv.st = .placing → MayPlace s iv → ((∃ e ∈ s.invs, rival e) → exec (.teamPlace inv) s = .next s) ∧ ((∀ e ∈ s.invs, ¬rival e) →
    (∀ unit l, nextUnit s inv iv = some unit → planUnit s s inv iv unit = some l →
      ((∃ p ∈ l, clusterGated s p.2.1.cluster = true) → exec (.teamPlace inv) s = .next { s with clusters := tmap s.clusters fun c x => { x with ungating := x.ungating || x.gated && l.any fun p => p.2.1.cluster = c } }) ∧
      ((∀ p ∈ l, clusterGated s p.2.1.cluster = false) → iv.kind = .launch → iv.tile = false → (l.map (·.1)).Nodup → (∀ p ∈ l, getTeam s (teamKey inv p.1) = none) → (getCtx s iv.ctx).isSome →
        ∃ t iv', exec (.teamPlace inv) s = .next t ∧ { t with teams := s.teams, invs := s.invs } = s ∧
          (∀ p ∈ l, ∃ tm, getTeam t (teamKey inv p.1) = some tm ∧ Starts iv inv p tm) ∧
          (∀ k, (∀ p ∈ l, k ≠ teamKey inv p.1) → getTeam t k = getTeam s k) ∧ (∀ k, k ≠ inv → getInv t k = getInv s k) ∧
          getInv t inv = some iv' ∧ { iv' with st := iv.st, nextTeam := iv.nextTeam, again := iv.again } = iv ∧ (∀ p ∈ l, p.1 < iv'.nextTeam ∧ (iv.again.Nodup → p.1 ∉ iv'.again)) ∧
          (l ≠ [] → AllPlaced t inv iv' → iv'.st = .running) ∧ (¬AllPlaced t inv iv' → iv'.st = .placing)) ∧
      (∀ p tm, l = [p] → clusterGated s p.2.1.cluster = false → getTeam s (teamKey inv p.1) = some tm →
        (∀ a th, a < 17 → getThread s (teamKey inv p.1) a = some th → th.owed = none ∧ (∀ w, ¬Waits th (.waitMem w)) ∧ (∀ m, ¬Waits th (.waitToken m)) ∧ ∀ j n, ¬Waits th (.waitQuiet j n)) →
        ∃ t tm', exec (.teamPlace inv) s = .next t ∧ { t with teams := s.teams, invs := s.invs } = s ∧ (∀ k, k ≠ teamKey inv p.1 → getTeam t k = getTeam s k) ∧
          getTeam t (teamKey inv p.1) = some tm' ∧ tm'.saved = false ∧ tm'.preempt = false ∧ tm'.target = p.2.1 ∧ tm'.prio = effPrio iv ∧
          tm'.seq = tm.seq.map (fun q => { q with th := { q.th with lastTs := none } }) ∧ tm'.bells = tm.bells ∧ tm'.spad = tm.spad ∧ tm'.spadPoison = tm.spadPoison ∧ tm'.tags = tm.tags ∧ tm'.ops = tm.ops ∧ tm'.groups.length = tm.groups.length ∧
          ∀ j g, lget tm.groups j = some g → ∃ g', lget tm'.groups j = some g' ∧ if g.th.run = .retired then g'.th.run = .retired else Restored g g')))) ∧
  (∀ tm, getTeam s team = some tm → tm.inv = inv → tm.saved = false → tm.ops = [] → (∀ g ∈ tm.groups, g.th.run = .retired) →
    mayIssue s (.seq team) = false ∧ (s.hub.rebuilding = true → exec (.teamRetire team) s = .next s) ∧ (s.hub.rebuilding = false → ∃ t, exec (.teamRetire team) s = .next t ∧ { t with teams := s.teams, ctxs := s.ctxs, invs := s.invs } = s ∧ getTeam t team = none ∧ (∀ k, k ≠ team → getTeam t k = getTeam s k) ∧
      (iv.st = .running → AllPlaced t inv iv → (∀ e ∈ t.teams, e.2.inv ≠ inv) → getInv t inv = some { iv with st := .draining }) ∧
      (iv.st = .running → AllPlaced t inv iv → (∃ e ∈ t.teams, e.2.inv = inv) → getInv t inv = some iv))) ∧
  (iv.st = .draining → s.hub.rebuilding = false → iv.mark = none → iv.badTile = false → ∀ s1,
    (iv.ccell = 0 ∧ s1 = s ∨ iv.ccell ≠ 0 ∧ iv.ccell.toNat % 8 = 0 ∧ deviceWrite s iv.ctx iv.ccell.toNat (natBytes (iv.ctag.toNat % 2 ^ 32 * 2 ^ 32) 8) = some s1) →
    let t := modInv s1 inv fun iv => { iv with st := .done, held := [], asked := [], refs := [] }
    ((∀ m a, iv.kind ≠ .message m a) → exec (.invocationComplete inv) s = .next t) ∧
    ∀ m a, iv.kind = .message m a → exec (.invocationComplete inv) s = .next { t with jobs := tmod t.jobs m.job fun j => { j with con := j.con + 1, dirty := true } }) ∧
  (iv.st = .draining → s.hub.rebuilding = false → iv.kind = .launch → iv.ccell = 0 → ∀ status tidx cause own, status ≠ 0 →
    (iv.mark = some (status, tidx, cause, own) ∨ iv.mark = none ∧ iv.badTile = true ∧ status = 5 ∧ tidx = 0 ∧ cause = 0 ∧ own = 0) →
    exec (.invocationComplete inv) s = .next (modInv (invRecord s inv iv status tidx cause own) inv fun iv => { iv with st := .faulted, held := [], asked := [], refs := [] }))

/-- R85, R123, R124, R189: the request for a pre-emption (the victims are the model's reading, log entry 46), its two time limits and the save of a team, which a team
that is done does not need (R119) and which waits while the Timetable's root is rebuilt (R390, log entry 45). -/
def Obligations.Preemption : Prop := ∀ (inv team group : Nat) (s : State) (iv : Invoc) (tm : Team) (g : Group),
  (getInv s inv = some iv → iv.st = .placing ∨ iv.st = .dispatchable → MayPlace s iv → ∀ unit, nextUnit s inv iv = some unit →
    let fits := fun ks => (planUnit s (withoutTeams s ks) inv iv unit).isSome
    (∀ l, chooseVictims fits (fun e => preemptSet s e.2) (victims s inv iv) [] = some l →
      ∃ (t : State) (ks : List (List Nat)), exec (.preemptionTimeout inv) s = .next t ∧ { t with teams := s.teams } = s ∧ fits ks.flatten = true ∧ ks.Sublist l ∧
        ∀ k, getTeam t k = (getTeam s k).map fun x => { x with preempt := x.preempt || ks.flatten.contains k && !x.saved }) ∧
    (∀ e ∈ victims s inv iv, e ∈ s.teams ∧ e.2.saved = false ∧ e.2.inv / 4096 = inv / 4096 ∧ e.2.prio < effPrio iv) ∧ ((victims s inv iv).map (·.2.prio)).Pairwise (· ≤ ·) ∧
    (chooseVictims fits (fun e => preemptSet s e.2) (victims s inv iv) [] = none → exec (.preemptionTimeout inv) s = .next s)) ∧
  (getTeam s team = some tm → tm.preempt = true → tm.saved = false → (∀ cl, tget s.clusters tm.target.cluster = some cl → cl.rebuilding = false) →
    ((s.hub.rebuilding = true ∨ tm.ops ≠ [] ∨ (∀ x ∈ tm.groups, x.th.run = .retired) ∨ ∃ x ∈ tm.groups, x.txn ≠ none ∨ (x.th.run = .parkedFault ∧ ∃ n, x.th.park = .trap n) ∨ x.th.halted = false ∧ x.th.run = .running ∧ x.th.stalled = true) →
      exec (.teamSave team) s = .next s) ∧
    (lget tm.groups group = some g →
      (∀ b, g.block = some b → exec (.blockPreemptTimeout team group) s = .next (putGroup s team group { g with block := some { b with forced := true } })) ∧
      ∀ x, g.txn = some x → ∃ t g', exec (.transactionPreemptTimeout team group) s = .next t ∧ ButGroup s t team group ∧ getGroup t team group = some g' ∧
        g'.txn = none ∧ g'.th.x = x.x ∧ g'.h = x.h ∧ g'.fcsr = x.fcsr ∧ g'.th.pc = x.abort ∧ g'.txs = BitVec.ofNat 64 (2 * 4 + 256 * (txnLines x).length) ∧ g'.v = g.v ∧ g'.p = g.p) ∧
    (s.hub.rebuilding = false → tm.ops = [] → (∃ x ∈ tm.groups, x.th.run ≠ .retired) → (∀ g ∈ tm.groups, groupStopped s (ctxNum s team) g = true) → (∀ q, tm.seq = some q → seqStopped s (ctxNum s team) q = true) →
      ∃ t tm', exec (.teamSave team) s = .next t ∧ { t with teams := s.teams, invs := s.invs } = s ∧ (∀ k, k ≠ team → getTeam t k = getTeam s k) ∧
        getTeam t team = some tm' ∧ { tm' with saved := false, preempt := true, beforeTset := tm.beforeTset } = tm ∧ tm'.saved = true ∧ tm'.preempt = false ∧
        (∀ k, k ≠ tm.inv → getInv t k = getInv s k) ∧
        ∀ iv, getInv s tm.inv = some iv → iv.st = .running ∨ iv.st = .placing → getInv t tm.inv = some { iv with st := .placing, prio := tm.prio, aged := 0 }))

/-- R178 to R186: a signal is applied once at its team's bell or discarded with its record, and held while a unit it needs is rebuilt (R390, log entry 45); a parked watch is evaluated,
completes where it is satisfied, and at its timeout writes the results of the last evaluation, which is made first where one is due or a watched location lies in scratchpad (log entry 23). -/
def Obligations.SignalsAndWatches : Prop := (∀ (s : State) (n : Nat) (g : Signal), lget s.signals n = some g →
    let s1 := { s with signals := s.signals.eraseIdx n }
    let stray := errorRecord s1 g.fromCtx 0x08 g.bell g.fromInv g.fromTidx g.r0.toNat g.r1.toNat
    (s.hub.rebuilding = true → exec (.bsigApply n) s = .next s) ∧ (s.hub.rebuilding = false →
    (∀ c t iv x cl, getCtx s g.ctx = some c → c.st ≠ .killing → c.st ≠ .dead → c.part = g.fromPart →
      let k := teamKey (invKey c.part g.inv) g.tidx
      getTeam s k = some t → getInv s t.inv = some iv → iv.ctx = g.ctx → iv.st ≠ .done → iv.st ≠ .faulted → getBell s k g.bell = some x → tget s.clusters t.target.cluster = some cl →
      let turned := { x with ph := x.ph + 1, arr := 0, by' := [] }
      (t.saved = false → cl.rebuilding = true → exec (.bsigApply n) s = .next s) ∧ (t.saved = true ∨ cl.rebuilding = false →
        (x.counting = false → exec (.bsigApply n) s = .next stray) ∧
        (x.counting = true → x.arr + 1 < x.exp → exec (.bsigApply n) s = .next (withBell s1 k g.bell { x with arr := x.arr + 1 })) ∧
        (x.counting = true → x.exp ≤ x.arr + 1 → traceOn s k 9 = false → ∃ u, exec (.bsigApply n) s = .next u ∧ TeamOnly s1 u k ∧
          getBell u k g.bell = some turned ∧ Released (withBell s1 k g.bell turned) u k g.bell))) ∧
    (getCtx s g.ctx = none → exec (.bsigApply n) s = .next stray) ∧
    (∀ c, getCtx s g.ctx = some c → (c.st = .killing ∨ c.st = .dead ∨ c.part ≠ g.fromPart ∨ getTeam s (teamKey (invKey c.part g.inv) g.tidx) = none) → exec (.bsigApply n) s = .next stray))) ∧
  ∀ (s : State) (cx : Cx) (w : Watch) (c : Ctx), Watching s cx w → ∀ s1 res, getCtx s1 cx.cn = some c →
    let due := w.due = true ∨ ∃ e ∈ w.items, inWindow e.2.1.toNat = true
    let lines := fun (l : List (Nat × Word × Nat)) => ((l.filterMap fun e => (peek (tables s1) c.root e.2.1.toNat).map (·.1 / 64)).eraseDups).take 64
    let evaluations := [Instr.watchEvaluation cx.k cx.i, .watchPeriodicEvaluation cx.k cx.i]
    (watchReads (asker cx) w.size w.cond true w.items s = some (s1, res) →
      (∀ i ∈ evaluations, (res.all (·.2) = true → WatchDone (exec i s) s1 cx w res) ∧
        (res.all (·.2) = false → exec i s = .next (putGroup s1 cx.k cx.i { cx.g with th := { cx.g.th with run := .waitMem { w with last := res, lines := lines w.items, due := false } } }))) ∧
      (w.timeout ≠ BitVec.allOnes 64 → cx.g.th.halted = false → due → WatchDone (exec (.watchTimeout cx.k cx.i) s) s1 cx w res)) ∧
    (∀ n i va y s2 l, lget w.items n = some (i, va, y) → 0 < n → watchReads (asker cx) w.size w.cond true (w.items.take n) s = some (s1, res) → res.all (·.2) = false →
      findOne (asker cx) s1 va w.size i false = none → findOne (asker cx) s1 va w.size i true = some (s2, l) →
      ∀ ev ∈ evaluations, ∃ u g', exec ev s = .next u ∧ ButGroup s1 u cx.k cx.i ∧ getGroup u cx.k cx.i = some g' ∧ g'.vlen = BitVec.ofNat 64 i ∧
        g'.th.run = .waitMem { w with items := w.items.take n, last := res, lines := lines (w.items.take n), due := false } ∧ g'.th.pc = cx.g.th.pc) ∧
    (w.timeout ≠ BitVec.allOnes 64 → cx.g.th.halted = false → ¬due → WatchDone (exec (.watchTimeout cx.k cx.i) s) s cx w w.last) ∧
    (w.timeout = BitVec.allOnes 64 ∨ cx.g.th.halted = true → exec (.watchTimeout cx.k cx.i) s = .next s)

/-- R140, R166 to R172, R262: the access engine delivers the next element of a READ slot, on a multicast to every receiver, or stops the slot at a fault; the copy engine performs the
next element of an operation, each read only once the one before it is written (log entry 110); a token completes; a word the firmware emulates completes (log entry 9). -/
def Obligations.EngineEvents : Prop := (∀ (s : State) (cx : Cx) (t : Team) (x : Slot) (slot : Nat), getTeam s cx.k = some t → t.saved = false → cxFor s cx.k cx.i = some cx → slot < 4 → lget cx.g.slots slot = some x →
    x.st = .read → x.desc.dir ≠ 2 → x.blocked = none → x.pos + x.ahead.length < x.len →
    let n := x.pos + x.ahead.length
    let w := fmtWidth x.desc.fmt
    let addr := streamAddr x n
    let ev := Instr.streamElementDeliver cx.k cx.i slot
    let first := decide (n = x.pos) && x.wanted
    let due := x.wanted && decide (n < x.pos + x.need)
    (x.multicast = false → ∀ g1 y, makeRoom cx.kn cx.g slot = some g1 → lget g1.slots slot = some y →
      { y with spare := x.spare } = x ∧ (x.ahead.length < (1 + x.spare) * slotCap cx.kn cx.g x → y = x) ∧
      (∀ s2 v, readElem (engine cx) (putGroup s cx.k cx.i g1) addr w 0 first due = some (s2, v) →
        ∃ u g2 g', exec ev s = .next u ∧ ButGroup s2 u cx.k cx.i ∧ getGroup s2 cx.k cx.i = some g2 ∧ (cx.g.txn = none → { g2 with slots := cx.g.slots } = cx.g) ∧
          getGroup u cx.k cx.i = some g' ∧ { g' with slots := g2.slots } = g2 ∧
          lget g'.slots slot = some { y with ahead := x.ahead ++ [v] } ∧ ∀ m, m ≠ slot → lget g'.slots m = lget cx.g.slots m) ∧
      (∀ s2 b, 8 ≤ w → resolve (putGroup s cx.k cx.i g1) (engine cx) (BitVec.ofNat 64 (addr / 8)) (w / 8) .read 0 = (s2, .bad b) →
        ∃ u g', exec ev s = .next u ∧ ButGroup s2 u cx.k cx.i ∧ getGroup u cx.k cx.i = some g' ∧ lget g'.slots slot = some { y with blocked := some b }) ∧
      (∀ s2 l, 8 ≤ w → n ≠ x.pos ∨ x.wanted = false → findOne (engine cx) (putGroup s cx.k cx.i g1) (BitVec.ofNat 64 (addr / 8)) (w / 8) 0 false due = none →
        findOne (engine cx) (putGroup s cx.k cx.i g1) (BitVec.ofNat 64 (addr / 8)) (w / 8) 0 true due = some (s2, l) → exec ev s = .next s)) ∧
    (x.multicast = true → allBound s cx.k x = true → ∀ s1 s2 v,
      roomEverywhere cx.kn ((cx.k, cx.i, slot) :: receivers s cx.k x n) s = some s1 → readElem (engine cx) s1 addr w 0 first due = some (s2, v) →
      exec ev s = .next (((cx.k, cx.i, slot) :: receivers s cx.k x n).foldl (fun s e => appendElem s v e) s2)) ∧
    (x.multicast = true → allBound s cx.k x = false → exec ev s = .next s)) ∧
  (∀ (s : State) (k a tok : Nat) (t : Team) (op : EngOp), getTeam s k = some t → t.saved = false → getOp s k a tok = some op → op.parked = false →
    let q := engAsker s k op
    let ev := Instr.engineElementTransfer k a tok
    let moved := fun (u : State) => getOp u k a tok = some { op with pos := op.pos + 1, held := none }
    let reads := fun (s1 : State) (v : Nat × Bool) => ∃ u, exec ev s = .next u ∧ TeamOnly s1 u k ∧ getOp u k a tok = some { op with held := some v } ∧
      (getTeam u k).map (fun x => { x with ops := [], seq := none }) = (getTeam s1 k).map fun x => { x with ops := [], seq := none }
    (∀ dst src len, op.kind = .cpy dst src len → op.pos < len / cpyUnit dst src len →
      let n := cpyUnit dst src len
      let off := BitVec.ofNat 64 (op.pos * n)
      (op.held = none → (∀ s1 v, carryOne q s (src + off) n = some (s1, v) → reads s1 v) ∧
        (∀ th s1 c v, getThread s k a = some th → tok < 8 → resolve s q (src + off) n .read 0 = (s1, .bad (.trap c v)) → ∃ s2 th', exec ev s = .next s2 ∧ getThread s2 k a = some th' ∧ th'.err.getLsbD tok = true ∧ th'.pend.getLsbD tok = false ∧
          getOp s2 k a tok = none ∧ TeamOnly (errorRecord s1 (ctxNum s1 k) 0x07 (if c = 4 then 9 else 8) (t.inv % 4096) (src + off).toNat (a + 256 * tok) t.tidx) s2 k)) ∧
      ∀ v p, op.held = some (v, p) → ∀ s1 l, stageOne q s (dst + off) n = some (s1, l) → (∀ x, l ≠ .gone x) →
        (p = true → ∃ u, exec ev s = .next u ∧ moved u ∧ poisoned u l n = true ∧ Stored s1 u l n (v % 2 ^ (8 * n))) ∧
        (p = false → poisoned s1 l n = false → ∃ u, exec ev s = .next u ∧ moved u ∧ DeviceKept s1 u ∧ Stored s1 u l n (v % 2 ^ (8 * n)))) ∧
    (∀ r base fmt cells hs i j, op.kind = .tld r base fmt cells hs → lget cells op.pos = some (i, j) →
      let w := fmtWidth fmt
      let b := recBit r w i j
      let header := BitVec.ofNat 64 (r.toNat / 2 ^ 128 % 2 ^ 57 + recElem r i j / 2 ^ (r.toNat / 2 ^ 185 % 64) * 2)
      let covered := fun z => ∃ i', i < i' ∧ (∃ c ∈ cells, i' ≤ c.1) ∧ recBit r w i' 0 ≤ z ∧ ∃ c ∈ cells, z < recBit r w i' (c.2 + 1)
      (op.held = none → ∀ s1 v, carryElem q s (8 * base.toNat + recElem r i j * w) w = some (s1, v) →
        (hs = false → reads s1 v) ∧
        (hs = true → ∀ s2 h bad, carryOne q s1 header 2 = some (s2, h, bad) → reads s2 v ∧ ∃ u q1 q2, exec ev s = .next u ∧ (getSeq s2 k = some q1 → getSeq u k = some q2 ∧
          { q2 with cache := q1.cache } = q1 ∧ tget q2.cache header.toNat = if bad then none else some (BitVec.ofNat 16 h)))) ∧
      ∀ v p x, op.held = some (v, p) → getTeam s (recTeam s k r) = some x → ∃ u y, exec ev s = .next u ∧ moved u ∧ { u with teams := s.teams } = s ∧ getTeam u (recTeam s k r) = some y ∧
        (∀ z, b ≤ z → z < b + w → ¬covered z → spadBits y z 1 = v / 2 ^ (z - b) % 2) ∧ (∀ z, z < b ∨ b + w ≤ z ∨ covered z → spadBits y z 1 = spadBits x z 1) ∧
        (p = true → (∃ z, b ≤ z ∧ z < b + w ∧ ¬covered z) → b / 64 ∈ y.spadPoison)) ∧
    (∀ r base fmt vals hs, op.kind = .tst r base fmt vals hs → op.pos < vals.length + hs.length → s.poison = [] →
      (hsWaits s (ctxNum s k) t op = true → exec ev s = .next s) ∧
      (hsWaits s (ctxNum s k) t op = false →
        let w := fmtWidth fmt
        let writes := fun (s1 : State) (ps : List (Loc × Nat)) => ∃ u, exec ev s = .next u ∧ moved u ∧ MemOutside s s1 ps ∧ { u with teams := s1.teams } = s1 ∧ ∀ k', k' ≠ k → getTeam u k' = getTeam s1 k'
        (∀ e v s1 ps, lget vals op.pos = some (e, v) → stageElem q s (8 * base.toNat + e * w) w v = some (s1, ps) → writes s1 ps) ∧
        ∀ e v s1 ps, vals.length ≤ op.pos → lget hs (op.pos - vals.length) = some (e, v) → stageElem q s (8 * (r.toNat / 2 ^ 128 % 2 ^ 57 + e * 2)) 16 v = some (s1, ps) → writes s1 ps)) ∧
    ∀ th, getThread s k a = some th → engTotal op ≤ op.pos → ∃ u th', exec (.tokenComplete k a tok) s = .next u ∧ TeamOnly s u k ∧ getOp u k a tok = none ∧
      getThread u k a = some th' ∧ TokenDone th th' a tok ∧ ∀ a' , a' < 17 → a' ≠ a → a < 17 → getThread u k a' = getThread s k a') ∧
  ∀ (s : State) (cx : Cx) (m : BitVec 2) (d a b : BitVec 6) (f : BitVec 8) (wd : IWord), cxFor s cx.k cx.i = some cx → cx.g.th.run = .parkedEmul wd →
    decode wd = some (.extensionOpcode m d a b f) → cx.g.txn = none →
    let xs := (readX cx.g.th a.toNat, readX cx.g.th b.toNat, readX cx.g.th d.toNat)
    let F := Config.firmwareMeasure
    let ev := Instr.emulationComplete cx.k cx.i
    (∃ t, exec ev s = .next t) ∧ ∀ s1 bs, extLoads (Config.extensionLoads F m f s.draws xs) [] cx = .ok ({ cx with s := s1 }, bs) → match Config.extensionTrap F m f s.draws bs xs with
      | some (cause, v) => Handled s cx.k → CtlTraps (exec ev s) s1 cx (BitVec.ofNat 8 (cause.val + 1)) v
      | none => ∀ s2 ls s3, extPlaces (Config.extensionStores F m f s.draws bs xs) [] { cx with s := s1 } = .ok ({ cx with s := s2 }, ls) →
        extStores ls { cx with s := s2 } = .val { cx with s := s3 } 0 →
        let g := { cx.g with fcsr := cx.g.fcsr ||| ((Config.extensionFlags F m f s.draws bs xs).setWidth 64 <<< 3) }
        ∃ t g', exec ev s = .next t ∧ ButGroup s3 t cx.k cx.i ∧ getGroup t cx.k cx.i = some g' ∧ g'.th.pc = cx.g.th.pc + 4 ∧ g'.th.run = .ready ∧
          GroupRest g g' ∧ XKept g.th g'.th d.toNat ∧ XWritten g.th g'.th d.toNat (Config.extension F m f s.draws bs xs) 0

/-- R234 to R245: the arrival of a message (it becomes its handler's invocation, is refused, is dropped with its record, or waits; a copy of a SEQ already decided is discarded), the
reports about a message sent, and the visits and the end of a wave (log entries 44, 71). An arrival waits in the buffer while the Timetable's root is rebuilt (R390, log entry 45); a context
without the link feature has no message handlers (log entry 103); tracked pages are examined again when the handler's invocation is (log entry 99). -/
def Obligations.MessageEvents : Prop := ∀ (m : Msg) (dst job seq init node issued : Nat) (inj con : Word) (dirty : Bool) (s : State), (s.links.map (·.1)).Nodup →
  (mayArrive s m = true ∨ m ∈ s.rxbuf →
    let seen := s.seen.any fun e => e.1 = m.src && e.2.1 = m.job && e.2.2.1 = m.seq
    let ev := exec (.messageArrival m) s
    (seen = true → ev = .next s) ∧
    let held := ev = .next (if m ∉ s.rxbuf ∧ bufferedFlits s + flitsOf m ≤ 65536 then { s with rxbuf := s.rxbuf ++ [m] } else s)
    (seen = false → s.hub.rebuilding = true ∨ mustWait s m s.rxbuf = true → held) ∧
    (seen = false → s.hub.rebuilding = false → mustWait s m s.rxbuf = false →
      let taken := fun (ok : Bool) => { s with rxbuf := s.rxbuf.erase m, seen := s.seen ++ [(m.src, m.job, m.seq, ok)] }
      (tget s.jobs m.job = none → ev = .next (taken false)) ∧
      ∀ j c, tget s.jobs m.job = some j → getCtx s j.ctx = some c →
        let dropped := fun (s1 : State) (type : Nat) => errorRecord { s1 with jobs := tmod s1.jobs m.job fun j => { j with con := j.con + 1, dirty := true } } j.ctx type 0 0xFFFF (lossWord m) m.seq 0
        let gone := c.st = .killing ∨ c.st = .dead
        let table := c.msgTable ≠ 0 ∧ hasFeature c 4 = true
        let entry := deviceRead (taken true) j.ctx (c.msgTable.toNat + 16 * (m.hidx % 256)) 16
        (gone → ev = .next (dropped (taken true) 0x09)) ∧ (¬gone → ¬table → ev = .next (dropped (taken true) 0x0A)) ∧ (¬gone → table → ∀ s1, entry = (s1, none) → ev = .next (dropped s1 0x0A)) ∧
        (¬gone → table → ∀ s1 bs, entry = (s1, some bs) →
          let e := bytesNat bs
          let f := fun lo n => bits e (8 * lo) (8 * n)
          let formed := f 0 1 = 1 ∧ f 3 1 ≤ 7 ∧ 1 ≤ f 4 2 ∧ f 4 2 ≤ 128 ∧ f 6 2 = 0
          let names := fun (o : CodeObj) (kn : Kernel) => findKernel c (f 1 1) (f 2 1) = some (o, kn) ∧ kn.groups = 1 ∧ kn.mentry = 0
          (¬formed ∨ (∀ o kn, ¬names o kn) → ev = .next (dropped s1 0x0A)) ∧
          ∀ o kn, formed → names o kn → (1024 ≤ liveHandlers s j.ctx ∨ freeInv s c.part = none → held) ∧
            ∀ num, liveHandlers s j.ctx < 1024 → freeInv s c.part = some num →
              let ik := invKey c.part num
              let iv : Invoc := { handlerInvoc j.ctx o kn (f 1 1) (f 2 1) (.message m (BitVec.ofNat 64 (f 8 8))) (s1.arb + 1) with job := m.job, spad := f 4 2, prio := f 3 1 }
              let made := fun (iv : Invoc) => { s1 with arb := s1.arb + 1, invs := tput s1.invs ik iv }
              noFit (made iv) ik iv = false → (c.st = .suspended → ev = .next (made iv)) ∧
                (c.st ≠ .suspended → ∃ u, ev = .next u ∧ Reexamined (made { iv with st := .dispatchable }) u j.ctx)))) ∧
  (∀ u j, s.unacked.find? (fun u => u.msg.dst = dst && u.msg.job = job && u.msg.seq = seq) = some u → tget s.jobs job = some j →
    let agrees := fun ok => dst ≠ thisDevice ∨ (thisDevice, job, seq, ok) ∈ s.seen
    (agrees false → Flows (exec (.refusalReport dst job seq) s) (freed (repaired s u.msg j) dst job seq)) ∧
    (agrees true → Flows (exec (.endToEndAck dst job seq) s) (freed s dst job seq)) ∧ (∀ ok, ¬agrees ok → exec (if ok then .endToEndAck dst job seq else .refusalReport dst job seq) s = .next s) ∧
    exec (.resendTimeout dst job seq) s = .next { s with unacked := s.unacked.map fun u => { u with queried := u.queried || u.resent && u.msg.dst = dst && u.msg.job = job && u.msg.seq = seq } } ∧
    (dst ≠ thisDevice → u.queried = true → Flows (exec (.seqQueryResponse ⟨thisDevice, dst⟩ job seq true) s) (freed s dst job seq) ∧
      Flows (exec (.seqQueryResponse ⟨thisDevice, dst⟩ job seq false) s) (freed (repaired s u.msg j) dst job seq))) ∧
  (∀ ok, dst ≠ thisDevice → exec (.seqQueryResponse ⟨dst, thisDevice⟩ job seq ok) s = .next (
    if (∃ m ∈ s.rxbuf, m.src = dst ∧ m.job = job ∧ m.seq = seq) ∨ (∃ e ∈ s.seen, e.1 = dst ∧ e.2.1 = job ∧ e.2.2.1 = seq) then s
    else { s with seen := s.seen ++ [(dst, job, seq, false)] })) ∧
  ((∃ k a t th, getTeam s k = some t ∧ (k, t) ∈ s.teams ∧ t.saved = false ∧ a < 17 ∧ getThread s k a = some th ∧ Waits th (.waitQuiet job issued)) → exec (.waveRetryTimer job) s = .next (startWave s job)) ∧
  (∀ w, init = thisDevice → tget s.waves job = some w →
    let put := fun (s : State) (w : Wave) => { s with waves := tmod s.waves job fun _ => w }
    (node ∉ w.first →
      (∀ j, node = thisDevice → tget s.jobs job = some j → exec (.waveVisit job init node false inj con dirty) s =
        .next (put { s with jobs := tmod s.jobs job fun j => { j with dirty := false } } { w with i1 := w.i1 + j.inj, c1 := w.c1 + j.con, first := w.first ++ [node] })) ∧
      (node ≠ thisDevice → exec (.waveVisit job init node false inj con dirty) s = .next (put s { w with i1 := w.i1 + inj, c1 := w.c1 + con, first := w.first ++ [node] }))) ∧
    (node ∉ w.second → coversAll w.first = true →
      (∀ j, node = thisDevice → tget s.jobs job = some j → exec (.waveVisit job init node true inj con dirty) s =
        .next (put s { w with i2 := w.i2 + j.inj, c2 := w.c2 + j.con, d := w.d || j.dirty, second := w.second ++ [node] })) ∧
      (node ≠ thisDevice → exec (.waveVisit job init node true inj con dirty) s = .next (put s { w with i2 := w.i2 + inj, c2 := w.c2 + con, d := w.d || dirty, second := w.second ++ [node] })))) ∧
  (∀ w j, tget s.waves job = some w → tget s.jobs job = some j → coversAll w.second = true → (s.teams.map (·.1)).Nodup →
    let quiet := w.ok = true ∧ w.i1 = w.i2 ∧ w.c1 = w.c2 ∧ w.i2 = w.c2 ∧ w.d = false ∧ (∀ u ∈ s.unacked, u.stranded = false) ∧ j.broken = false
    let ended := { s with waves := tdel s.waves job }
    (¬quiet → exec (.waveEnd job true) s = .next ended) ∧ exec (.waveEnd job false) s = .next ended ∧
    (quiet → ∃ t, exec (.waveEnd job true) s = .next t ∧ { t with teams := s.teams } = ended ∧
      ∀ k a th, a < 17 → getThread s k a = some th → ∃ th', getThread t k a = some th' ∧
        ((∃ tm, getTeam s k = some tm ∧ tm.saved = false) → (∃ n, Waits th (.waitQuiet job n) ∧ n < w.id) → WaitOver th th' a) ∧
        ((∀ n, Waits th (.waitQuiet job n) → w.id ≤ n) → th' = th)))

/-- R229 to R231, R244, R385, R394: what the events of a link do to its state, its counters, its retry buffer and the messages that crossed it, and the loss of a device (log
entries 43, 44). -/
def Obligations.LinkEvents : Prop := ∀ (p lanes seq dev : Nat) (jobs routes : List Nat) (ok : Bool) (s : State) (l : Link), tget s.links p = some l → (s.links.map (·.1)).Nodup →
  let live := l.st = .active ∨ l.st = .degraded
  let down := fun (st : LinkSt) => { l with st := st, lanes := 0, buffer := [], crossed := if l.buffer = [] then l.crossed else [] }
  let crossed := fun (u : Unacked) => decide (l.buffer ≠ []) && l.crossed.contains (u.msg.dst, u.msg.job, u.msg.seq)
  let leaves := fun (i : Instr) (st : LinkSt) => Flows (exec i s) { withLink s p (down st) with unacked := s.unacked.map fun u => { u with
    resent := u.resent || crossed u && routes.contains u.msg.dst, stranded := u.stranded || crossed u && !routes.contains u.msg.dst } }
  let retrain := if live then { l with st := .retrain, lanes := 0, retrains := Nat.min (l.retrains + 1) 65535 } else l
  let trains := l.st = .training ∨ l.st = .retrain
  let corrected := fun (s : State) => { s with hub := { s.hub with corrected := tput s.hub.corrected (2000 + p) (tgetD s.hub.corrected (2000 + p) 0 + 1) } }
  (trains → lanes = 8 ∨ lanes = 4 ∨ lanes = 2 → Flows (exec (.linkTrained p lanes) s) { withLink s p { l with
      st := if lanes = 8 then .active else .degraded, lanes := lanes, replays := if l.st = .retrain then Nat.min (l.replays + l.buffer.length) (2 ^ 32 - 1) else l.replays } with
    unacked := s.unacked.map fun u => { u with stranded := false, resent := u.resent || u.stranded } }) ∧
  (¬trains → exec (.linkTrained p lanes) s = .next s) ∧
  (l.st = .training → exec (.trainingTimeout p) s = .next (withLink s p { l with st := .failed, lanes := 0 })) ∧
  exec (.laneFault p) s = .next (withLink s p retrain) ∧ exec (.crcReplayLimit p) s = .next (withLink s p retrain) ∧
  (l.st = .retrain → leaves (.retrainTimeout p routes) .failed) ∧ (l.st ≠ .retrain → exec (.retrainTimeout p routes) s = .next s) ∧ leaves (.linkDisable p routes) .down ∧
  (live → seq < l.buffer.length → Flows (exec (.flitReceive (.far p) true seq) s) (withLink s p { l with buffer := l.buffer.drop 1 }) ∧
    exec (.flitReceive (.far p) false seq) s = .next (corrected (withLink s p { l with replays := Nat.min (l.replays + (l.buffer.length - seq)) (2 ^ 32 - 1) }))) ∧
  (live → exec (.flitReceive (.here p) true seq) s = .next (withLink s p { l with rxNext := if seq = l.rxNext then l.rxNext + 1 else l.rxNext }) ∧
    exec (.flitReceive (.here p) false seq) s = .next (corrected s)) ∧
  (¬live → exec (.flitReceive (.here p) ok seq) s = .next s ∧ exec (.flitReceive (.far p) ok seq) s = .next s) ∧
  (l.st = .failed ∨ l.st = .down → exec (.linkRetry p) s = .next (withLink s p { l with st := .training })) ∧
  (l.st ≠ .failed → l.st ≠ .down → exec (.linkRetry p) s = .next s) ∧
  ∃ t, exec (.deviceLost dev jobs) s = .next t ∧ { t.hub with lost := s.hub.lost } = s.hub ∧ (∀ x, x ∈ t.hub.lost ↔ x ∈ s.hub.lost ∨ x = dev) ∧
    (∀ u, u ∈ t.unacked → u.msg.dst ≠ dev) ∧ (∀ u ∈ s.unacked, u.msg.dst ≠ dev → u ∈ t.unacked) ∧
    ∀ n j, tget s.jobs n = some j → ∃ j', tget t.jobs n = some j' ∧ { j' with inj := j.inj, dirty := j.dirty, broken := j.broken } = j ∧
      j'.inj = j.inj - BitVec.ofNat 64 (s.unacked.countP fun u => u.msg.dst = dev && u.msg.job = n) ∧ (n ∈ jobs → j'.broken = true) ∧ (n ∉ jobs → j'.broken = j.broken)

/-- R16 to R19, R26, R27, R395: power-on and warm reset, gating, throttling, the configuration of a partition and the effect of new caps and modes (what a reset keeps beyond the
fuses: log entries 1, 59, 60; every link in training after both: log entry 75; a partition given no cluster is dissolved: log entry 61; one range of DRAM, and not an
empty one: log entry 92; changes to a bound partition: log entries 89, 90). -/
def Obligations.DeviceEvents : Prop := ∀ (t : SelfTest) (cluster part : Nat) (on : Bool) (cfg : PartCfg) (mode : Sharing) (s : State) (c : Cluster), tget s.clusters cluster = some c →
  (∃ u, exec (.powerOn t) s = .next u ∧ Idle u ∧ u.parts = [] ∧ u.seen = [] ∧ u.sendSeq = [] ∧ u.hub = { Hub.reset with secver := s.hub.secver, selfTest := t } ∧ u.pages = State.reset.pages ∧
    u.clusters = State.reset.clusters ∧ (∀ n, n < 384 → TestedCore t n (getCore u n)) ∧
    (∀ a, 2 ^ 51 ≤ a → a < 2 ^ 52 → readByte u.mem a = readByte s.mem a) ∧ u.agenda = s.agenda) ∧
  (∃ u, exec (.warmReset t) s = .next u ∧ Idle { u with poison := [] } ∧
    u.hub = { Hub.reset with secver := s.hub.secver, microcode := s.hub.microcode, store := s.hub.store, warmResets := s.hub.warmResets + 1, selfTest := t, throttled := s.hub.throttled,
                             pfWindow := s.hub.pfWindow } ∧ u.seen = s.seen ∧ u.sendSeq = s.sendSeq ∧
    (∀ n, n < 384 → TestedCore t n (getCore u n)) ∧ (s.ctxs = [] → u.mem = s.mem) ∧ (t.memoryOk = true → u.parts = s.parts) ∧ (t.memoryOk = false → u.parts = []) ∧
    ∃ c', tget u.clusters cluster = some c' ∧ c'.mode = c.pendingMode.getD c.mode ∧ c'.pendingMode = none ∧ c'.gated = false ∧ c'.rebuilding = false ∧ c'.rebuilds = 0 ∧ (t.memoryOk = true → c'.part = c.part) ∧
      ∀ p x, c.part = some p → tget s.parts p = some x → c'.caps = if cluster < 32 then x.cfg.capM else x.cfg.capE) ∧
  (EmptyCluster s cluster → c.ungating = false → exec (.clusterGate cluster) s = .next (withCluster s cluster { c with gated := true })) ∧
  (¬EmptyCluster s cluster → exec (.clusterGate cluster) s = .next s) ∧
  (c.ungating = true → exec (.clusterUngateComplete cluster) s = .next (withCluster s cluster { c with gated := false, ungating := false })) ∧
  exec (.powerLimit on) s = .next { s with hub := { s.hub with throttled := on } } ∧
  (cfg.clusters ≠ [] → ¬CfgFits s part cfg → exec (.partitionConfigure part cfg) s = .next s) ∧
  (cfg.clusters = [] →
    let stays := (∃ e ∈ s.ctxs, e.2.part = part) ∨ tget s.parts part = none ∨ s.parts.length ≤ 1
    (stays → exec (.partitionConfigure part cfg) s = .next s) ∧
    let left := fun (n : Nat) (x : Cluster) => if x.part = some part then { x with part := none, caps := classCaps n, pendingCaps := false } else x
    (¬stays → exec (.partitionConfigure part cfg) s = .next { s with parts := tdel s.parts part, clusters := tmap s.clusters left })) ∧
  (CfgFits s part cfg →
    let was : Option Part := tget s.parts part
    let s1 := { s with parts := tput s.parts part { cfg := cfg, keys := (was.map Part.keys).getD [], nextCtx := (was.map Part.nextCtx).getD 0 } }
    let caps := fun n => if n < 32 then cfg.capM else cfg.capE
    ((∀ e ∈ s.ctxs, e.2.part ≠ part) → exec (.partitionConfigure part cfg) s = .next { s1 with clusters := tmap s.clusters fun n x =>
      if n ∈ cfg.clusters then { x with part := some part, caps := caps n, pendingCaps := false } else if x.part = some part then { x with part := none, caps := classCaps n, pendingCaps := false } else x }) ∧
    ∀ old, (∃ e ∈ s.ctxs, e.2.part = part) → tget s.parts part = some old →
      let same := (∀ n, n ∈ old.cfg.clusters ↔ n ∈ cfg.clusters) ∧ old.cfg.dramBase = cfg.dramBase ∧ old.cfg.dramUnits = cfg.dramUnits
      (¬same → exec (.partitionConfigure part cfg) s = .next s) ∧
      ((∃ e ∈ s.teams, e.2.inv / 4096 = part ∧ stranded s part cfg e.2 = true) → exec (.partitionConfigure part cfg) s = .next s) ∧
      (same → (∀ e ∈ s.teams, e.2.inv / 4096 = part → stranded s part cfg e.2 = false) → exec (.partitionConfigure part cfg) s =
        .next { s1 with clusters := tmap s.clusters fun n x => if x.part = some part then { x with pendingCaps := decide (caps n ≠ x.caps) } else x })) ∧
  (∀ x, tget s.parts part = some x → c.part = some part → c.pendingCaps = true → EmptyCluster s cluster →
    exec (.capChangeEffect part cluster) s = .next (withCluster s cluster { c with caps := if cluster < 32 then x.cfg.capM else x.cfg.capE, pendingCaps := false })) ∧
  (¬EmptyCluster s cluster → exec (.capChangeEffect part cluster) s = .next s ∧ exec (.sharingModeEffect cluster) s = .next s) ∧
  exec (.sharingModeRequest cluster mode) s = .next (withCluster s cluster { c with pendingMode := some mode }) ∧
  (∀ m, c.pendingMode = some m → EmptyCluster s cluster → exec (.sharingModeEffect cluster) s = .next (withCluster s cluster { c with mode := m, pendingMode := none }))

/-- R385 to R390: corrected errors are counted, an uncorrectable one is contained by its unit, a core with three faults is withdrawn, a scheduler unit is rebuilt (log entries 24, 25, 28, 45, 62; the retraining
of a die-to-die link has no effect of its own: log entry 43). An invocation of a killed context is cancelled once the rebuild of the Timetable's root is complete (log entry 45). -/
def Obligations.ErrorEvents : Prop := ∀ (u : ErrUnit) (k a n cluster : Nat) (s : State),
  (∃ t, exec (.correctableError u) s = .next t ∧ RecordsOnly s { t with hub := s.hub } ∧ { t.hub with corrected := s.hub.corrected } = s.hub ∧
    ∀ key, tgetD t.hub.corrected key 0 = tgetD s.hub.corrected key 0 + if key = unitKey s u then 1 else 0) ∧
  (∀ th tm, getTeam s k = some tm → tm.saved = false → getThread s k a = some th → th.run ≠ .retired → (th.park = .none ∨ th.park = .entry) → a ≤ 16 →
    (∀ g, a < 16 → getGroup s k a = some g → g.txn = none) → Handled s k → TakesTrap (exec (.uncorrectableError (.regs k a)) s) s k a 0x11 0 th.pc none) ∧
  (∀ g x, a < 16 → getGroup s k a = some g → g.txn = some x → g.th.run ≠ .retired → (g.th.park = .none ∨ g.th.park = .entry) → (∃ tm, getTeam s k = some tm ∧ tm.saved = false) →
    ∃ t g', exec (.uncorrectableError (.regs k a)) s = .next t ∧ ButGroup s t k a ∧ getGroup t k a = some g' ∧ g'.txn = none ∧ g'.th.pc = x.abort ∧ g'.th.x = x.x ∧
      g'.txs = BitVec.ofNat 64 (2 * 5 + 256 * (txnLines x).length)) ∧
  (∃ t, exec (.uncorrectableError (.line n)) s = .next t ∧ { t with poison := s.poison } = s ∧ ∀ x, x ∈ t.poison ↔ x ∈ s.poison ∨ x = n) ∧
  (∀ l, tget s.links n = some l → l.st = .active ∨ l.st = .degraded → exec (.uncorrectableError (.link n)) s = .next (withLink s n { l with st := .retrain, lanes := 0, retrains := Nat.min (l.retrains + 1) 65535 })) ∧
  exec (.uncorrectableError (.dieLink n)) s = .next s ∧
  (∃ t, exec (.uncorrectableError .rootTable) s = .next t ∧ exec (.schedulerStateError .root) s = .next t ∧ RecordsOnly s { t with hub := s.hub } ∧ t.hub = { s.hub with rebuilding := true }) ∧
  (∃ t, exec (.uncorrectableError (.teamState k)) s = .next t ∧ Struck s t k) ∧
  (∀ tm, getTeam s k = some tm → tm.saved = false → ∃ t, exec (.residueCheckFail k) s = .next t ∧ Struck s t k ∧
    getCore t tm.target.core = { getCore s tm.target.core with faults := (getCore s tm.target.core).faults + 1 } ∧ ∀ m, m ≠ tm.target.core → getCore t m = getCore s m) ∧
  (let x := getCore s n
   (x.faults < 3 ∨ x.withdrawn = true → exec (.coreFaultLimit n) s = .next s) ∧
   (3 ≤ x.faults → x.withdrawn = false → ∃ t, exec (.coreFaultLimit n) s = .next t ∧ getCore t n = { x with withdrawn := true } ∧ (∀ m, m ≠ n → getCore t m = getCore s m) ∧
     ∀ k tm, (k, tm) ∈ s.teams → tm.saved = false → tm.target.core = n → tm.tidx < 2 ^ 48 → (getInv s tm.inv).isSome → (s.teams.map (·.1)).Nodup → k = teamKey tm.inv tm.tidx → ∃ tm', getTeam t k = some tm' ∧ tm'.preempt = true)) ∧
  (∀ c, tget s.clusters cluster = some c →
    (∃ t, exec (.schedulerStateError (.cluster cluster)) s = .next t ∧ RecordsOnly s { t with clusters := s.clusters } ∧ tget t.clusters cluster = some { c with rebuilding := true, rebuilds := c.rebuilds + 1 } ∧
      ∀ m, m ≠ cluster → tget t.clusters m = tget s.clusters m) ∧
    (∃ t, exec (.uncorrectableError (.groupTable cluster)) s = .next t ∧ tget t.clusters cluster = some { c with rebuilding := true, rebuilds := c.rebuilds + 1 }) ∧
    (let rebuilt := exec (.schedulerRebuildComplete (.cluster cluster)) s
     let quiet := ∀ e ∈ s.teams, e.2.saved = false → e.2.target.cluster = cluster → ∀ o ∈ e.2.ops, o.parked = true
     (c.rebuilding = false ∨ ¬quiet → rebuilt = .next s) ∧
     (c.rebuilding = true → quiet → ∃ t, rebuilt = .next t ∧ tget t.clusters cluster = some { c with rebuilding := false }) ∧
     (c.rebuilding = true → EmptyCluster s cluster → s.hub.held = [] → rebuilt = .next (withCluster s cluster { c with rebuilding := false }))) ∧
    (c.rebuilds < 4 → exec (.rebuildLimit cluster) s = .next s) ∧
    (4 ≤ c.rebuilds → ∃ t, exec (.rebuildLimit cluster) s = .next t ∧ ∀ m, getCore t m = if m / 8 = cluster then { getCore s m with withdrawn := true } else getCore s m)) ∧
  (let rebuilt := exec (.schedulerRebuildComplete .root) s
   (s.hub.rebuilding = false → rebuilt = .next s) ∧
   (s.hub.rebuilding = true → ∃ t, rebuilt = .next t ∧ t.hub.rebuilding = false) ∧
   (s.hub.rebuilding = true → s.invs = [] → s.hub.held = [] → rebuilt = .next { s with hub := { s.hub with rebuilding := false } }) ∧
   (∀ ik iv c, s.hub.rebuilding = true → s.hub.held = [] → s.invs = [(ik, iv)] → invLive iv = true → getCtx s iv.ctx = some c → c.st = .killing →
     ∃ t, rebuilt = .next t ∧ (getInv t ik).map (·.st) = some .faulted) ∧
   (∀ ik iv x, s.hub.rebuilding = true → s.hub.held = [] → s.invs = [(ik, iv)] → iv.st = .running → iv.mark = some x → (∀ c, getCtx s iv.ctx = some c → c.st ≠ .killing ∧ c.st ≠ .dead) →
     rebuilt = .next { s with hub := { s.hub with rebuilding := false }, invs := [(ik, { iv with st := .draining })] }))

/-- R24, R73, R225, R386, R396: what an access of a function's window does, page by page, what a read returns, and the Report Card (log entries 13, 63, 70). That an offset counts from the
start of the function's memory is the model's choice (log entry 104). -/
def Obligations.WindowsAndReport : Prop := ∀ (fn off len : Nat) (bs : List Byte) (nonce : BitVec 256) (s : State),
  let at' := fun n pa => (fn = 0 ∧ off + n ≤ 384 * 10 ^ 9 ∧ off + n ≤ s.hub.pfWindow ∧ pa = off) ∨
    (fn ≠ 0 ∧ ∃ p x, fnPart s fn = some p ∧ tget s.parts p = some x ∧ off + n ≤ x.cfg.dramUnits * 2 ^ 30 ∧ off + n ≤ 2 ^ 34 ∧ pa = x.cfg.dramBase * 2 ^ 30 + off)
  let writes := fun o (l : List Byte) => exec (.windowAccess fn o (some l) len)
  let reads := fun o n => exec (.windowAccess fn o none n)
  let page := 4096 - off % 4096
  (∀ e ∈ s.parts, fn ∈ e.2.cfg.fns → (∀ e' ∈ s.parts, fn ∈ e'.2.cfg.fns → e' = e) → fnPart s fn = some e.1) ∧
  (page < bs.length → writes off bs s = match writes off (bs.take page) s with | .next t => writes (off + page) (bs.drop page) t | o => o) ∧
  (page < len → reads off len s = match reads off page s with | .next t => reads (off + page) (len - page) t | o => o) ∧
  (bs.length ≤ page → ∀ pa, at' bs.length pa → windowRefused fn (mappers s pa) = false →
    ∃ t, writes off bs s = .next t ∧ readBytes t.mem pa bs.length = bs ∧ (∀ x, Outside pa bs.length x → readByte t.mem x = readByte s.mem x) ∧
      { t with mem := s.mem, poison := s.poison, teams := s.teams, ctxs := s.ctxs } = s) ∧
  (0 < len → len ≤ page → ∀ pa, at' len pa → windowRefused fn (mappers s pa) = false → windowData s fn off len = (readBytes s.mem pa len, poisonIn s pa len) ∧
    ∃ t, reads off len s = .next t ∧ { t with teams := s.teams } = s) ∧
  (0 < bs.length → bs.length ≤ page → (¬∃ pa, at' bs.length pa) → writes off bs s = .next s) ∧
  (0 < len → len ≤ page → (¬∃ pa, at' len pa) → reads off len s = .next s ∧ windowData s fn off len = (List.replicate len 0xFF, false)) ∧
  (∀ pa c p heap, mappers s pa = [(c, p, heap)] → heap = true ∨ p.st = .killing ∨ p.st = .dead ∨ fn ≠ 0 ∧ p.owner ≠ fn →
    (0 < len → len ≤ page → at' len pa → reads off len s = .next (errorRecord s c 0x06 (if heap then 2 else 0) 0xFFFF off fn 0) ∧ windowData s fn off len = (List.replicate len 0xFF, false)) ∧
    (0 < bs.length → bs.length ≤ page → at' bs.length pa → writes off bs s = .next (errorRecord s c 0x06 (if heap then 3 else 1) 0xFFFF off fn 0))) ∧
  ∃ sig, sig.length = sigLen ∧ exec (.spdmRequest nonce) s = .next { s with hub := { s.hub with report := reportBody s nonce ++ sig } } ∧
    bits (bytesNat (reportBody s nonce)) 0 32 = 0x44524352 ∧ bits (bytesNat (reportBody s nonce)) 64 256 = nonce.toNat ∧
    (s.hub.secver < 2 ^ 32 → bits (bytesNat (reportBody s nonce)) 832 32 = s.hub.secver)

/-- R60, R397 to R402, R406: the debug commands on a function's page, where the context they name admits them (log entries 34, 64 to 67; where the
sections of the frame lie that RESUME applies, and what its EPC is to a stream trapped in a block: log entries 15, 95); one on a context that has a command not complete is held back with
BUSY set (log entry 34). R397, R399, R404, R406: a halt completes once every stream it covers has stopped, the interval of SYNC packets, and a clock charged to a stall (log entries 65, 67). -/
def Obligations.Debugging : Prop := (
  ∀ (fn inv cn : Nat) (cmd : BitVec 4) (consumer : Bool) (s : State) (p : Page) (c : Ctx), DbgOpen s fn p cn c →
  let k := dbgKey p c inv
  let arg := p.dbgarg.toNat
  (DbgEnds (exec (.brkon fn) s) (modCtx s cn fun c => { c with brkOn := true }) fn 0 ∧ DbgEnds (exec (.brkoff fn) s) (modCtx s cn fun c => { c with brkOn := false }) fn 0 ∧
    DbgEnds (exec (.debugInvalid fn cmd) s) s fn 2) ∧
  (let t := c.trace
   let e := t.trcfg.toNat % 32
   let off := t.trcfg.getLsbD 8 = false ∧ t.trcfg.getLsbD 9 = false
   let ring := 12 ≤ e ∧ e ≤ 30 ∧ rangeOk (tables s) c.root (fun l => l.getLsbD 2) t.trbase.toNat (2 ^ e) = true
   let put := fun (t : Trace) => modCtx s cn fun c => { c with trace := t }
   (off → DbgEnds (exec (.trace fn) s) (put { t with cfg := t.trcfg }) fn 0) ∧
   (¬off → hasFeature c 8 = false → DbgEnds (exec (.trace fn) s) s fn 1) ∧ (¬off → hasFeature c 8 = true → ¬ring → DbgEnds (exec (.trace fn) s) s fn 2) ∧
   (¬off → hasFeature c 8 = true → ring → DbgEnds (exec (.trace fn) s) (put { t with base := t.trbase, cfg := t.trcfg, head := 0, tail := 0, dropped := 0, source := none, since := 0, reported := false }) fn 0)) ∧
  (let bytes := fun (x : Stall) => natBytes x.prod.toNat 8 ++ natBytes x.cons.toNat 8 ++ natBytes (causeCode x.cause) 1 ++ natBytes 0 7 ++ natBytes x.clocks 8 ++ x.hist.flatMap fun n => natBytes n 4
   let ok := arg % 64 = 0 ∧ rangeOk (tables s) c.root (fun e => e.getLsbD 2) arg (64 * 256) = true
   (¬ok → DbgEnds (exec (.stalldump fn) s) s fn 2) ∧
   (ok → ∀ s1, deviceWriteLong cn 8 s arg (c.stalls.flatMap bytes ++ List.replicate (64 * 256 - (c.stalls.flatMap bytes).length) 0) = some s1 →
     DbgEnds (exec (.stalldump fn) s) (modCtx s1 cn fun c => { c with stalls := [] }) fn 0)) ∧
  (getTeam s k = none → ∀ i ∈ [Instr.halt fn inv, .haltrole fn inv consumer, .debugResume fn inv, .dump fn inv], DbgEnds (exec i s) s fn 1) ∧
  ∀ t iv, inv < 4096 → TeamIn s k cn t iv →
    (∀ role i, (role = none ∧ i = Instr.halt fn inv ∨ role = some consumer ∧ i = .haltrole fn inv consumer) → ∃ u,
      exec i s = .next (modPage u fn fun p => { p with dbgstat := 0x100, dbgcmd := some { ctx := cn, team := k, role := role } }) ∧ TeamOnly s u k ∧
      ∀ a th, a < 17 → getThread s k a = some th → ∃ th', getThread u k a = some th' ∧
        (Covered iv role a → HaltAsked t.saved true th th') ∧ (¬Covered iv role a → HaltAsked t.saved false th th') ∧ th'.run = th.run ∧
        ∀ g, a < 16 → getGroup s k a = some g → g.txn = none → { th' with haltReq := th.haltReq, halted := th.halted, byCmd := th.byCmd } = th) ∧
    (let live := liveAgents s k
     let awake := ∃ a ∈ live, ∀ th, getThread s k a = some th → th.halted = false
     let argOk := arg % 2 ^ 19 = 0 ∧ ∀ a ∈ live, rangeOk (tables s) c.root (fun e => e.getLsbD 1 && e.getLsbD 2) (arg + a * 2 ^ 19) (2 ^ 19) = true
     let asked := ∃ a th, a < 17 ∧ getThread s k a = some th ∧ th.halted = true ∧ th.byCmd = true ∧ th.run ≠ .retired
     (∀ a, a ∈ live ↔ a < 17 ∧ ∃ th, getThread s k a = some th ∧ th.run ≠ .retired) ∧
     (¬argOk → DbgEnds (exec (.dump fn inv) s) s fn 2) ∧ (argOk → awake → DbgEnds (exec (.dump fn inv) s) s fn 3) ∧
     (argOk → ¬awake → DbgEnds (exec (.dump fn inv) s) (live.foldl (dumpAgent cn k arg) s) fn 0) ∧
     (arg ≠ 0 → ¬argOk → DbgEnds (exec (.debugResume fn inv) s) s fn 2) ∧ (arg = 0 ∨ argOk → ¬asked → DbgEnds (exec (.debugResume fn inv) s) s fn 3) ∧
     (arg ≠ 0 → argOk → awake → DbgEnds (exec (.debugResume fn inv) s) s fn 3) ∧
     (arg = 0 → asked → ∃ u, DbgEnds (exec (.debugResume fn inv) s) u fn 0 ∧ TeamOnly s u k ∧
         ∀ a th, a < 17 → getThread s k a = some th → ∃ th', getThread u k a = some th' ∧ Resumed th th' a) ∧
     ∀ a th s1 bs g iv1 c1, arg ≠ 0 → argOk → live = [a] → a < 16 → getThread s k a = some th → th.halted = true → th.byCmd = true → isBrk th.word = false →
       readFrame s cn (arg + a * 2 ^ 19) k a = (s1, .inl bs) → getGroup s1 k a = some g → g.th.halted = true → g.th.byCmd = true → isBrk g.th.word = false → invOf s1 k = some iv1 →
       getCtx s1 iv1.ctx = some c1 → ∃ u g', DbgEnds (exec (.debugResume fn inv) s) u fn 0 ∧ getGroup u k a = some g' ∧ g'.th.halted = false ∧ FrameTaken s1 g g' iv1.kernel c1 bs)) ∧ (
  ∀ (fn k a prod lag : Nat) (s : State) (t : Team) (iv : Invoc), getTeam s k = some t → getInv s t.inv = some iv →
  (∀ p d, tget s.pages fn = some p → p.dbgcmd = some d →
    let ends := fun (u : State) code => exec (.haltComplete fn) s = .next (freeHeld (modPage u fn fun p => { p with dbgcmd := none, dbgstat := BitVec.ofNat 64 code }) d.ctx)
    (getTeam s d.team = none → ends s 1) ∧ (d.team = k → ¬HaltStands s iv d.role t → exec (.haltComplete fn) s = .next s) ∧
    (d.team = k → HaltStands s iv d.role t → ∃ u, ends u 0 ∧ TeamOnly s u k ∧
      ∀ i th, i < 17 → getThread s k i = some th → getThread u k i = some { th with halted := th.halted || th.haltReq, haltReq := false })) ∧
  (∀ c, getCtx s iv.ctx = some c →
    (c.trace.source = some (k, a) → 255 ≤ c.trace.since → exec (.traceSyncInterval k a) s = .next (modCtx s iv.ctx fun c => { c with trace := { c.trace with source := none } })) ∧
    (c.trace.source ≠ some (k, a) ∨ c.trace.since < 255 → exec (.traceSyncInterval k a) s = .next s) ∧
    ∀ th cause pr lg, getThread s k a = some th → t.saved = false → th.halted = false → ChargedTo s iv.ctx t a th cause prod lag pr lg →
      let cons := th.pc - BitVec.ofNat 64 (if insideConvoy s iv.ctx th then 4 * th.convoy else 0)
      let hit := fun (x : Stall) => x.cause = cause ∧ x.prod = pr ∧ x.cons = cons
      let fresh := fun (p : Word) => charged lg { prod := p, cons := cons, cause := cause, clocks := 0, hist := List.replicate 8 0 }
      let spill := BitVec.allOnes 64
      let gives := fun (l : List Stall) => exec (.stallClockCharge k a cause prod lag) s = .next (modCtx s iv.ctx fun c => { c with stalls := l })
      ((∃ x ∈ c.stalls, hit x) → gives (c.stalls.map fun x => if hit x then charged lg x else x)) ∧
      ((∀ x ∈ c.stalls, ¬hit x) → (c.stalls.length < 255 → gives (c.stalls ++ [fresh pr])) ∧
        (255 ≤ c.stalls.length → (∃ x ∈ c.stalls, x.prod = spill) → gives (c.stalls.map fun x => if x.prod = spill then charged lg x else x)) ∧
        (255 ≤ c.stalls.length → (∀ x ∈ c.stalls, x.prod ≠ spill) → gives (c.stalls ++ [fresh spill]))))) ∧
  ∀ (fn inv cn : Nat) (cmd : BitVec 4) (consumer : Bool) (s : State) (p : Page) (c : Ctx), tget s.pages fn = some p → p.dbgstat.getLsbD 8 = false → cn = p.dbgsel.toNat / 2 ^ 48 % 2 ^ 10 →
    getCtx s cn = some c → c.owner = fn → ¬NoCommand s cn →
    ∀ r ∈ [(Instr.halt fn inv, Command.halt inv), (.haltrole fn inv consumer, .haltrole inv consumer), (.debugResume fn inv, .debugResume inv), (.dump fn inv, .dump inv), (.brkon fn, .brkon),
      (.brkoff fn, .brkoff), (.trace fn, .trace), (.stalldump fn, .stalldump), (.debugInvalid fn cmd, .debugInvalid cmd)],
      HeldBack (exec r.1 s) s fn cn r.2 fun p => { p with dbgstat := p.dbgstat ||| 0x100 }

/-- R189, R222, R223, R225, R262, R284, R386 (log entries 6, 7, 18, 72, 82): a step of a stream whose word, fetched at its program counter through its own core or its hall pass, stands for an
instruction is that instruction's meaning, run on that stream, the turn passing on where it waits; a word that stands for none runs as ILLEGAL_INSTRUCTION. The fetch aborts the transactions of other
agents that wrote the word's line; a context in which the step found an uncontained machine error goes into its kill. -/
def Obligations.StepRunsDecoded : Prop := ∀ (s : State) (r : StreamRef) (s1 : State) (q : Asker) (pc : Word), HasTurn s r s1 → StandsAt s1 r q pc →
  (pc.toNat % 4 = 0 → pc.toNat < 2 ^ 57 → inWindow pc.toNat = false → (∀ c, getCtx s1 q.ctx = some c → inAperture c pc.toNat = false) → ∀ s2 pa leaf va,
    ctxTranslate s1 (coreOf s1 (teamOf r)) q.ctx pc.toNat .fetch = (s2, some (.ok pa leaf va)) → leaf.getLsbD 6 = false → resolve s1 q pc 4 .fetch 0 = (s2, .at (.glob pa pc.toNat leaf))) ∧
  ∀ s2 pa va leaf, resolve s1 q pc 4 .fetch 0 = (s2, .at (.glob pa va leaf)) → pa / 64 ∉ s2.poison → (pa + 3) / 64 ∉ s2.poison →
    let w := BitVec.ofNat 32 (readNat s2.mem pa 4)
    ∃ s3, { s3 with teams := s2.teams, cur := s2.cur } = s2 ∧ s3.cur = some r ∧ (∀ k i, r = .ctl k i → getGroup s3 k i = getGroup s1 k i) ∧
      (∀ k j x, r ≠ .ctl k j → getGroup s2 k j = some x →
        let hit := ∃ y l, x.txn = some y ∧ l ∈ y.writeLines ∧ pa < 64 * l + 64 ∧ 64 * l < pa + 4
        (hit → getGroup s3 k j = some (abortTxn x 1 0)) ∧ (¬hit → getGroup s3 k j = some x)) ∧
      let runs := fun (i : Instr) => step s = match exec i s3 with | .next t => .next (killBroken (passTurn r s3 t)) | o => o
      (∀ i, decode w = some i → WellFormed i = true ∧ runs i) ∧ (decode w = none → runs (.illegalInstruction w))

/-- Log entry 6: a turn of the schedule that is an event is that event's meaning; one of the host sets an ATS Enable bit, writes memory or sizes the physical function's window (R24); one closes the
jobs of a kill (R72); one begins a command that was held back (R60, log entry 34); a machine with no stream that can issue only passes time. Where no context holds an uncontained machine error, a step ends there. The schedule, the clock's amounts and
the turns are the model's own (DESIGN CHOICE). -/
def Obligations.StepRunsEvents : Prop := ∀ (s : State) (rest : List Turn),
  let s0 := { tickClock s with agenda := rest }
  let sound := ∀ e ∈ s.ctxs, e.2.broken = false
  (∀ i, s.agenda = .event i :: rest → isEvent i = true → step s = match exec i s0 with | .next t => .next (killBroken t) | o => o) ∧
  (∀ t : State, (∀ e ∈ t.ctxs, e.2.broken = false) → killBroken t = t) ∧
  (∀ (t : State) cn c, t.ctxs = [(cn, c)] → c.broken = true → killBroken t = beginKill t cn) ∧
  (∀ fn on, s.agenda = .ats fn on :: rest → sound → step s = .next (modPage s0 fn fun p => { p with ats := on })) ∧
  (∀ n, s.agenda = .pfWindow n :: rest → sound → step s = .next (if n ≤ 9 then { s0 with hub := { s0.hub with pfWindow := 2 ^ (30 + n) } } else s0)) ∧
  (∀ fn ctx inv dest region op cmd any consumer, ∀ r ∈ [(Command.negotiate, Instr.negotiate fn ctx), (.load, .load fn ctx), (.unload, .unload fn ctx), (.start, .start fn ctx),
      (.suspend, .suspend fn ctx), (.resume, .resume fn ctx), (.release, .release fn ctx), (.query, .query fn ctx), (.invalidate any, .invalidate fn ctx any), (.migrate any, .migrate fn ctx any),
      (.heapEnable, .heapEnable fn ctx), (.heapDisable, .heapDisable fn ctx), (.evacuate dest region any, .evacuate fn ctx dest region any), (.hctlInvalid op, .hctlInvalid fn ctx op),
      (.halt inv, .halt fn inv), (.haltrole inv consumer, .haltrole fn inv consumer), (.debugResume inv, .debugResume fn inv), (.dump inv, .dump fn inv), (.brkon, .brkon fn), (.brkoff, .brkoff fn),
      (.trace, .trace fn), (.stalldump, .stalldump fn), (.debugInvalid cmd, .debugInvalid fn cmd)],
    s.agenda = .command fn ctx r.1 :: rest → step s = match exec r.2 s0 with | .next t => .next (killBroken t) | o => o) ∧
  (∀ cn, s.agenda = .closeJobs cn :: rest → sound → step s = .next (closeJobs s0 cn)) ∧
  (∀ pa bs, s.agenda = .hostWrite pa bs :: rest → sound → bs.length ≤ 2 ^ 52 → ∃ t, step s = .next t ∧ readBytes t.mem pa bs.length = bs ∧ (∀ a, Outside pa bs.length a → readByte t.mem a = readByte s.mem a) ∧
    { t with mem := s.mem, poison := s.poison, teams := s.teams, ctxs := s.ctxs } = s0) ∧
  (s.agenda = [] → nextStream (tickClock s) = none → sound → step s = .next (tickClock s)) ∧
  s0.clk = s.clk + Config.clocks s.draws ∧ s0.draws = s.draws + 1

/-- R253 to R265: words written out from the encodings of the spec stand for their instructions, and three words for none. -/
def Obligations.DecodeWords : Prop := decode 0x4C404203 = some (.vffma 4 1 2 0) ∧ decode 0x28716102 = some (.ldw 7 5 16 2) ∧ decode 0x047FFFFD = some (.bra 0x7FFFFD) ∧
  decode 0x2C913400 = some (.atom 9 4 1 4 0 0) ∧ decode 0x89040240 = some (.tmm 1 0 1 0x24 0) ∧ decode 0xF0500000 = some (.hintPrefd 5 0) ∧ decode 0x00000001 = some (.trap 0) ∧
  decode 0x3018FF0A = some (.pcmpi 3 7 0x3E 2) ∧ decode 0x3C025002 = some (.csrw 0 9 2) ∧ decode 0x00000100 = none ∧ decode 0xC0000000 = none ∧ decode 0xFFFFFFFF = none ∧ decode 0x0580FFFC = some (.loop 0 0xFFFC)

/-- R253 to R265: decoding the word of a well-formed encoded instruction gives it back, with every operand at every value the encoding admits. -/
def Obligations.DecodeEncode : Prop := ∀ i : Instr, isEncoded i = true → WellFormed i = true → decode (encode i) = some i

/-- R254, R261: a word stands for at most one instruction, whose encoding it is, bit for bit; so no reserved bit of a word is dropped. -/
def Obligations.EncodeDecode : Prop := ∀ (w : IWord) (i : Instr), decode w = some i → encode i = w ∧ isEncoded i = true ∧ WellFormed i = true

/-- Every step keeps the canonical form of the state: memory's cells rise and none reads as an unlisted one, and the keys of the teams and of the links rise (the model's own form of
plain data, log entry 3). -/
def Obligations.StepKeepsCanonical : Prop := ∀ s t : State, Canonical s → step s = .next t → Canonical t

/-- R16, R59 to R62, R70, R229, R395: the machine right after reset: no context, invocation, team or partition, every page at its reset value, every link in training (the model's choice: log entry 75), every
cluster Unshared (the model's choice, and that no partition is there: log entry 1), the fuse counter 0; it is in canonical form. -/
def Obligations.ResetState : Prop := let s := State.reset
  Canonical s ∧ Idle s ∧ s.parts = [] ∧ s.hub.secver = 0 ∧ s.hub.microcodeMode = false ∧ s.hub.warmResets = 0 ∧ s.hub.report = [] ∧ s.hub.loadLog = [] ∧
    (∀ fn, fn ≤ 32 → ∃ p, tget s.pages fn = some p ∧ p.mbcmd = 0 ∧ p.mbstat = 0 ∧ p.mbres0 = 0 ∧ p.mbres1 = 0 ∧ p.qsel = 0 ∧ p.invva = 0 ∧ p.invlen = 0 ∧ p.invstat = 0 ∧ p.dbgsel = 0 ∧ p.dbgarg = 0 ∧ p.dbgstat = 0) ∧
    (∀ c, c < 48 → ∃ x, tget s.clusters c = some x ∧ x.mode = .unshared ∧ x.gated = false ∧ x.part = none ∧ x.rebuilding = false)

/-- R70: the fuse counter starts at 0 (what MBRES1 reads under BAD-STATE is the model's choice: log entry 86), ADVSEC raises it or leaves it with BAD-STATE and changes nothing else of the device, LOAD is checked against it, and no step lowers it. -/
def Obligations.FuseCounter : Prop := State.reset.hub.secver = 0 ∧
  (∀ (ctx : Nat) (s : State) (p : Page), MbFree s 0 p → let a := argOf p 0
    (s.hub.secver < a.toNat ∧ a.toNat ≤ 255 → MbEnds (exec (.advsec 0 ctx) s) s 0 0x11 ctx (fun t => { t with hub := { t.hub with secver := a.toNat } }) 0 none (some a)) ∧
    (¬(s.hub.secver < a.toNat ∧ a.toNat ≤ 255) → MbEnds (exec (.advsec 0 ctx) s) s 0 0x11 ctx id 1 none (some (BitVec.ofNat 64 s.hub.secver)))) ∧
  (∀ (fn ctx : Nat) (s s2 : State) (p : Page) (c : Ctx) (img : List Byte) (h : ObjHead), MbFree s fn p → NoCommand s ctx → getCtx s ctx = some c → c.owner = fn → takesObjects c = true →
    deviceReadLong ctx ((argOf p 1).toNat / 4096 + 2) (mbBegun s fn 3 ctx) (argOf p 0).toNat (argOf p 1).toNat = (s2, .inl img) → parseObject img (argOf p 1).toNat = some h →
    h.native = true → keyKnown s2 c.part h.signer = true → h.secver < s.hub.secver →
    exec (.load fn ctx) s = .next (modPage s2 fn fun p => { p with mbstat := if Config.verifies h.signer img = true then 5 else 4 })) ∧
  ∀ s t : State, step s = .next t → s.hub.secver ≤ t.hub.secver
end

