-- ==== Sys2Proof/Laws/State.lean ====
section
/-! SUPPORT. What each update of the state leaves in each field: true by unfolding, so that no proof needs to unfold an update. -/
namespace Sys2Proof.Machine

section
variable (s : State)

/-! ### modTeam -/

@[simp] theorem modTeam_mem (k : Nat) (f : Team → Team) : (modTeam s k f).mem = s.mem := rfl
@[simp] theorem modTeam_poison (k : Nat) (f : Team → Team) : (modTeam s k f).poison = s.poison := rfl
@[simp] theorem modTeam_tlb (k : Nat) (f : Team → Team) : (modTeam s k f).tlb = s.tlb := rfl
@[simp] theorem modTeam_ctxs (k : Nat) (f : Team → Team) : (modTeam s k f).ctxs = s.ctxs := rfl
@[simp] theorem modTeam_invs (k : Nat) (f : Team → Team) : (modTeam s k f).invs = s.invs := rfl
@[simp] theorem modTeam_teams (k : Nat) (f : Team → Team) : (modTeam s k f).teams = tmod s.teams k f := rfl
@[simp] theorem modTeam_parts (k : Nat) (f : Team → Team) : (modTeam s k f).parts = s.parts := rfl
@[simp] theorem modTeam_clusters (k : Nat) (f : Team → Team) : (modTeam s k f).clusters = s.clusters := rfl
@[simp] theorem modTeam_cores (k : Nat) (f : Team → Team) : (modTeam s k f).cores = s.cores := rfl
@[simp] theorem modTeam_pages (k : Nat) (f : Team → Team) : (modTeam s k f).pages = s.pages := rfl
@[simp] theorem modTeam_hub (k : Nat) (f : Team → Team) : (modTeam s k f).hub = s.hub := rfl
@[simp] theorem modTeam_links (k : Nat) (f : Team → Team) : (modTeam s k f).links = s.links := rfl
@[simp] theorem modTeam_jobs (k : Nat) (f : Team → Team) : (modTeam s k f).jobs = s.jobs := rfl
@[simp] theorem modTeam_unacked (k : Nat) (f : Team → Team) : (modTeam s k f).unacked = s.unacked := rfl
@[simp] theorem modTeam_sendSeq (k : Nat) (f : Team → Team) : (modTeam s k f).sendSeq = s.sendSeq := rfl
@[simp] theorem modTeam_rxbuf (k : Nat) (f : Team → Team) : (modTeam s k f).rxbuf = s.rxbuf := rfl
@[simp] theorem modTeam_seen (k : Nat) (f : Team → Team) : (modTeam s k f).seen = s.seen := rfl
@[simp] theorem modTeam_waves (k : Nat) (f : Team → Team) : (modTeam s k f).waves = s.waves := rfl
@[simp] theorem modTeam_waveNo (k : Nat) (f : Team → Team) : (modTeam s k f).waveNo = s.waveNo := rfl
@[simp] theorem modTeam_signals (k : Nat) (f : Team → Team) : (modTeam s k f).signals = s.signals := rfl
@[simp] theorem modTeam_arb (k : Nat) (f : Team → Team) : (modTeam s k f).arb = s.arb := rfl
@[simp] theorem modTeam_clk (k : Nat) (f : Team → Team) : (modTeam s k f).clk = s.clk := rfl
@[simp] theorem modTeam_draws (k : Nat) (f : Team → Team) : (modTeam s k f).draws = s.draws := rfl
@[simp] theorem modTeam_cur (k : Nat) (f : Team → Team) : (modTeam s k f).cur = s.cur := rfl
@[simp] theorem modTeam_agenda (k : Nat) (f : Team → Team) : (modTeam s k f).agenda = s.agenda := rfl

/-! ### putGroup -/

@[simp] theorem putGroup_mem (k i : Nat) (g : Group) : (putGroup s k i g).mem = s.mem := rfl
@[simp] theorem putGroup_poison (k i : Nat) (g : Group) : (putGroup s k i g).poison = s.poison := rfl
@[simp] theorem putGroup_tlb (k i : Nat) (g : Group) : (putGroup s k i g).tlb = s.tlb := rfl
@[simp] theorem putGroup_ctxs (k i : Nat) (g : Group) : (putGroup s k i g).ctxs = s.ctxs := rfl
@[simp] theorem putGroup_invs (k i : Nat) (g : Group) : (putGroup s k i g).invs = s.invs := rfl
@[simp] theorem putGroup_teams (k i : Nat) (g : Group) : (putGroup s k i g).teams = tmod s.teams k fun t => { t with groups := lset t.groups i g } := rfl
@[simp] theorem putGroup_parts (k i : Nat) (g : Group) : (putGroup s k i g).parts = s.parts := rfl
@[simp] theorem putGroup_clusters (k i : Nat) (g : Group) : (putGroup s k i g).clusters = s.clusters := rfl
@[simp] theorem putGroup_cores (k i : Nat) (g : Group) : (putGroup s k i g).cores = s.cores := rfl
@[simp] theorem putGroup_pages (k i : Nat) (g : Group) : (putGroup s k i g).pages = s.pages := rfl
@[simp] theorem putGroup_hub (k i : Nat) (g : Group) : (putGroup s k i g).hub = s.hub := rfl
@[simp] theorem putGroup_links (k i : Nat) (g : Group) : (putGroup s k i g).links = s.links := rfl
@[simp] theorem putGroup_jobs (k i : Nat) (g : Group) : (putGroup s k i g).jobs = s.jobs := rfl
@[simp] theorem putGroup_unacked (k i : Nat) (g : Group) : (putGroup s k i g).unacked = s.unacked := rfl
@[simp] theorem putGroup_sendSeq (k i : Nat) (g : Group) : (putGroup s k i g).sendSeq = s.sendSeq := rfl
@[simp] theorem putGroup_rxbuf (k i : Nat) (g : Group) : (putGroup s k i g).rxbuf = s.rxbuf := rfl
@[simp] theorem putGroup_seen (k i : Nat) (g : Group) : (putGroup s k i g).seen = s.seen := rfl
@[simp] theorem putGroup_waves (k i : Nat) (g : Group) : (putGroup s k i g).waves = s.waves := rfl
@[simp] theorem putGroup_waveNo (k i : Nat) (g : Group) : (putGroup s k i g).waveNo = s.waveNo := rfl
@[simp] theorem putGroup_signals (k i : Nat) (g : Group) : (putGroup s k i g).signals = s.signals := rfl
@[simp] theorem putGroup_arb (k i : Nat) (g : Group) : (putGroup s k i g).arb = s.arb := rfl
@[simp] theorem putGroup_clk (k i : Nat) (g : Group) : (putGroup s k i g).clk = s.clk := rfl
@[simp] theorem putGroup_draws (k i : Nat) (g : Group) : (putGroup s k i g).draws = s.draws := rfl
@[simp] theorem putGroup_cur (k i : Nat) (g : Group) : (putGroup s k i g).cur = s.cur := rfl
@[simp] theorem putGroup_agenda (k i : Nat) (g : Group) : (putGroup s k i g).agenda = s.agenda := rfl

/-! ### putSeq -/

@[simp] theorem putSeq_mem (k : Nat) (q : Seq) : (putSeq s k q).mem = s.mem := rfl
@[simp] theorem putSeq_poison (k : Nat) (q : Seq) : (putSeq s k q).poison = s.poison := rfl
@[simp] theorem putSeq_tlb (k : Nat) (q : Seq) : (putSeq s k q).tlb = s.tlb := rfl
@[simp] theorem putSeq_ctxs (k : Nat) (q : Seq) : (putSeq s k q).ctxs = s.ctxs := rfl
@[simp] theorem putSeq_invs (k : Nat) (q : Seq) : (putSeq s k q).invs = s.invs := rfl
@[simp] theorem putSeq_teams (k : Nat) (q : Seq) : (putSeq s k q).teams = tmod s.teams k fun t => { t with seq := some q } := rfl
@[simp] theorem putSeq_parts (k : Nat) (q : Seq) : (putSeq s k q).parts = s.parts := rfl
@[simp] theorem putSeq_clusters (k : Nat) (q : Seq) : (putSeq s k q).clusters = s.clusters := rfl
@[simp] theorem putSeq_cores (k : Nat) (q : Seq) : (putSeq s k q).cores = s.cores := rfl
@[simp] theorem putSeq_pages (k : Nat) (q : Seq) : (putSeq s k q).pages = s.pages := rfl
@[simp] theorem putSeq_hub (k : Nat) (q : Seq) : (putSeq s k q).hub = s.hub := rfl
@[simp] theorem putSeq_links (k : Nat) (q : Seq) : (putSeq s k q).links = s.links := rfl
@[simp] theorem putSeq_jobs (k : Nat) (q : Seq) : (putSeq s k q).jobs = s.jobs := rfl
@[simp] theorem putSeq_unacked (k : Nat) (q : Seq) : (putSeq s k q).unacked = s.unacked := rfl
@[simp] theorem putSeq_sendSeq (k : Nat) (q : Seq) : (putSeq s k q).sendSeq = s.sendSeq := rfl
@[simp] theorem putSeq_rxbuf (k : Nat) (q : Seq) : (putSeq s k q).rxbuf = s.rxbuf := rfl
@[simp] theorem putSeq_seen (k : Nat) (q : Seq) : (putSeq s k q).seen = s.seen := rfl
@[simp] theorem putSeq_waves (k : Nat) (q : Seq) : (putSeq s k q).waves = s.waves := rfl
@[simp] theorem putSeq_waveNo (k : Nat) (q : Seq) : (putSeq s k q).waveNo = s.waveNo := rfl
@[simp] theorem putSeq_signals (k : Nat) (q : Seq) : (putSeq s k q).signals = s.signals := rfl
@[simp] theorem putSeq_arb (k : Nat) (q : Seq) : (putSeq s k q).arb = s.arb := rfl
@[simp] theorem putSeq_clk (k : Nat) (q : Seq) : (putSeq s k q).clk = s.clk := rfl
@[simp] theorem putSeq_draws (k : Nat) (q : Seq) : (putSeq s k q).draws = s.draws := rfl
@[simp] theorem putSeq_cur (k : Nat) (q : Seq) : (putSeq s k q).cur = s.cur := rfl
@[simp] theorem putSeq_agenda (k : Nat) (q : Seq) : (putSeq s k q).agenda = s.agenda := rfl

/-! ### modThread -/

@[simp] theorem modThread_mem (k a : Nat) (f : Thread → Thread) : (modThread s k a f).mem = s.mem := rfl
@[simp] theorem modThread_poison (k a : Nat) (f : Thread → Thread) : (modThread s k a f).poison = s.poison := rfl
@[simp] theorem modThread_tlb (k a : Nat) (f : Thread → Thread) : (modThread s k a f).tlb = s.tlb := rfl
@[simp] theorem modThread_ctxs (k a : Nat) (f : Thread → Thread) : (modThread s k a f).ctxs = s.ctxs := rfl
@[simp] theorem modThread_invs (k a : Nat) (f : Thread → Thread) : (modThread s k a f).invs = s.invs := rfl
@[simp] theorem modThread_teams (k a : Nat) (f : Thread → Thread) : (modThread s k a f).teams = tmod s.teams k fun t => teamModThread t a f := rfl
@[simp] theorem modThread_parts (k a : Nat) (f : Thread → Thread) : (modThread s k a f).parts = s.parts := rfl
@[simp] theorem modThread_clusters (k a : Nat) (f : Thread → Thread) : (modThread s k a f).clusters = s.clusters := rfl
@[simp] theorem modThread_cores (k a : Nat) (f : Thread → Thread) : (modThread s k a f).cores = s.cores := rfl
@[simp] theorem modThread_pages (k a : Nat) (f : Thread → Thread) : (modThread s k a f).pages = s.pages := rfl
@[simp] theorem modThread_hub (k a : Nat) (f : Thread → Thread) : (modThread s k a f).hub = s.hub := rfl
@[simp] theorem modThread_links (k a : Nat) (f : Thread → Thread) : (modThread s k a f).links = s.links := rfl
@[simp] theorem modThread_jobs (k a : Nat) (f : Thread → Thread) : (modThread s k a f).jobs = s.jobs := rfl
@[simp] theorem modThread_unacked (k a : Nat) (f : Thread → Thread) : (modThread s k a f).unacked = s.unacked := rfl
@[simp] theorem modThread_sendSeq (k a : Nat) (f : Thread → Thread) : (modThread s k a f).sendSeq = s.sendSeq := rfl
@[simp] theorem modThread_rxbuf (k a : Nat) (f : Thread → Thread) : (modThread s k a f).rxbuf = s.rxbuf := rfl
@[simp] theorem modThread_seen (k a : Nat) (f : Thread → Thread) : (modThread s k a f).seen = s.seen := rfl
@[simp] theorem modThread_waves (k a : Nat) (f : Thread → Thread) : (modThread s k a f).waves = s.waves := rfl
@[simp] theorem modThread_waveNo (k a : Nat) (f : Thread → Thread) : (modThread s k a f).waveNo = s.waveNo := rfl
@[simp] theorem modThread_signals (k a : Nat) (f : Thread → Thread) : (modThread s k a f).signals = s.signals := rfl
@[simp] theorem modThread_arb (k a : Nat) (f : Thread → Thread) : (modThread s k a f).arb = s.arb := rfl
@[simp] theorem modThread_clk (k a : Nat) (f : Thread → Thread) : (modThread s k a f).clk = s.clk := rfl
@[simp] theorem modThread_draws (k a : Nat) (f : Thread → Thread) : (modThread s k a f).draws = s.draws := rfl
@[simp] theorem modThread_cur (k a : Nat) (f : Thread → Thread) : (modThread s k a f).cur = s.cur := rfl
@[simp] theorem modThread_agenda (k a : Nat) (f : Thread → Thread) : (modThread s k a f).agenda = s.agenda := rfl

/-! ### modInv -/

@[simp] theorem modInv_mem (k : Nat) (f : Invoc → Invoc) : (modInv s k f).mem = s.mem := rfl
@[simp] theorem modInv_poison (k : Nat) (f : Invoc → Invoc) : (modInv s k f).poison = s.poison := rfl
@[simp] theorem modInv_tlb (k : Nat) (f : Invoc → Invoc) : (modInv s k f).tlb = s.tlb := rfl
@[simp] theorem modInv_ctxs (k : Nat) (f : Invoc → Invoc) : (modInv s k f).ctxs = s.ctxs := rfl
@[simp] theorem modInv_invs (k : Nat) (f : Invoc → Invoc) : (modInv s k f).invs = tmod s.invs k f := rfl
@[simp] theorem modInv_teams (k : Nat) (f : Invoc → Invoc) : (modInv s k f).teams = s.teams := rfl
@[simp] theorem modInv_parts (k : Nat) (f : Invoc → Invoc) : (modInv s k f).parts = s.parts := rfl
@[simp] theorem modInv_clusters (k : Nat) (f : Invoc → Invoc) : (modInv s k f).clusters = s.clusters := rfl
@[simp] theorem modInv_cores (k : Nat) (f : Invoc → Invoc) : (modInv s k f).cores = s.cores := rfl
@[simp] theorem modInv_pages (k : Nat) (f : Invoc → Invoc) : (modInv s k f).pages = s.pages := rfl
@[simp] theorem modInv_hub (k : Nat) (f : Invoc → Invoc) : (modInv s k f).hub = s.hub := rfl
@[simp] theorem modInv_links (k : Nat) (f : Invoc → Invoc) : (modInv s k f).links = s.links := rfl
@[simp] theorem modInv_jobs (k : Nat) (f : Invoc → Invoc) : (modInv s k f).jobs = s.jobs := rfl
@[simp] theorem modInv_unacked (k : Nat) (f : Invoc → Invoc) : (modInv s k f).unacked = s.unacked := rfl
@[simp] theorem modInv_sendSeq (k : Nat) (f : Invoc → Invoc) : (modInv s k f).sendSeq = s.sendSeq := rfl
@[simp] theorem modInv_rxbuf (k : Nat) (f : Invoc → Invoc) : (modInv s k f).rxbuf = s.rxbuf := rfl
@[simp] theorem modInv_seen (k : Nat) (f : Invoc → Invoc) : (modInv s k f).seen = s.seen := rfl
@[simp] theorem modInv_waves (k : Nat) (f : Invoc → Invoc) : (modInv s k f).waves = s.waves := rfl
@[simp] theorem modInv_waveNo (k : Nat) (f : Invoc → Invoc) : (modInv s k f).waveNo = s.waveNo := rfl
@[simp] theorem modInv_signals (k : Nat) (f : Invoc → Invoc) : (modInv s k f).signals = s.signals := rfl
@[simp] theorem modInv_arb (k : Nat) (f : Invoc → Invoc) : (modInv s k f).arb = s.arb := rfl
@[simp] theorem modInv_clk (k : Nat) (f : Invoc → Invoc) : (modInv s k f).clk = s.clk := rfl
@[simp] theorem modInv_draws (k : Nat) (f : Invoc → Invoc) : (modInv s k f).draws = s.draws := rfl
@[simp] theorem modInv_cur (k : Nat) (f : Invoc → Invoc) : (modInv s k f).cur = s.cur := rfl
@[simp] theorem modInv_agenda (k : Nat) (f : Invoc → Invoc) : (modInv s k f).agenda = s.agenda := rfl

/-! ### modCtx -/

@[simp] theorem modCtx_mem (n : Nat) (f : Ctx → Ctx) : (modCtx s n f).mem = s.mem := rfl
@[simp] theorem modCtx_poison (n : Nat) (f : Ctx → Ctx) : (modCtx s n f).poison = s.poison := rfl
@[simp] theorem modCtx_tlb (n : Nat) (f : Ctx → Ctx) : (modCtx s n f).tlb = s.tlb := rfl
@[simp] theorem modCtx_ctxs (n : Nat) (f : Ctx → Ctx) : (modCtx s n f).ctxs = tmod s.ctxs n f := rfl
@[simp] theorem modCtx_invs (n : Nat) (f : Ctx → Ctx) : (modCtx s n f).invs = s.invs := rfl
@[simp] theorem modCtx_teams (n : Nat) (f : Ctx → Ctx) : (modCtx s n f).teams = s.teams := rfl
@[simp] theorem modCtx_parts (n : Nat) (f : Ctx → Ctx) : (modCtx s n f).parts = s.parts := rfl
@[simp] theorem modCtx_clusters (n : Nat) (f : Ctx → Ctx) : (modCtx s n f).clusters = s.clusters := rfl
@[simp] theorem modCtx_cores (n : Nat) (f : Ctx → Ctx) : (modCtx s n f).cores = s.cores := rfl
@[simp] theorem modCtx_pages (n : Nat) (f : Ctx → Ctx) : (modCtx s n f).pages = s.pages := rfl
@[simp] theorem modCtx_hub (n : Nat) (f : Ctx → Ctx) : (modCtx s n f).hub = s.hub := rfl
@[simp] theorem modCtx_links (n : Nat) (f : Ctx → Ctx) : (modCtx s n f).links = s.links := rfl
@[simp] theorem modCtx_jobs (n : Nat) (f : Ctx → Ctx) : (modCtx s n f).jobs = s.jobs := rfl
@[simp] theorem modCtx_unacked (n : Nat) (f : Ctx → Ctx) : (modCtx s n f).unacked = s.unacked := rfl
@[simp] theorem modCtx_sendSeq (n : Nat) (f : Ctx → Ctx) : (modCtx s n f).sendSeq = s.sendSeq := rfl
@[simp] theorem modCtx_rxbuf (n : Nat) (f : Ctx → Ctx) : (modCtx s n f).rxbuf = s.rxbuf := rfl
@[simp] theorem modCtx_seen (n : Nat) (f : Ctx → Ctx) : (modCtx s n f).seen = s.seen := rfl
@[simp] theorem modCtx_waves (n : Nat) (f : Ctx → Ctx) : (modCtx s n f).waves = s.waves := rfl
@[simp] theorem modCtx_waveNo (n : Nat) (f : Ctx → Ctx) : (modCtx s n f).waveNo = s.waveNo := rfl
@[simp] theorem modCtx_signals (n : Nat) (f : Ctx → Ctx) : (modCtx s n f).signals = s.signals := rfl
@[simp] theorem modCtx_arb (n : Nat) (f : Ctx → Ctx) : (modCtx s n f).arb = s.arb := rfl
@[simp] theorem modCtx_clk (n : Nat) (f : Ctx → Ctx) : (modCtx s n f).clk = s.clk := rfl
@[simp] theorem modCtx_draws (n : Nat) (f : Ctx → Ctx) : (modCtx s n f).draws = s.draws := rfl
@[simp] theorem modCtx_cur (n : Nat) (f : Ctx → Ctx) : (modCtx s n f).cur = s.cur := rfl
@[simp] theorem modCtx_agenda (n : Nat) (f : Ctx → Ctx) : (modCtx s n f).agenda = s.agenda := rfl

/-! ### modHeap -/

@[simp] theorem modHeap_mem (n : Nat) (f : Heap → Heap) : (modHeap s n f).mem = s.mem := rfl
@[simp] theorem modHeap_poison (n : Nat) (f : Heap → Heap) : (modHeap s n f).poison = s.poison := rfl
@[simp] theorem modHeap_tlb (n : Nat) (f : Heap → Heap) : (modHeap s n f).tlb = s.tlb := rfl
@[simp] theorem modHeap_ctxs (n : Nat) (f : Heap → Heap) : (modHeap s n f).ctxs = tmod s.ctxs n fun c => { c with heap := f c.heap } := rfl
@[simp] theorem modHeap_invs (n : Nat) (f : Heap → Heap) : (modHeap s n f).invs = s.invs := rfl
@[simp] theorem modHeap_teams (n : Nat) (f : Heap → Heap) : (modHeap s n f).teams = s.teams := rfl
@[simp] theorem modHeap_parts (n : Nat) (f : Heap → Heap) : (modHeap s n f).parts = s.parts := rfl
@[simp] theorem modHeap_clusters (n : Nat) (f : Heap → Heap) : (modHeap s n f).clusters = s.clusters := rfl
@[simp] theorem modHeap_cores (n : Nat) (f : Heap → Heap) : (modHeap s n f).cores = s.cores := rfl
@[simp] theorem modHeap_pages (n : Nat) (f : Heap → Heap) : (modHeap s n f).pages = s.pages := rfl
@[simp] theorem modHeap_hub (n : Nat) (f : Heap → Heap) : (modHeap s n f).hub = s.hub := rfl
@[simp] theorem modHeap_links (n : Nat) (f : Heap → Heap) : (modHeap s n f).links = s.links := rfl
@[simp] theorem modHeap_jobs (n : Nat) (f : Heap → Heap) : (modHeap s n f).jobs = s.jobs := rfl
@[simp] theorem modHeap_unacked (n : Nat) (f : Heap → Heap) : (modHeap s n f).unacked = s.unacked := rfl
@[simp] theorem modHeap_sendSeq (n : Nat) (f : Heap → Heap) : (modHeap s n f).sendSeq = s.sendSeq := rfl
@[simp] theorem modHeap_rxbuf (n : Nat) (f : Heap → Heap) : (modHeap s n f).rxbuf = s.rxbuf := rfl
@[simp] theorem modHeap_seen (n : Nat) (f : Heap → Heap) : (modHeap s n f).seen = s.seen := rfl
@[simp] theorem modHeap_waves (n : Nat) (f : Heap → Heap) : (modHeap s n f).waves = s.waves := rfl
@[simp] theorem modHeap_waveNo (n : Nat) (f : Heap → Heap) : (modHeap s n f).waveNo = s.waveNo := rfl
@[simp] theorem modHeap_signals (n : Nat) (f : Heap → Heap) : (modHeap s n f).signals = s.signals := rfl
@[simp] theorem modHeap_arb (n : Nat) (f : Heap → Heap) : (modHeap s n f).arb = s.arb := rfl
@[simp] theorem modHeap_clk (n : Nat) (f : Heap → Heap) : (modHeap s n f).clk = s.clk := rfl
@[simp] theorem modHeap_draws (n : Nat) (f : Heap → Heap) : (modHeap s n f).draws = s.draws := rfl
@[simp] theorem modHeap_cur (n : Nat) (f : Heap → Heap) : (modHeap s n f).cur = s.cur := rfl
@[simp] theorem modHeap_agenda (n : Nat) (f : Heap → Heap) : (modHeap s n f).agenda = s.agenda := rfl

/-! ### modPage -/

@[simp] theorem modPage_mem (n : Nat) (f : Page → Page) : (modPage s n f).mem = s.mem := rfl
@[simp] theorem modPage_poison (n : Nat) (f : Page → Page) : (modPage s n f).poison = s.poison := rfl
@[simp] theorem modPage_tlb (n : Nat) (f : Page → Page) : (modPage s n f).tlb = s.tlb := rfl
@[simp] theorem modPage_ctxs (n : Nat) (f : Page → Page) : (modPage s n f).ctxs = s.ctxs := rfl
@[simp] theorem modPage_invs (n : Nat) (f : Page → Page) : (modPage s n f).invs = s.invs := rfl
@[simp] theorem modPage_teams (n : Nat) (f : Page → Page) : (modPage s n f).teams = s.teams := rfl
@[simp] theorem modPage_parts (n : Nat) (f : Page → Page) : (modPage s n f).parts = s.parts := rfl
@[simp] theorem modPage_clusters (n : Nat) (f : Page → Page) : (modPage s n f).clusters = s.clusters := rfl
@[simp] theorem modPage_cores (n : Nat) (f : Page → Page) : (modPage s n f).cores = s.cores := rfl
@[simp] theorem modPage_pages (n : Nat) (f : Page → Page) : (modPage s n f).pages = tmod s.pages n f := rfl
@[simp] theorem modPage_hub (n : Nat) (f : Page → Page) : (modPage s n f).hub = s.hub := rfl
@[simp] theorem modPage_links (n : Nat) (f : Page → Page) : (modPage s n f).links = s.links := rfl
@[simp] theorem modPage_jobs (n : Nat) (f : Page → Page) : (modPage s n f).jobs = s.jobs := rfl
@[simp] theorem modPage_unacked (n : Nat) (f : Page → Page) : (modPage s n f).unacked = s.unacked := rfl
@[simp] theorem modPage_sendSeq (n : Nat) (f : Page → Page) : (modPage s n f).sendSeq = s.sendSeq := rfl
@[simp] theorem modPage_rxbuf (n : Nat) (f : Page → Page) : (modPage s n f).rxbuf = s.rxbuf := rfl
@[simp] theorem modPage_seen (n : Nat) (f : Page → Page) : (modPage s n f).seen = s.seen := rfl
@[simp] theorem modPage_waves (n : Nat) (f : Page → Page) : (modPage s n f).waves = s.waves := rfl
@[simp] theorem modPage_waveNo (n : Nat) (f : Page → Page) : (modPage s n f).waveNo = s.waveNo := rfl
@[simp] theorem modPage_signals (n : Nat) (f : Page → Page) : (modPage s n f).signals = s.signals := rfl
@[simp] theorem modPage_arb (n : Nat) (f : Page → Page) : (modPage s n f).arb = s.arb := rfl
@[simp] theorem modPage_clk (n : Nat) (f : Page → Page) : (modPage s n f).clk = s.clk := rfl
@[simp] theorem modPage_draws (n : Nat) (f : Page → Page) : (modPage s n f).draws = s.draws := rfl
@[simp] theorem modPage_cur (n : Nat) (f : Page → Page) : (modPage s n f).cur = s.cur := rfl
@[simp] theorem modPage_agenda (n : Nat) (f : Page → Page) : (modPage s n f).agenda = s.agenda := rfl

/-! ### modCluster -/

@[simp] theorem modCluster_mem (c : Nat) (f : Cluster → Cluster) : (modCluster s c f).mem = s.mem := rfl
@[simp] theorem modCluster_poison (c : Nat) (f : Cluster → Cluster) : (modCluster s c f).poison = s.poison := rfl
@[simp] theorem modCluster_tlb (c : Nat) (f : Cluster → Cluster) : (modCluster s c f).tlb = s.tlb := rfl
@[simp] theorem modCluster_ctxs (c : Nat) (f : Cluster → Cluster) : (modCluster s c f).ctxs = s.ctxs := rfl
@[simp] theorem modCluster_invs (c : Nat) (f : Cluster → Cluster) : (modCluster s c f).invs = s.invs := rfl
@[simp] theorem modCluster_teams (c : Nat) (f : Cluster → Cluster) : (modCluster s c f).teams = s.teams := rfl
@[simp] theorem modCluster_parts (c : Nat) (f : Cluster → Cluster) : (modCluster s c f).parts = s.parts := rfl
@[simp] theorem modCluster_clusters (c : Nat) (f : Cluster → Cluster) : (modCluster s c f).clusters = tmod s.clusters c f := rfl
@[simp] theorem modCluster_cores (c : Nat) (f : Cluster → Cluster) : (modCluster s c f).cores = s.cores := rfl
@[simp] theorem modCluster_pages (c : Nat) (f : Cluster → Cluster) : (modCluster s c f).pages = s.pages := rfl
@[simp] theorem modCluster_hub (c : Nat) (f : Cluster → Cluster) : (modCluster s c f).hub = s.hub := rfl
@[simp] theorem modCluster_links (c : Nat) (f : Cluster → Cluster) : (modCluster s c f).links = s.links := rfl
@[simp] theorem modCluster_jobs (c : Nat) (f : Cluster → Cluster) : (modCluster s c f).jobs = s.jobs := rfl
@[simp] theorem modCluster_unacked (c : Nat) (f : Cluster → Cluster) : (modCluster s c f).unacked = s.unacked := rfl
@[simp] theorem modCluster_sendSeq (c : Nat) (f : Cluster → Cluster) : (modCluster s c f).sendSeq = s.sendSeq := rfl
@[simp] theorem modCluster_rxbuf (c : Nat) (f : Cluster → Cluster) : (modCluster s c f).rxbuf = s.rxbuf := rfl
@[simp] theorem modCluster_seen (c : Nat) (f : Cluster → Cluster) : (modCluster s c f).seen = s.seen := rfl
@[simp] theorem modCluster_waves (c : Nat) (f : Cluster → Cluster) : (modCluster s c f).waves = s.waves := rfl
@[simp] theorem modCluster_waveNo (c : Nat) (f : Cluster → Cluster) : (modCluster s c f).waveNo = s.waveNo := rfl
@[simp] theorem modCluster_signals (c : Nat) (f : Cluster → Cluster) : (modCluster s c f).signals = s.signals := rfl
@[simp] theorem modCluster_arb (c : Nat) (f : Cluster → Cluster) : (modCluster s c f).arb = s.arb := rfl
@[simp] theorem modCluster_clk (c : Nat) (f : Cluster → Cluster) : (modCluster s c f).clk = s.clk := rfl
@[simp] theorem modCluster_draws (c : Nat) (f : Cluster → Cluster) : (modCluster s c f).draws = s.draws := rfl
@[simp] theorem modCluster_cur (c : Nat) (f : Cluster → Cluster) : (modCluster s c f).cur = s.cur := rfl
@[simp] theorem modCluster_agenda (c : Nat) (f : Cluster → Cluster) : (modCluster s c f).agenda = s.agenda := rfl

/-! ### modCore -/

@[simp] theorem modCore_mem (n : Nat) (f : Core → Core) : (modCore s n f).mem = s.mem := rfl
@[simp] theorem modCore_poison (n : Nat) (f : Core → Core) : (modCore s n f).poison = s.poison := rfl
@[simp] theorem modCore_tlb (n : Nat) (f : Core → Core) : (modCore s n f).tlb = s.tlb := rfl
@[simp] theorem modCore_ctxs (n : Nat) (f : Core → Core) : (modCore s n f).ctxs = s.ctxs := rfl
@[simp] theorem modCore_invs (n : Nat) (f : Core → Core) : (modCore s n f).invs = s.invs := rfl
@[simp] theorem modCore_teams (n : Nat) (f : Core → Core) : (modCore s n f).teams = s.teams := rfl
@[simp] theorem modCore_parts (n : Nat) (f : Core → Core) : (modCore s n f).parts = s.parts := rfl
@[simp] theorem modCore_clusters (n : Nat) (f : Core → Core) : (modCore s n f).clusters = s.clusters := rfl
@[simp] theorem modCore_cores (n : Nat) (f : Core → Core) : (modCore s n f).cores = tput s.cores n (f (getCore s n)) := rfl
@[simp] theorem modCore_pages (n : Nat) (f : Core → Core) : (modCore s n f).pages = s.pages := rfl
@[simp] theorem modCore_hub (n : Nat) (f : Core → Core) : (modCore s n f).hub = s.hub := rfl
@[simp] theorem modCore_links (n : Nat) (f : Core → Core) : (modCore s n f).links = s.links := rfl
@[simp] theorem modCore_jobs (n : Nat) (f : Core → Core) : (modCore s n f).jobs = s.jobs := rfl
@[simp] theorem modCore_unacked (n : Nat) (f : Core → Core) : (modCore s n f).unacked = s.unacked := rfl
@[simp] theorem modCore_sendSeq (n : Nat) (f : Core → Core) : (modCore s n f).sendSeq = s.sendSeq := rfl
@[simp] theorem modCore_rxbuf (n : Nat) (f : Core → Core) : (modCore s n f).rxbuf = s.rxbuf := rfl
@[simp] theorem modCore_seen (n : Nat) (f : Core → Core) : (modCore s n f).seen = s.seen := rfl
@[simp] theorem modCore_waves (n : Nat) (f : Core → Core) : (modCore s n f).waves = s.waves := rfl
@[simp] theorem modCore_waveNo (n : Nat) (f : Core → Core) : (modCore s n f).waveNo = s.waveNo := rfl
@[simp] theorem modCore_signals (n : Nat) (f : Core → Core) : (modCore s n f).signals = s.signals := rfl
@[simp] theorem modCore_arb (n : Nat) (f : Core → Core) : (modCore s n f).arb = s.arb := rfl
@[simp] theorem modCore_clk (n : Nat) (f : Core → Core) : (modCore s n f).clk = s.clk := rfl
@[simp] theorem modCore_draws (n : Nat) (f : Core → Core) : (modCore s n f).draws = s.draws := rfl
@[simp] theorem modCore_cur (n : Nat) (f : Core → Core) : (modCore s n f).cur = s.cur := rfl
@[simp] theorem modCore_agenda (n : Nat) (f : Core → Core) : (modCore s n f).agenda = s.agenda := rfl

/-! ### modLink -/

@[simp] theorem modLink_mem (p : Nat) (f : Link → Link) : (modLink s p f).mem = s.mem := rfl
@[simp] theorem modLink_poison (p : Nat) (f : Link → Link) : (modLink s p f).poison = s.poison := rfl
@[simp] theorem modLink_tlb (p : Nat) (f : Link → Link) : (modLink s p f).tlb = s.tlb := rfl
@[simp] theorem modLink_ctxs (p : Nat) (f : Link → Link) : (modLink s p f).ctxs = s.ctxs := rfl
@[simp] theorem modLink_invs (p : Nat) (f : Link → Link) : (modLink s p f).invs = s.invs := rfl
@[simp] theorem modLink_teams (p : Nat) (f : Link → Link) : (modLink s p f).teams = s.teams := rfl
@[simp] theorem modLink_parts (p : Nat) (f : Link → Link) : (modLink s p f).parts = s.parts := rfl
@[simp] theorem modLink_clusters (p : Nat) (f : Link → Link) : (modLink s p f).clusters = s.clusters := rfl
@[simp] theorem modLink_cores (p : Nat) (f : Link → Link) : (modLink s p f).cores = s.cores := rfl
@[simp] theorem modLink_pages (p : Nat) (f : Link → Link) : (modLink s p f).pages = s.pages := rfl
@[simp] theorem modLink_hub (p : Nat) (f : Link → Link) : (modLink s p f).hub = s.hub := rfl
@[simp] theorem modLink_links (p : Nat) (f : Link → Link) : (modLink s p f).links = tmod s.links p f := rfl
@[simp] theorem modLink_jobs (p : Nat) (f : Link → Link) : (modLink s p f).jobs = s.jobs := rfl
@[simp] theorem modLink_unacked (p : Nat) (f : Link → Link) : (modLink s p f).unacked = s.unacked := rfl
@[simp] theorem modLink_sendSeq (p : Nat) (f : Link → Link) : (modLink s p f).sendSeq = s.sendSeq := rfl
@[simp] theorem modLink_rxbuf (p : Nat) (f : Link → Link) : (modLink s p f).rxbuf = s.rxbuf := rfl
@[simp] theorem modLink_seen (p : Nat) (f : Link → Link) : (modLink s p f).seen = s.seen := rfl
@[simp] theorem modLink_waves (p : Nat) (f : Link → Link) : (modLink s p f).waves = s.waves := rfl
@[simp] theorem modLink_waveNo (p : Nat) (f : Link → Link) : (modLink s p f).waveNo = s.waveNo := rfl
@[simp] theorem modLink_signals (p : Nat) (f : Link → Link) : (modLink s p f).signals = s.signals := rfl
@[simp] theorem modLink_arb (p : Nat) (f : Link → Link) : (modLink s p f).arb = s.arb := rfl
@[simp] theorem modLink_clk (p : Nat) (f : Link → Link) : (modLink s p f).clk = s.clk := rfl
@[simp] theorem modLink_draws (p : Nat) (f : Link → Link) : (modLink s p f).draws = s.draws := rfl
@[simp] theorem modLink_cur (p : Nat) (f : Link → Link) : (modLink s p f).cur = s.cur := rfl
@[simp] theorem modLink_agenda (p : Nat) (f : Link → Link) : (modLink s p f).agenda = s.agenda := rfl

/-! ### modJob -/

@[simp] theorem modJob_mem (j : Nat) (f : Job → Job) : (modJob s j f).mem = s.mem := rfl
@[simp] theorem modJob_poison (j : Nat) (f : Job → Job) : (modJob s j f).poison = s.poison := rfl
@[simp] theorem modJob_tlb (j : Nat) (f : Job → Job) : (modJob s j f).tlb = s.tlb := rfl
@[simp] theorem modJob_ctxs (j : Nat) (f : Job → Job) : (modJob s j f).ctxs = s.ctxs := rfl
@[simp] theorem modJob_invs (j : Nat) (f : Job → Job) : (modJob s j f).invs = s.invs := rfl
@[simp] theorem modJob_teams (j : Nat) (f : Job → Job) : (modJob s j f).teams = s.teams := rfl
@[simp] theorem modJob_parts (j : Nat) (f : Job → Job) : (modJob s j f).parts = s.parts := rfl
@[simp] theorem modJob_clusters (j : Nat) (f : Job → Job) : (modJob s j f).clusters = s.clusters := rfl
@[simp] theorem modJob_cores (j : Nat) (f : Job → Job) : (modJob s j f).cores = s.cores := rfl
@[simp] theorem modJob_pages (j : Nat) (f : Job → Job) : (modJob s j f).pages = s.pages := rfl
@[simp] theorem modJob_hub (j : Nat) (f : Job → Job) : (modJob s j f).hub = s.hub := rfl
@[simp] theorem modJob_links (j : Nat) (f : Job → Job) : (modJob s j f).links = s.links := rfl
@[simp] theorem modJob_jobs (j : Nat) (f : Job → Job) : (modJob s j f).jobs = tmod s.jobs j f := rfl
@[simp] theorem modJob_unacked (j : Nat) (f : Job → Job) : (modJob s j f).unacked = s.unacked := rfl
@[simp] theorem modJob_sendSeq (j : Nat) (f : Job → Job) : (modJob s j f).sendSeq = s.sendSeq := rfl
@[simp] theorem modJob_rxbuf (j : Nat) (f : Job → Job) : (modJob s j f).rxbuf = s.rxbuf := rfl
@[simp] theorem modJob_seen (j : Nat) (f : Job → Job) : (modJob s j f).seen = s.seen := rfl
@[simp] theorem modJob_waves (j : Nat) (f : Job → Job) : (modJob s j f).waves = s.waves := rfl
@[simp] theorem modJob_waveNo (j : Nat) (f : Job → Job) : (modJob s j f).waveNo = s.waveNo := rfl
@[simp] theorem modJob_signals (j : Nat) (f : Job → Job) : (modJob s j f).signals = s.signals := rfl
@[simp] theorem modJob_arb (j : Nat) (f : Job → Job) : (modJob s j f).arb = s.arb := rfl
@[simp] theorem modJob_clk (j : Nat) (f : Job → Job) : (modJob s j f).clk = s.clk := rfl
@[simp] theorem modJob_draws (j : Nat) (f : Job → Job) : (modJob s j f).draws = s.draws := rfl
@[simp] theorem modJob_cur (j : Nat) (f : Job → Job) : (modJob s j f).cur = s.cur := rfl
@[simp] theorem modJob_agenda (j : Nat) (f : Job → Job) : (modJob s j f).agenda = s.agenda := rfl

/-! ### arbTick -/

@[simp] theorem arbTick_mem : (arbTick s).mem = s.mem := rfl
@[simp] theorem arbTick_poison : (arbTick s).poison = s.poison := rfl
@[simp] theorem arbTick_tlb : (arbTick s).tlb = s.tlb := rfl
@[simp] theorem arbTick_ctxs : (arbTick s).ctxs = s.ctxs := rfl
@[simp] theorem arbTick_invs : (arbTick s).invs = s.invs := rfl
@[simp] theorem arbTick_teams : (arbTick s).teams = s.teams := rfl
@[simp] theorem arbTick_parts : (arbTick s).parts = s.parts := rfl
@[simp] theorem arbTick_clusters : (arbTick s).clusters = s.clusters := rfl
@[simp] theorem arbTick_cores : (arbTick s).cores = s.cores := rfl
@[simp] theorem arbTick_pages : (arbTick s).pages = s.pages := rfl
@[simp] theorem arbTick_hub : (arbTick s).hub = s.hub := rfl
@[simp] theorem arbTick_links : (arbTick s).links = s.links := rfl
@[simp] theorem arbTick_jobs : (arbTick s).jobs = s.jobs := rfl
@[simp] theorem arbTick_unacked : (arbTick s).unacked = s.unacked := rfl
@[simp] theorem arbTick_sendSeq : (arbTick s).sendSeq = s.sendSeq := rfl
@[simp] theorem arbTick_rxbuf : (arbTick s).rxbuf = s.rxbuf := rfl
@[simp] theorem arbTick_seen : (arbTick s).seen = s.seen := rfl
@[simp] theorem arbTick_waves : (arbTick s).waves = s.waves := rfl
@[simp] theorem arbTick_waveNo : (arbTick s).waveNo = s.waveNo := rfl
@[simp] theorem arbTick_signals : (arbTick s).signals = s.signals := rfl
@[simp] theorem arbTick_arb : (arbTick s).arb = s.arb + 1 := rfl
@[simp] theorem arbTick_clk : (arbTick s).clk = s.clk := rfl
@[simp] theorem arbTick_draws : (arbTick s).draws = s.draws := rfl
@[simp] theorem arbTick_cur : (arbTick s).cur = s.cur := rfl
@[simp] theorem arbTick_agenda : (arbTick s).agenda = s.agenda := rfl

/-! ### tickClock -/

@[simp] theorem tickClock_mem : (tickClock s).mem = s.mem := rfl
@[simp] theorem tickClock_poison : (tickClock s).poison = s.poison := rfl
@[simp] theorem tickClock_tlb : (tickClock s).tlb = s.tlb := rfl
@[simp] theorem tickClock_ctxs : (tickClock s).ctxs = s.ctxs := rfl
@[simp] theorem tickClock_invs : (tickClock s).invs = s.invs := rfl
@[simp] theorem tickClock_teams : (tickClock s).teams = s.teams := rfl
@[simp] theorem tickClock_parts : (tickClock s).parts = s.parts := rfl
@[simp] theorem tickClock_clusters : (tickClock s).clusters = s.clusters := rfl
@[simp] theorem tickClock_cores : (tickClock s).cores = s.cores := rfl
@[simp] theorem tickClock_pages : (tickClock s).pages = s.pages := rfl
@[simp] theorem tickClock_hub : (tickClock s).hub = s.hub := rfl
@[simp] theorem tickClock_links : (tickClock s).links = s.links := rfl
@[simp] theorem tickClock_jobs : (tickClock s).jobs = s.jobs := rfl
@[simp] theorem tickClock_unacked : (tickClock s).unacked = s.unacked := rfl
@[simp] theorem tickClock_sendSeq : (tickClock s).sendSeq = s.sendSeq := rfl
@[simp] theorem tickClock_rxbuf : (tickClock s).rxbuf = s.rxbuf := rfl
@[simp] theorem tickClock_seen : (tickClock s).seen = s.seen := rfl
@[simp] theorem tickClock_waves : (tickClock s).waves = s.waves := rfl
@[simp] theorem tickClock_waveNo : (tickClock s).waveNo = s.waveNo := rfl
@[simp] theorem tickClock_signals : (tickClock s).signals = s.signals := rfl
@[simp] theorem tickClock_arb : (tickClock s).arb = s.arb := rfl
@[simp] theorem tickClock_clk : (tickClock s).clk = s.clk + Config.clocks s.draws := rfl
@[simp] theorem tickClock_draws : (tickClock s).draws = s.draws + 1 := rfl
@[simp] theorem tickClock_cur : (tickClock s).cur = s.cur := rfl
@[simp] theorem tickClock_agenda : (tickClock s).agenda = s.agenda := rfl

end

section
variable (th : Thread) (n : Nat) (v : Word)

/-! ### Threads -/

@[simp] theorem setX_pc : (setX th n v).pc = th.pc := rfl
@[simp] theorem setX_x : (setX th n v).x = tputD th.x n v 0 := rfl
@[simp] theorem setX_wins : (setX th n v).wins = th.wins := rfl
@[simp] theorem setX_pend : (setX th n v).pend = th.pend := rfl
@[simp] theorem setX_err : (setX th n v).err = th.err := rfl
@[simp] theorem setX_run : (setX th n v).run = th.run := rfl
@[simp] theorem setX_park : (setX th n v).park = th.park := rfl
@[simp] theorem setX_word : (setX th n v).word = th.word := rfl
@[simp] theorem setX_rewatch : (setX th n v).rewatch = th.rewatch := rfl
@[simp] theorem setX_halted : (setX th n v).halted = th.halted := rfl
@[simp] theorem setX_haltReq : (setX th n v).haltReq = th.haltReq := rfl
@[simp] theorem setX_byCmd : (setX th n v).byCmd = th.byCmd := rfl
@[simp] theorem setX_stalled : (setX th n v).stalled = th.stalled := rfl
@[simp] theorem setX_convoy : (setX th n v).convoy = th.convoy := rfl
@[simp] theorem setX_trapc : (setX th n v).trapc = th.trapc := rfl
@[simp] theorem setX_trapv : (setX th n v).trapv = th.trapv := rfl
@[simp] theorem setX_epc : (setX th n v).epc = th.epc := rfl
@[simp] theorem setX_inBlock : (setX th n v).inBlock = th.inBlock := rfl
@[simp] theorem setX_aside : (setX th n v).aside = th.aside := rfl
@[simp] theorem setX_lastTs : (setX th n v).lastTs = th.lastTs := rfl
@[simp] theorem setX_owed : (setX th n v).owed = th.owed := rfl

@[simp] theorem threadNext_pc (pc : Word) (w : IWord) (la : Nat) (hid : List Hidden) : (threadNext th pc w la hid).pc = pc := rfl
@[simp] theorem threadNext_x (pc : Word) (w : IWord) (la : Nat) (hid : List Hidden) : (threadNext th pc w la hid).x = th.x := rfl
@[simp] theorem threadNext_wins (pc : Word) (w : IWord) (la : Nat) (hid : List Hidden) : (threadNext th pc w la hid).wins = advanceWindows th.wins la hid := rfl
@[simp] theorem threadNext_pend (pc : Word) (w : IWord) (la : Nat) (hid : List Hidden) : (threadNext th pc w la hid).pend = th.pend := rfl
@[simp] theorem threadNext_err (pc : Word) (w : IWord) (la : Nat) (hid : List Hidden) : (threadNext th pc w la hid).err = th.err := rfl
@[simp] theorem threadNext_run (pc : Word) (w : IWord) (la : Nat) (hid : List Hidden) : (threadNext th pc w la hid).run = .running := rfl
@[simp] theorem threadNext_park (pc : Word) (w : IWord) (la : Nat) (hid : List Hidden) : (threadNext th pc w la hid).park = .none := rfl
@[simp] theorem threadNext_word (pc : Word) (w : IWord) (la : Nat) (hid : List Hidden) : (threadNext th pc w la hid).word = th.word := rfl
@[simp] theorem threadNext_rewatch (pc : Word) (w : IWord) (la : Nat) (hid : List Hidden) : (threadNext th pc w la hid).rewatch = none := rfl
@[simp] theorem threadNext_halted (pc : Word) (w : IWord) (la : Nat) (hid : List Hidden) : (threadNext th pc w la hid).halted = th.halted := rfl
@[simp] theorem threadNext_haltReq (pc : Word) (w : IWord) (la : Nat) (hid : List Hidden) : (threadNext th pc w la hid).haltReq = th.haltReq := rfl
@[simp] theorem threadNext_byCmd (pc : Word) (w : IWord) (la : Nat) (hid : List Hidden) : (threadNext th pc w la hid).byCmd = th.byCmd := rfl
@[simp] theorem threadNext_stalled (pc : Word) (w : IWord) (la : Nat) (hid : List Hidden) : (threadNext th pc w la hid).stalled = false := rfl
@[simp] theorem threadNext_convoy (pc : Word) (w : IWord) (la : Nat) (hid : List Hidden) : (threadNext th pc w la hid).convoy = convoyNext th.convoy w := rfl
@[simp] theorem threadNext_trapc (pc : Word) (w : IWord) (la : Nat) (hid : List Hidden) : (threadNext th pc w la hid).trapc = th.trapc := rfl
@[simp] theorem threadNext_trapv (pc : Word) (w : IWord) (la : Nat) (hid : List Hidden) : (threadNext th pc w la hid).trapv = th.trapv := rfl
@[simp] theorem threadNext_epc (pc : Word) (w : IWord) (la : Nat) (hid : List Hidden) : (threadNext th pc w la hid).epc = th.epc := rfl
@[simp] theorem threadNext_inBlock (pc : Word) (w : IWord) (la : Nat) (hid : List Hidden) : (threadNext th pc w la hid).inBlock = th.inBlock := rfl
@[simp] theorem threadNext_aside (pc : Word) (w : IWord) (la : Nat) (hid : List Hidden) : (threadNext th pc w la hid).aside = th.aside := rfl
@[simp] theorem threadNext_lastTs (pc : Word) (w : IWord) (la : Nat) (hid : List Hidden) : (threadNext th pc w la hid).lastTs = th.lastTs := rfl
@[simp] theorem threadNext_owed (pc : Word) (w : IWord) (la : Nat) (hid : List Hidden) : (threadNext th pc w la hid).owed = th.owed := rfl

end

section
variable (g : Group) (pc : Word) (taken : Bool) (w : IWord) (la : Nat) (hid : List Hidden)

/-! ### Groups -/

@[simp] theorem groupNext_th : (groupNext g pc taken w la hid).th = threadNext g.th pc w la hid := rfl
@[simp] theorem groupNext_parts : (groupNext g pc taken w la hid).parts = g.parts := rfl
@[simp] theorem groupNext_h : (groupNext g pc taken w la hid).h = g.h := rfl
@[simp] theorem groupNext_v : (groupNext g pc taken w la hid).v = g.v := rfl
@[simp] theorem groupNext_p : (groupNext g pc taken w la hid).p = g.p := rfl
@[simp] theorem groupNext_vlen : (groupNext g pc taken w la hid).vlen = g.vlen := rfl
@[simp] theorem groupNext_vtype : (groupNext g pc taken w la hid).vtype = g.vtype := rfl
@[simp] theorem groupNext_vmask : (groupNext g pc taken w la hid).vmask = g.vmask := rfl
@[simp] theorem groupNext_vstride : (groupNext g pc taken w la hid).vstride = g.vstride := rfl
@[simp] theorem groupNext_ecar : (groupNext g pc taken w la hid).ecar = g.ecar := rfl
@[simp] theorem groupNext_ridx : (groupNext g pc taken w la hid).ridx = 0 := rfl
@[simp] theorem groupNext_fcsr : (groupNext g pc taken w la hid).fcsr = g.fcsr := rfl
@[simp] theorem groupNext_siga : (groupNext g pc taken w la hid).siga = if isSigchk w then g.siga else sigaNext g.siga w taken := rfl
@[simp] theorem groupNext_txs : (groupNext g pc taken w la hid).txs = g.txs := rfl
@[simp] theorem groupNext_txn : (groupNext g pc taken w la hid).txn = g.txn.map fun x => { x with wins := tickWindows x.wins } := rfl
@[simp] theorem groupNext_block : (groupNext g pc taken w la hid).block = g.block := rfl
@[simp] theorem groupNext_slots : (groupNext g pc taken w la hid).slots = g.slots := rfl
@[simp] theorem groupNext_pins : (groupNext g pc taken w la hid).pins = g.pins := rfl

end

end Sys2Proof.Machine
end

