-- ==== Sys2Proof/Laws/Tables.lean ====
section
/-! SUPPORT. What the operations on tables and lists answer: reading an entry after a write, a removal or a modification. -/
namespace Sys2Proof.Machine

theorem tget_tput {α : Type} (t : Tbl α) (k j : Nat) (v : α) : tget (tput t k v) j = if k = j then some v else tget t j := by
  induction t with
  | nil => simp [tput, tget]
  | cons e r ih =>
    obtain ⟨i, a⟩ := e
    simp only [tput]
    split
    · simp [tget]
    · split
      · next h => subst h; by_cases hj : i = j <;> simp [tget, hj]
      · simp only [tget, ih]; by_cases hi : i = j <;> by_cases hk : k = j <;> simp_all

@[simp] theorem tget_tput_self {α : Type} (t : Tbl α) (k : Nat) (v : α) : tget (tput t k v) k = some v := by simp [tget_tput]

theorem tget_tput_ne {α : Type} (t : Tbl α) {k j : Nat} (v : α) (h : k ≠ j) : tget (tput t k v) j = tget t j := by simp [tget_tput, h]

theorem tget_tmod {α : Type} (t : Tbl α) (k j : Nat) (f : α → α) : tget (tmod t k f) j = if k = j then (tget t j).map f else tget t j := by
  induction t with
  | nil => simp [tmod, tget]
  | cons e r ih =>
    obtain ⟨i, a⟩ := e
    simp only [tmod]
    split
    · next h => subst h; by_cases hj : i = j <;> simp [tget, hj]
    · simp only [tget, ih]; by_cases hi : i = j <;> by_cases hk : k = j <;> simp_all

@[simp] theorem tget_tmod_self {α : Type} (t : Tbl α) (k : Nat) (f : α → α) : tget (tmod t k f) k = (tget t k).map f := by simp [tget_tmod]

theorem tget_tmod_ne {α : Type} (t : Tbl α) {k j : Nat} (f : α → α) (h : k ≠ j) : tget (tmod t k f) j = tget t j := by simp [tget_tmod, h]

/-- Modifying an entry twice modifies it once by the composition. -/
@[simp] theorem tmod_tmod {α : Type} (t : Tbl α) (k : Nat) (f g : α → α) : tmod (tmod t k f) k g = tmod t k (fun a => g (f a)) := by
  induction t with
  | nil => rfl
  | cons e r ih => obtain ⟨i, a⟩ := e; by_cases h : i = k <;> simp [tmod, h, ih]

/-- Two modifications of one entry that agree on what it holds give one table. -/
theorem tmod_congr {α : Type} (t : Tbl α) (k : Nat) {f g : α → α} {a : α} (ha : tget t k = some a) (h : f a = g a) : tmod t k f = tmod t k g := by
  induction t with
  | nil => rfl
  | cons e r ih =>
    obtain ⟨i, b⟩ := e
    by_cases hi : i = k
    · simp_all [tmod, tget]
    · simp only [tmod, if_neg hi]; rw [ih (by simpa [tget, hi] using ha)]

theorem tget_tmap {α : Type} (t : Tbl α) (f : Nat → α → α) (j : Nat) : tget (tmap t f) j = (tget t j).map (f j) := by
  induction t with
  | nil => rfl
  | cons e r ih =>
    obtain ⟨i, a⟩ := e
    simp only [tmap, List.map_cons, tget] at *
    by_cases h : i = j
    · subst h; simp
    · simp [h, ih]

theorem tget_tdel {α : Type} (t : Tbl α) (k j : Nat) : tget (tdel t k) j = if k = j then none else tget t j := by
  induction t with
  | nil => simp [tdel, tget]
  | cons e r ih =>
    obtain ⟨i, a⟩ := e
    simp only [tdel]
    by_cases hik : i = k
    · rw [if_pos hik, ih]; by_cases hkj : k = j <;> simp [tget, hik, hkj]
    · rw [if_neg hik]; simp only [tget, ih]
      by_cases hij : i = j <;> by_cases hkj : k = j <;> simp_all

/-- The value of an entry of a table with a default after a write. -/
theorem tgetD_tputD {α : Type} [DecidableEq α] (t : Tbl α) (k j : Nat) (v d : α) : tgetD (tputD t k v d) j d = if k = j then v else tgetD t j d := by
  unfold tgetD tputD
  by_cases h : v = d
  · rw [if_pos h, tget_tdel]; by_cases hk : k = j <;> simp [hk, h]
  · rw [if_neg h, tget_tput]; by_cases hk : k = j <;> simp [hk]

@[simp] theorem tgetD_tputD_self {α : Type} [DecidableEq α] (t : Tbl α) (k : Nat) (v d : α) : tgetD (tputD t k v d) k d = v := by simp [tgetD_tputD]

theorem lget_lset {α : Type} (l : List α) (n m : Nat) (v : α) : lget (lset l n v) m = if n = m then (lget l m).map (fun _ => v) else lget l m := by
  induction l generalizing n m with
  | nil => simp [lset, lget]
  | cons a r ih =>
    cases n <;> cases m <;> simp [lset, lget, ih]

@[simp] theorem lget_lset_self {α : Type} (l : List α) (n : Nat) (v : α) : lget (lset l n v) n = (lget l n).map (fun _ => v) := by simp [lget_lset]

theorem lget_lset_ne {α : Type} (l : List α) {n m : Nat} (v : α) (h : n ≠ m) : lget (lset l n v) m = lget l m := by simp [lget_lset, h]

@[simp] theorem lset_lset {α : Type} (l : List α) (n : Nat) (v w : α) : lset (lset l n v) n w = lset l n w := by
  induction l generalizing n with
  | nil => rfl
  | cons a r ih => cases n <;> simp [lset, ih]

/-- Setting an element to what it holds leaves the list. -/
theorem lset_same {α : Type} {l : List α} {n : Nat} {v : α} (h : lget l n = some v) : lset l n v = l := by
  induction l generalizing n with
  | nil => rfl
  | cons a r ih =>
    cases n with
    | zero => simp_all [lget, lset]
    | succ n => simp only [lset]; rw [ih (by simpa [lget] using h)]

end Sys2Proof.Machine
end

