-- ==== Sys2Proof/Laws/Agent.lean ====
section
/-! SUPPORT. What running an instruction on a stream answers, what putting a group or a sequencer back leaves, and what a register reads as after a write. -/
namespace Sys2Proof.Machine

/-! ### Opening a stream -/

/-- What an opened control thread works on. -/
theorem openCtl_some {s : State} {k i : Nat} {cx : Cx} (h : openCtl s k i = some cx) :
    ∃ t iv, getTeam s k = some t ∧ getInv s t.inv = some iv ∧ lget t.groups i = some cx.g ∧ t.saved = false ∧ threadIssues cx.g.th = true ∧
      cx = { s := s, k := k, i := i, g := cx.g, vps := none, kn := iv.kernel, cn := iv.ctx } := by
  unfold openCtl invOf getGroup at h
  cases ht : getTeam s k with
  | none => simp [ht] at h
  | some t =>
    simp only [ht, Option.bind_some] at h
    cases hi : getInv s t.inv with
    | none => simp [hi] at h
    | some iv =>
      simp only [hi] at h
      cases hg : lget t.groups i with
      | none => simp [hg] at h
      | some g =>
        simp only [hg] at h
        split at h
        · next hc => obtain rfl := Option.some.inj h; exact ⟨t, iv, rfl, hi, hg, by simpa using hc.1, hc.2, rfl⟩
        · cases h

/-- What an opened batch works on. -/
theorem openBlk_some {s : State} {k i v : Nat} {cx : Cx} {bs : List Nat} {pc : Word} (h : openBlk s k i v = some (cx, bs, pc)) :
    ∃ t iv b, getTeam s k = some t ∧ getInv s t.inv = some iv ∧ lget t.groups i = some cx.g ∧ t.saved = false ∧ blockIssues cx.g.th = true ∧
      cx.g.block = some b ∧ bs = batchOf b v ∧ bs ≠ [] ∧ pc = ((tget b.vps v).map (·.pc)).getD 0 ∧
      cx = { s := s, k := k, i := i, g := cx.g, vps := some bs, kn := iv.kernel, cn := iv.ctx } := by
  unfold openBlk invOf getGroup at h
  cases ht : getTeam s k with
  | none => simp [ht] at h
  | some t =>
    simp only [ht, Option.bind_some] at h
    cases hi : getInv s t.inv with
    | none => simp [hi] at h
    | some iv =>
      simp only [hi] at h
      cases hg : lget t.groups i with
      | none => simp [hg] at h
      | some g =>
        simp only [hg] at h
        cases hb : g.block with
        | none => simp [hb] at h
        | some b =>
          simp only [hb] at h
          split at h
          · next hc =>
            injection h with h; injection h with h1 h2; injection h2 with h2 h3
            subst h1; subst h2
            exact ⟨t, iv, b, rfl, hi, hg, by simpa using hc.1, hc.2.1, hb, rfl, hc.2.2, h3.symm, rfl⟩
          · cases h

/-- What an opened sequencer works on. -/
theorem openSeq_some {s : State} {k : Nat} {sx : Sx} (h : openSeq s k = some sx) :
    ∃ t iv, getTeam s k = some t ∧ getInv s t.inv = some iv ∧ t.seq = some sx.q ∧ t.saved = false ∧ threadIssues sx.q.th = true ∧
      sx = { s := s, k := k, q := sx.q, kn := iv.kernel, cn := iv.ctx } := by
  unfold openSeq invOf getSeq at h
  cases ht : getTeam s k with
  | none => simp [ht] at h
  | some t =>
    simp only [ht, Option.bind_some] at h
    cases hi : getInv s t.inv with
    | none => simp [hi] at h
    | some iv =>
      simp only [hi] at h
      cases hg : t.seq with
      | none => simp [hg] at h
      | some q =>
        simp only [hg] at h
        split at h
        · next hc => obtain rfl := Option.some.inj h; exact ⟨t, iv, rfl, hi, hg, by simpa using hc.1, hc.2, rfl⟩
        · cases h

/-! ### Putting a group or a sequencer back -/

theorem getTeam_putGroup (s : State) (k i k' : Nat) (g : Group) :
    getTeam (putGroup s k i g) k' = if k = k' then (getTeam s k').map (fun t => { t with groups := lset t.groups i g }) else getTeam s k' := by
  simp [getTeam, tget_tmod]

theorem getGroup_putGroup_self {s : State} {k i : Nat} {g g' : Group} (h : getGroup s k i = some g) : getGroup (putGroup s k i g') k i = some g' := by
  unfold getGroup at *
  rw [getTeam_putGroup, if_pos rfl]
  cases ht : getTeam s k with
  | none => simp [ht] at h
  | some t => simp_all

theorem getGroup_putGroup_ne (s : State) {k i i' : Nat} (g : Group) (h : i' ≠ i) : getGroup (putGroup s k i g) k i' = getGroup s k i' := by
  unfold getGroup
  rw [getTeam_putGroup, if_pos rfl]
  cases getTeam s k with
  | none => rfl
  | some t => simp [lget_lset_ne _ _ (Ne.symm h)]

theorem getTeam_putSeq (s : State) (k k' : Nat) (q : Seq) :
    getTeam (putSeq s k q) k' = if k = k' then (getTeam s k').map (fun t => { t with seq := some q }) else getTeam s k' := by
  simp [getTeam, tget_tmod]

theorem getSeq_putSeq_self {s : State} {k : Nat} {q q' : Seq} (h : getSeq s k = some q) : getSeq (putSeq s k q') k = some q' := by
  unfold getSeq at *
  rw [getTeam_putSeq, if_pos rfl]
  cases ht : getTeam s k with
  | none => simp [ht] at h
  | some t => simp

/-! ### Running an instruction -/

/-- On a control thread. -/
theorem runInstr_ctl {s : State} {cx : Cx} {r : Rules} {i : Instr} {fc fb : Option (Cx → Out)} {fq : Option (Sx → SOut)}
    (hc : s.cur = some (.ctl cx.k cx.i)) (ho : openCtl s cx.k cx.i = some cx) :
    runInstr r i fc fb fq s =
      .next (finishCtl (encode i) (match fc with | some f => guardCtl r (encode i) f cx | none => illegalCtl cx (encode i))) := by
  unfold runInstr; cases fc <;> simp only [hc, ho]

/-- In a block. -/
theorem runInstr_blk {s : State} {cx : Cx} {v : Nat} {bs : List Nat} {pc : Word} {r : Rules} {i : Instr} {fc fb : Option (Cx → Out)}
    {fq : Option (Sx → SOut)} (hc : s.cur = some (.blk cx.k cx.i v)) (ho : openBlk s cx.k cx.i v = some (cx, bs, pc)) :
    runInstr r i fc fb fq s = .next (finishBlk pc bs (match fb with
      | some f => if featureOk s cx.cn r then f cx else illegal cx (encode i)
      | none => illegal cx (encode i))) := by
  unfold runInstr; cases fb <;> simp only [hc, ho]

/-- On a sequencer. -/
theorem runInstr_seq {s : State} {sx : Sx} {r : Rules} {i : Instr} {fc fb : Option (Cx → Out)} {fq : Option (Sx → SOut)}
    (hc : s.cur = some (.seq sx.k)) (ho : openSeq s sx.k = some sx) :
    runInstr r i fc fb fq s = .next (finishSeq (encode i) (match fq with
      | some f => if featureOk s sx.cn r then f sx else illegalSeq sx (encode i)
      | none => illegalSeq sx (encode i))) := by
  unfold runInstr; cases fq <;> simp only [hc, ho]

/-- An instruction permitted in a transaction that waits for no block and needs no feature reaches its meaning at once. -/
@[simp] theorem guardCtl_inTxn (w : IWord) (f : Cx → Out) (cx : Cx) : guardCtl { txn := true } w f cx = f cx := by
  simp [guardCtl, featureOk]

/-- With no transaction and no block in progress, only a missing feature keeps an instruction from its meaning. -/
theorem guardCtl_free {r : Rules} {w : IWord} {f : Cx → Out} {cx : Cx} (ht : cx.g.txn = none) (hb : cx.g.block = none)
    (hf : featureOk cx.s cx.cn r = true) : guardCtl r w f cx = f cx := by
  simp [guardCtl, ht, hb, hf]

/-! ### Registers and windows -/

/-- What a window that hides a register gives has these low 64 bits. -/
def HidesLow (r : RegId) (v : Nat) (ws : List Window) : Prop :=
  ∀ w ∈ ws, ∀ e ∈ w.hid, e.reg = r → e.old % 2 ^ 64 = v % 2 ^ 64 ∧ e.new % 2 ^ 64 = v % 2 ^ 64

theorem merge_mod (x mask v : Nat) : merge x mask v % 2 ^ 64 = merge (x % 2 ^ 64) (mask % 2 ^ 64) (v % 2 ^ 64) % 2 ^ 64 := by
  unfold merge; apply Nat.eq_of_testBit_eq; intro i
  simp only [Nat.testBit_mod_two_pow, Nat.testBit_xor, Nat.testBit_and]
  by_cases h : i < 64 <;> simp [h]

theorem merge_same (x mask v : Nat) (h : x % 2 ^ 64 = v % 2 ^ 64) : merge x mask v % 2 ^ 64 = v % 2 ^ 64 := by
  rw [merge_mod, h]; simp [merge]

theorem merge_ones (x v : Nat) : merge x allOnes v % 2 ^ 64 = v % 2 ^ 64 := by
  unfold merge allOnes; apply Nat.eq_of_testBit_eq; intro i
  simp only [Nat.testBit_mod_two_pow, Nat.testBit_xor, Nat.testBit_and, Nat.testBit_two_pow_sub_one]
  by_cases h : i < 64 <;> simp [h]

theorem hidesLow_poke_ones (ws : List Window) (r : RegId) (v : Nat) : HidesLow r v (poke ws r allOnes v) := by
  intro w hw e he hr
  simp only [poke, List.mem_map] at hw
  obtain ⟨w0, _, rfl⟩ := hw
  simp only [List.mem_map] at he
  obtain ⟨e0, _, rfl⟩ := he
  unfold pokeHidden at hr ⊢
  split at hr
  · next h => rw [if_pos h]; exact ⟨merge_ones _ _, merge_ones _ _⟩
  · next h => exact absurd hr h

theorem hidesLow_poke {ws : List Window} {r : RegId} {v : Nat} (h : HidesLow r v ws) (r' : RegId) (mask x : Nat)
    (hx : r' = r → x % 2 ^ 64 = v % 2 ^ 64) : HidesLow r v (poke ws r' mask x) := by
  intro w hw e he hr
  simp only [poke, List.mem_map] at hw
  obtain ⟨w0, hw0, rfl⟩ := hw
  simp only [List.mem_map] at he
  obtain ⟨e0, he0, rfl⟩ := he
  unfold pokeHidden at hr ⊢
  by_cases h' : e0.reg = r'
  · rw [if_pos h'] at hr ⊢
    obtain ⟨h1, h2⟩ := h w0 hw0 e0 he0 hr
    have hx' := hx (h'.symm.trans hr)
    exact ⟨by rw [merge_same _ _ _ (by rw [h1, hx'])]; exact hx', by rw [merge_same _ _ _ (by rw [h2, hx'])]; exact hx'⟩
  · rw [if_neg h'] at hr ⊢
    exact h w0 hw0 e0 he0 hr

theorem hidesLow_foldl_poke {r : RegId} {v : Nat} (hs : List Hidden) {ws : List Window} (h : HidesLow r v ws)
    (hn : ∀ e ∈ hs, e.reg = r → e.new % 2 ^ 64 = v % 2 ^ 64) : HidesLow r v (hs.foldl (fun ws e => poke ws e.reg e.mask e.new) ws) := by
  induction hs generalizing ws with
  | nil => exact h
  | cons e r' ih =>
    exact ih (hidesLow_poke h _ _ _ (hn e (List.mem_cons_self ..))) fun e' he' => hn e' (List.mem_cons_of_mem _ he')

theorem hidesLow_tick {r : RegId} {v : Nat} {ws : List Window} (h : HidesLow r v ws) : HidesLow r v (tickWindows ws) := by
  induction ws with
  | nil => exact h
  | cons w older ih =>
    have ho : HidesLow r v older := fun w' hw' => h w' (List.mem_cons_of_mem _ hw')
    simp only [tickWindows]
    split
    · exact hidesLow_foldl_poke _ (ih ho) fun e he hr => (h w (List.mem_cons_self ..) e he hr).2
    · intro w' hw' e he hr
      rcases List.mem_cons.1 hw' with hw' | hw'
      · subst hw'; exact h w (List.mem_cons_self ..) e he hr
      · exact ih ho w' hw' e he hr

theorem hide_low {r : RegId} {v : Nat} {ws : List Window} (h : HidesLow r v ws) {x : Nat} (hx : x % 2 ^ 64 = v % 2 ^ 64) : hide ws r x % 2 ^ 64 = v % 2 ^ 64 := by
  unfold hide
  induction ws generalizing x with
  | nil => exact hx
  | cons w older ih =>
    rw [List.foldl_cons]
    refine ih (fun w' hw' => h w' (List.mem_cons_of_mem _ hw')) ?_
    split
    · next e he =>
      have ho := (h w (List.mem_cons_self ..) e (List.mem_of_find?_eq_some he) (by simpa using List.find?_some he)).1
      rw [merge_same _ _ _ (hx.trans ho.symm), ho]
    · exact hx

/-- What register n holds after a write of register d. -/
theorem rawX_writeX (th : Thread) (d n : Nat) (v : Word) : rawX (writeX th d v) n = if d ≠ 0 ∧ d = n then v else rawX th n := by
  unfold writeX rawX
  by_cases hd : d = 0
  · simp [hd]
  · simp [hd, tgetD_tputD]

/-- What register n holds after a write of register d under lookahead. -/
theorem rawX_writeXla (th : Thread) (d n : Nat) (v : Word) (la : Nat) : rawX (writeXla th d v la).1 n = if d ≠ 0 ∧ d = n then v else rawX th n := by
  unfold writeXla
  split
  · exact rawX_writeX ..
  · split
    · next h => simp [h]
    · next h => simp [rawX, h, tgetD_tputD]

/-- A thread that holds in register `d` what was just written there, with the windows of that write one instruction on, reads it (R247). -/
theorem readX_written {th th' : Thread} {d : Nat} {v : Word} (hd : d ≠ 0) (hw : th'.wins = tickWindows (writeX th d v).wins)
    (hx : th'.x = (writeX th d v).x) : readX th' d = v := by
  unfold readX
  rw [if_neg hd, hw]
  have hr : rawX th' d = v := by rw [rawX, hx]; have := rawX_writeX th d d v; simpa [rawX, hd] using this
  rw [hr]
  have hp : HidesLow (.x d) v.toNat (writeX th d v).wins := by
    unfold writeX; rw [if_neg hd]; exact hidesLow_poke_ones th.wins (.x d) v.toNat
  have := hide_low (hidesLow_tick hp) (x := v.toNat) rfl
  apply BitVec.eq_of_toNat_eq
  rw [BitVec.toNat_ofNat, this]; exact Nat.mod_eq_of_lt v.isLt

/-! ### Waits set aside, transactions of a block's group, commands held back -/

/-- A thread whose trap or fault is resolved: all of it stands but where it goes back to (R120). -/
theorem resumeThread_eq (a : Nat) (th : Thread) : resumeThread a th = { th with run := resumedRun a th, park := .none, inBlock := none, aside := none } := rfl

/-- With no wait set aside a group goes back to READY, a sequencer to RUNNING. -/
@[simp] theorem resumedRun_none {a : Nat} {th : Thread} (h : th.aside = none) : resumedRun a th = if a = 16 then .running else .ready := by unfold resumedRun; rw [h]

/-- Outside PARKED-FAULT a thread waits for what it stands in. -/
@[simp] theorem waitOf_run {th : Thread} (h : th.run ≠ .parkedFault) : waitOf th = th.run := if_neg h

/-- Only a block's trap or fault sets a wait of the control thread aside. -/
@[simp] theorem setAside_none {th : Thread} (h : th.run ≠ .parkedFault) : setAside th none = none := by
  unfold setAside; split <;> first | rfl | exact absurd ‹_› h

/-- What a block's accesses leave of its group: as it was, or its transaction aborted by a conflict (R189). -/
theorem settleTxn_cases (cx : Cx) : settleTxn cx = cx ∨ cx.g.txn.isSome = true ∧ settleTxn cx = { cx with g := abortTxn cx.g 1 0 } := by
  unfold settleTxn; split
  · split
    · next h => exact .inr ⟨h.2, rfl⟩
    · exact .inl rfl
  · exact .inl rfl

/-- With no transaction open nothing is settled. -/
@[simp] theorem settleTxn_free {cx : Cx} (h : cx.g.txn = none) : settleTxn cx = cx := by
  rcases settleTxn_cases cx with e | ⟨e, -⟩
  · exact e
  · rw [h] at e; cases e

/-- A command that waits changes no more than its page, and HSTAT of its context (R60). -/
theorem holdBack_frame (s : State) (fn cn : Nat) (c : Command) : { holdBack s fn cn c with pages := s.pages, ctxs := s.ctxs } = s := by
  unfold holdBack; split
  · rfl
  · unfold putBusy; cases c.reg <;> rfl

/-- Commands that begin again change no more than the pages, HSTAT of their context and the turns to come (R60). -/
theorem freeHeld_frame (s : State) (cn : Nat) : { freeHeld s cn with pages := s.pages, ctxs := s.ctxs, agenda := s.agenda } = s := by
  have hb : ∀ (fn : Nat) (l : List HeldCmd) (t : State), { l.foldl (fun s h => putBusy s fn cn h.cmd.reg false) t with pages := s.pages, ctxs := s.ctxs, agenda := s.agenda } =
      { t with pages := s.pages, ctxs := s.ctxs, agenda := s.agenda } := by
    intro fn l
    induction l with
    | nil => intro t; rfl
    | cons h r ih => intro t; rw [List.foldl_cons, ih]; unfold putBusy; cases h.cmd.reg <;> rfl
  have hp : ∀ (l : List (Nat × Page)) (t : State), { t with pages := s.pages, ctxs := s.ctxs, agenda := s.agenda } = s →
      { l.foldl (fun s e =>
          let l := e.2.held.filter fun h => decide (h.ctx = cn)
          let s1 := l.foldl (fun s h => putBusy s e.1 cn h.cmd.reg false) (modPage s e.1 fun p => { p with held := p.held.filter fun h => decide (h.ctx ≠ cn) })
          { s1 with agenda := l.map (fun h => .command e.1 cn h.cmd) ++ s1.agenda }) t with pages := s.pages, ctxs := s.ctxs, agenda := s.agenda } = s := by
    intro l
    induction l with
    | nil => intro t h; exact h
    | cons e r ih => intro t h; rw [List.foldl_cons]; exact ih _ ((hb e.1 _ _).trans h)
  exact hp s.pages s rfl

end Sys2Proof.Machine
end

