-- ==== Sys2Proof/Laws/Dispatch.lean ====
section
/-! SUPPORT. Dispatch, one equation per instruction: `exec` of a constructor is its meaning. -/
namespace Sys2Proof.Machine

@[simp] theorem exec_nop (s) : exec (.nop) s = execNop s := rfl
@[simp] theorem exec_trap (c s) : exec (.trap c) s = execTrap c s := rfl
@[simp] theorem exec_eret (s) : exec (.eret) s = execEret s := rfl
@[simp] theorem exec_yield (s) : exec (.yield) s = execYield s := rfl
@[simp] theorem exec_clock (d s) : exec (.clock d) s = execClock d s := rfl
@[simp] theorem exec_bra (o s) : exec (.bra o) s = execBra o s := rfl
@[simp] theorem exec_bp (c o s) : exec (.bp c o) s = execBp c o s := rfl
@[simp] theorem exec_bnp (c o s) : exec (.bnp c o) s = execBnp c o s := rfl
@[simp] theorem exec_loop (c o s) : exec (.loop c o) s = execLoop c o s := rfl
@[simp] theorem exec_jmp (o s) : exec (.jmp o) s = execJmp o s := rfl
@[simp] theorem exec_call (o s) : exec (.call o) s = execCall o s := rfl
@[simp] theorem exec_jr (a s) : exec (.jr a) s = execJr a s := rfl
@[simp] theorem exec_callr (d a s) : exec (.callr d a) s = execCallr d a s := rfl
@[simp] theorem exec_ret (s) : exec (.ret) s = execRet s := rfl
@[simp] theorem exec_add (d a b s) : exec (.add d a b) s = execAdd d a b s := rfl
@[simp] theorem exec_sub (d a b s) : exec (.sub d a b) s = execSub d a b s := rfl
@[simp] theorem exec_and (d a b s) : exec (.and d a b) s = execAnd d a b s := rfl
@[simp] theorem exec_or (d a b s) : exec (.or d a b) s = execOr d a b s := rfl
@[simp] theorem exec_xor (d a b s) : exec (.xor d a b) s = execXor d a b s := rfl
@[simp] theorem exec_andn (d a b s) : exec (.andn d a b) s = execAndn d a b s := rfl
@[simp] theorem exec_sll (d a b s) : exec (.sll d a b) s = execSll d a b s := rfl
@[simp] theorem exec_srl (d a b s) : exec (.srl d a b) s = execSrl d a b s := rfl
@[simp] theorem exec_sra (d a b s) : exec (.sra d a b) s = execSra d a b s := rfl
@[simp] theorem exec_slt (d a b s) : exec (.slt d a b) s = execSlt d a b s := rfl
@[simp] theorem exec_sltu (d a b s) : exec (.sltu d a b) s = execSltu d a b s := rfl
@[simp] theorem exec_min (d a b s) : exec (.min d a b) s = execMin d a b s := rfl
@[simp] theorem exec_max (d a b s) : exec (.max d a b) s = execMax d a b s := rfl
@[simp] theorem exec_minu (d a b s) : exec (.minu d a b) s = execMinu d a b s := rfl
@[simp] theorem exec_maxu (d a b s) : exec (.maxu d a b) s = execMaxu d a b s := rfl
@[simp] theorem exec_popc (d a s) : exec (.popc d a) s = execPopc d a s := rfl
@[simp] theorem exec_clz (d a s) : exec (.clz d a) s = execClz d a s := rfl
@[simp] theorem exec_ctz (d a s) : exec (.ctz d a) s = execCtz d a s := rfl
@[simp] theorem exec_brev (d a s) : exec (.brev d a) s = execBrev d a s := rfl
@[simp] theorem exec_addi (d a f_i s) : exec (.addi d a f_i) s = execAddi d a f_i s := rfl
@[simp] theorem exec_andi (d a f_i s) : exec (.andi d a f_i) s = execAndi d a f_i s := rfl
@[simp] theorem exec_ori (d a f_i s) : exec (.ori d a f_i) s = execOri d a f_i s := rfl
@[simp] theorem exec_xori (d a f_i s) : exec (.xori d a f_i) s = execXori d a f_i s := rfl
@[simp] theorem exec_slti (d a f_i s) : exec (.slti d a f_i) s = execSlti d a f_i s := rfl
@[simp] theorem exec_slli (d a n s) : exec (.slli d a n) s = execSlli d a n s := rfl
@[simp] theorem exec_srli (d a n s) : exec (.srli d a n) s = execSrli d a n s := rfl
@[simp] theorem exec_srai (d a n s) : exec (.srai d a n) s = execSrai d a n s := rfl
@[simp] theorem exec_ldhi (d f_i s) : exec (.ldhi d f_i) s = execLdhi d f_i s := rfl
@[simp] theorem exec_addpc (d f_i s) : exec (.addpc d f_i) s = execAddpc d f_i s := rfl
@[simp] theorem exec_mul (d a b l s) : exec (.mul d a b l) s = execMul d a b l s := rfl
@[simp] theorem exec_mulh (d a b l s) : exec (.mulh d a b l) s = execMulh d a b l s := rfl
@[simp] theorem exec_mulhu (d a b l s) : exec (.mulhu d a b l) s = execMulhu d a b l s := rfl
@[simp] theorem exec_div (d a b l s) : exec (.div d a b l) s = execDiv d a b l s := rfl
@[simp] theorem exec_divu (d a b l s) : exec (.divu d a b l) s = execDivu d a b l s := rfl
@[simp] theorem exec_rem (d a b l s) : exec (.rem d a b l) s = execRem d a b l s := rfl
@[simp] theorem exec_remu (d a b l s) : exec (.remu d a b l) s = execRemu d a b l s := rfl
@[simp] theorem exec_ldb (d a f_i l s) : exec (.ldb d a f_i l) s = execLdb d a f_i l s := rfl
@[simp] theorem exec_ldbu (d a f_i l s) : exec (.ldbu d a f_i l) s = execLdbu d a f_i l s := rfl
@[simp] theorem exec_ldh (d a f_i l s) : exec (.ldh d a f_i l) s = execLdh d a f_i l s := rfl
@[simp] theorem exec_ldhu (d a f_i l s) : exec (.ldhu d a f_i l) s = execLdhu d a f_i l s := rfl
@[simp] theorem exec_ldw (d a f_i l s) : exec (.ldw d a f_i l) s = execLdw d a f_i l s := rfl
@[simp] theorem exec_ldwu (d a f_i l s) : exec (.ldwu d a f_i l) s = execLdwu d a f_i l s := rfl
@[simp] theorem exec_ldd (d a f_i l s) : exec (.ldd d a f_i l) s = execLdd d a f_i l s := rfl
@[simp] theorem exec_stb (d a f_i s) : exec (.stb d a f_i) s = execStb d a f_i s := rfl
@[simp] theorem exec_sth (d a f_i s) : exec (.sth d a f_i) s = execSth d a f_i s := rfl
@[simp] theorem exec_stw (d a f_i s) : exec (.stw d a f_i) s = execStw d a f_i s := rfl
@[simp] theorem exec_std (d a f_i s) : exec (.std d a f_i) s = execStd d a f_i s := rfl
@[simp] theorem exec_atom (d a z o p l s) : exec (.atom d a z o p l) s = execAtom d a z o p l s := rfl
@[simp] theorem exec_cas (d a z o l s) : exec (.cas d a z o l) s = execCas d a z o l s := rfl
@[simp] theorem exec_pcmp (p a b c s) : exec (.pcmp p a b c) s = execPcmp p a b c s := rfl
@[simp] theorem exec_pcmpi (p a f_i c s) : exec (.pcmpi p a f_i c) s = execPcmpi p a f_i c s := rfl
@[simp] theorem exec_pand (d a b s) : exec (.pand d a b) s = execPand d a b s := rfl
@[simp] theorem exec_por (d a b s) : exec (.por d a b) s = execPor d a b s := rfl
@[simp] theorem exec_pxor (d a b s) : exec (.pxor d a b) s = execPxor d a b s := rfl
@[simp] theorem exec_pnot (d a s) : exec (.pnot d a) s = execPnot d a s := rfl
@[simp] theorem exec_pmov (d a s) : exec (.pmov d a) s = execPmov d a s := rfl
@[simp] theorem exec_pany (d a s) : exec (.pany d a) s = execPany d a s := rfl
@[simp] theorem exec_pall (d a s) : exec (.pall d a) s = execPall d a s := rfl
@[simp] theorem exec_fadd (d a b f s) : exec (.fadd d a b f) s = execFadd d a b f s := rfl
@[simp] theorem exec_fmul (d a b f s) : exec (.fmul d a b f) s = execFmul d a b f s := rfl
@[simp] theorem exec_ffma (d a b f s) : exec (.ffma d a b f) s = execFfma d a b f s := rfl
@[simp] theorem exec_fcvt (d a f_s r t s) : exec (.fcvt d a f_s r t) s = execFcvt d a f_s r t s := rfl
@[simp] theorem exec_fcvtUns (d a f_s r t s) : exec (.fcvtUns d a f_s r t) s = execFcvtUns d a f_s r t s := rfl
@[simp] theorem exec_csrr (d c s) : exec (.csrr d c) s = execCsrr d c s := rfl
@[simp] theorem exec_csrw (d a c s) : exec (.csrw d a c) s = execCsrw d a c s := rfl
@[simp] theorem exec_csrs (d a c s) : exec (.csrs d a c) s = execCsrs d a c s := rfl
@[simp] theorem exec_csrc (d a c s) : exec (.csrc d a c) s = execCsrc d a c s := rfl
@[simp] theorem exec_vcfg (n g s) : exec (.vcfg n g) s = execVcfg n g s := rfl
@[simp] theorem exec_vsetvl (d a s) : exec (.vsetvl d a) s = execVsetvl d a s := rfl
@[simp] theorem exec_vsetvli (d f_i s) : exec (.vsetvli d f_i) s = execVsetvli d f_i s := rfl
@[simp] theorem exec_vadd (d a b f_s s) : exec (.vadd d a b f_s) s = execVadd d a b f_s s := rfl
@[simp] theorem exec_vaddi (d a f_i s) : exec (.vaddi d a f_i) s = execVaddi d a f_i s := rfl
@[simp] theorem exec_vsub (d a b f_s s) : exec (.vsub d a b f_s) s = execVsub d a b f_s s := rfl
@[simp] theorem exec_vmul (d a b f_s s) : exec (.vmul d a b f_s) s = execVmul d a b f_s s := rfl
@[simp] theorem exec_vmulh (d a b f_s s) : exec (.vmulh d a b f_s) s = execVmulh d a b f_s s := rfl
@[simp] theorem exec_vand (d a b f_s s) : exec (.vand d a b f_s) s = execVand d a b f_s s := rfl
@[simp] theorem exec_vor (d a b f_s s) : exec (.vor d a b f_s) s = execVor d a b f_s s := rfl
@[simp] theorem exec_vxor (d a b f_s s) : exec (.vxor d a b f_s) s = execVxor d a b f_s s := rfl
@[simp] theorem exec_vsll (d a b f_s s) : exec (.vsll d a b f_s) s = execVsll d a b f_s s := rfl
@[simp] theorem exec_vsrl (d a b f_s s) : exec (.vsrl d a b f_s) s = execVsrl d a b f_s s := rfl
@[simp] theorem exec_vsra (d a b f_s s) : exec (.vsra d a b f_s) s = execVsra d a b f_s s := rfl
@[simp] theorem exec_vmin (d a b f_s s) : exec (.vmin d a b f_s) s = execVmin d a b f_s s := rfl
@[simp] theorem exec_vmax (d a b f_s s) : exec (.vmax d a b f_s) s = execVmax d a b f_s s := rfl
@[simp] theorem exec_vminu (d a b f_s s) : exec (.vminu d a b f_s) s = execVminu d a b f_s s := rfl
@[simp] theorem exec_vmaxu (d a b f_s s) : exec (.vmaxu d a b f_s) s = execVmaxu d a b f_s s := rfl
@[simp] theorem exec_vsel (d a b s) : exec (.vsel d a b) s = execVsel d a b s := rfl
@[simp] theorem exec_vbcs (d a s) : exec (.vbcs d a) s = execVbcs d a s := rfl
@[simp] theorem exec_vid (d s) : exec (.vid d) s = execVid d s := rfl
@[simp] theorem exec_vpopc (d a s) : exec (.vpopc d a) s = execVpopc d a s := rfl
@[simp] theorem exec_vfadd (d a b f_s s) : exec (.vfadd d a b f_s) s = execVfadd d a b f_s s := rfl
@[simp] theorem exec_vfsub (d a b f_s s) : exec (.vfsub d a b f_s) s = execVfsub d a b f_s s := rfl
@[simp] theorem exec_vfmul (d a b f_s s) : exec (.vfmul d a b f_s) s = execVfmul d a b f_s s := rfl
@[simp] theorem exec_vffma (d a b f_s s) : exec (.vffma d a b f_s) s = execVffma d a b f_s s := rfl
@[simp] theorem exec_vfmin (d a b f_s s) : exec (.vfmin d a b f_s) s = execVfmin d a b f_s s := rfl
@[simp] theorem exec_vfmax (d a b f_s s) : exec (.vfmax d a b f_s) s = execVfmax d a b f_s s := rfl
@[simp] theorem exec_vfsgn (d a b f_s s) : exec (.vfsgn d a b f_s) s = execVfsgn d a b f_s s := rfl
@[simp] theorem exec_vfsgnN (d a b f_s s) : exec (.vfsgnN d a b f_s) s = execVfsgnN d a b f_s s := rfl
@[simp] theorem exec_vfsgnX (d a b f_s s) : exec (.vfsgnX d a b f_s) s = execVfsgnX d a b f_s s := rfl
@[simp] theorem exec_vfdiv (d a b l s) : exec (.vfdiv d a b l) s = execVfdiv d a b l s := rfl
@[simp] theorem exec_vfsqrt (d a l s) : exec (.vfsqrt d a l) s = execVfsqrt d a l s := rfl
@[simp] theorem exec_vfunRcp (d a l s) : exec (.vfunRcp d a l) s = execVfunRcp d a l s := rfl
@[simp] theorem exec_vfunRsq (d a l s) : exec (.vfunRsq d a l) s = execVfunRsq d a l s := rfl
@[simp] theorem exec_vfunExp2 (d a l s) : exec (.vfunExp2 d a l) s = execVfunExp2 d a l s := rfl
@[simp] theorem exec_vfunLog2 (d a l s) : exec (.vfunLog2 d a l) s = execVfunLog2 d a l s := rfl
@[simp] theorem exec_vfunSin (d a l s) : exec (.vfunSin d a l) s = execVfunSin d a l s := rfl
@[simp] theorem exec_vfunCos (d a l s) : exec (.vfunCos d a l) s = execVfunCos d a l s := rfl
@[simp] theorem exec_vcvt (d a t m f_s u s) : exec (.vcvt d a t m f_s u) s = execVcvt d a t m f_s u s := rfl
@[simp] theorem exec_vnarw (d a t m f_s u s) : exec (.vnarw d a t m f_s u) s = execVnarw d a t m f_s u s := rfl
@[simp] theorem exec_vwide (d a t u s) : exec (.vwide d a t u) s = execVwide d a t u s := rfl
@[simp] theorem exec_vbscl (d a b m f_s s) : exec (.vbscl d a b m f_s) s = execVbscl d a b m f_s s := rfl
@[simp] theorem exec_vquant (d a b m f_s s) : exec (.vquant d a b m f_s) s = execVquant d a b m f_s s := rfl
@[simp] theorem exec_vcmp (p a b f_s c s) : exec (.vcmp p a b f_s c) s = execVcmp p a b f_s c s := rfl
@[simp] theorem exec_vfcmp (p a b f_s c s) : exec (.vfcmp p a b f_s c) s = execVfcmp p a b f_s c s := rfl
@[simp] theorem exec_vclass (p a m s) : exec (.vclass p a m) s = execVclass p a m s := rfl
@[simp] theorem exec_vslup (d a b s) : exec (.vslup d a b) s = execVslup d a b s := rfl
@[simp] theorem exec_vsldn (d a b s) : exec (.vsldn d a b) s = execVsldn d a b s := rfl
@[simp] theorem exec_vrgath (d a b s) : exec (.vrgath d a b) s = execVrgath d a b s := rfl
@[simp] theorem exec_vcompr (d a b s) : exec (.vcompr d a b) s = execVcompr d a b s := rfl
@[simp] theorem exec_vexpnd (d a s) : exec (.vexpnd d a) s = execVexpnd d a s := rfl
@[simp] theorem exec_vbcast (d a b s) : exec (.vbcast d a b) s = execVbcast d a b s := rfl
@[simp] theorem exec_vextr (d a b s) : exec (.vextr d a b) s = execVextr d a b s := rfl
@[simp] theorem exec_vins (d a b s) : exec (.vins d a b) s = execVins d a b s := rfl
@[simp] theorem exec_vredsum (d a b s) : exec (.vredsum d a b) s = execVredsum d a b s := rfl
@[simp] theorem exec_vredmin (d a b s) : exec (.vredmin d a b) s = execVredmin d a b s := rfl
@[simp] theorem exec_vredmax (d a b s) : exec (.vredmax d a b) s = execVredmax d a b s := rfl
@[simp] theorem exec_vredminU (d a b s) : exec (.vredminU d a b) s = execVredminU d a b s := rfl
@[simp] theorem exec_vredmaxU (d a b s) : exec (.vredmaxU d a b) s = execVredmaxU d a b s := rfl
@[simp] theorem exec_vredlogAnd (d a b s) : exec (.vredlogAnd d a b) s = execVredlogAnd d a b s := rfl
@[simp] theorem exec_vredlogOr (d a b s) : exec (.vredlogOr d a b) s = execVredlogOr d a b s := rfl
@[simp] theorem exec_vredlogXor (d a b s) : exec (.vredlogXor d a b) s = execVredlogXor d a b s := rfl
@[simp] theorem exec_vfredsum (d a b s) : exec (.vfredsum d a b) s = execVfredsum d a b s := rfl
@[simp] theorem exec_vfredmax (d a b s) : exec (.vfredmax d a b) s = execVfredmax d a b s := rfl
@[simp] theorem exec_vld (d a b f_i l s) : exec (.vld d a b f_i l) s = execVld d a b f_i l s := rfl
@[simp] theorem exec_vlds (d a f_i l s) : exec (.vlds d a f_i l) s = execVlds d a f_i l s := rfl
@[simp] theorem exec_vst (d a b f_i s) : exec (.vst d a b f_i) s = execVst d a b f_i s := rfl
@[simp] theorem exec_vsts (d a f_i s) : exec (.vsts d a f_i) s = execVsts d a f_i s := rfl
@[simp] theorem exec_vldx (d a b l s) : exec (.vldx d a b l) s = execVldx d a b l s := rfl
@[simp] theorem exec_vldxSx (d a b l s) : exec (.vldxSx d a b l) s = execVldxSx d a b l s := rfl
@[simp] theorem exec_vstx (d a b s) : exec (.vstx d a b) s = execVstx d a b s := rfl
@[simp] theorem exec_vstxSx (d a b s) : exec (.vstxSx d a b) s = execVstxSx d a b s := rfl
@[simp] theorem exec_vamo (d b o p l s) : exec (.vamo d b o p l) s = execVamo d b o p l s := rfl
@[simp] theorem exec_vredm (d b o p s) : exec (.vredm d b o p) s = execVredm d b o p s := rfl
@[simp] theorem exec_vcas (d b o l s) : exec (.vcas d b o l) s = execVcas d b o l s := rfl
@[simp] theorem exec_waitm (p a b z c t s) : exec (.waitm p a b z c t) s = execWaitm p a b z c t s := rfl
@[simp] theorem exec_vwaitm (p a b c t s) : exec (.vwaitm p a b c t) s = execVwaitm p a b c t s := rfl
@[simp] theorem exec_vf (o s) : exec (.vf o) s = execVf o s := rfl
@[simp] theorem exec_vbr (p o s) : exec (.vbr p o) s = execVbr p o s := rfl
@[simp] theorem exec_vjr (v s) : exec (.vjr v) s = execVjr v s := rfl
@[simp] theorem exec_vjoin (s) : exec (.vjoin) s = execVjoin s := rfl
@[simp] theorem exec_vstop (s) : exec (.vstop) s = execVstop s := rfl
@[simp] theorem exec_vsync (s) : exec (.vsync) s = execVsync s := rfl
@[simp] theorem exec_gmma (d a b f l s) : exec (.gmma d a b f l) s = execGmma d a b f l s := rfl
@[simp] theorem exec_gmmas (d a b f l s) : exec (.gmmas d a b f l) s = execGmmas d a b f l s := rfl
@[simp] theorem exec_tset (k s) : exec (.tset k) s = execTset k s := rfl
@[simp] theorem exec_tsetM (k s) : exec (.tsetM k) s = execTsetM k s := rfl
@[simp] theorem exec_tget (k c s) : exec (.tget k c) s = execTget k c s := rfl
@[simp] theorem exec_trec (k m s) : exec (.trec k m) s = execTrec k m s := rfl
@[simp] theorem exec_tmm (c a b w l s) : exec (.tmm c a b w l) s = execTmm c a b w l s := rfl
@[simp] theorem exec_tmms (c a b w l s) : exec (.tmms c a b w l) s = execTmms c a b w l s := rfl
@[simp] theorem exec_tld (m t k f_s l s) : exec (.tld m t k f_s l) s = execTld m t k f_s l s := rfl
@[simp] theorem exec_tst (m t k c l s) : exec (.tst m t k c l) s = execTst m t k c l s := rfl
@[simp] theorem exec_tstC (m t k c l s) : exec (.tstC m t k c l) s = execTstC m t k c l s := rfl
@[simp] theorem exec_tzero (c w l s) : exec (.tzero c w l) s = execTzero c w l s := rfl
@[simp] theorem exec_tsave (c m w l s) : exec (.tsave c m w l) s = execTsave c m w l s := rfl
@[simp] theorem exec_trestore (c m w l s) : exec (.trestore c m w l) s = execTrestore c m w l s := rfl
@[simp] theorem exec_tcvt (c m w l s) : exec (.tcvt c m w l) s = execTcvt c m w l s := rfl
@[simp] theorem exec_tcvtC (c m w l s) : exec (.tcvtC c m w l) s = execTcvtC c m w l s := rfl
@[simp] theorem exec_scfg (v a q f_i s) : exec (.scfg v a q f_i) s = execScfg v a q f_i s := rfl
@[simp] theorem exec_smc (v a q f_i s) : exec (.smc v a q f_i) s = execSmc v a q f_i s := rfl
@[simp] theorem exec_srel (q s) : exec (.srel q) s = execSrel q s := rfl
@[simp] theorem exec_sdrain (q s) : exec (.sdrain q) s = execSdrain q s := rfl
@[simp] theorem exec_cpy (d a b t s) : exec (.cpy d a b t) s = execCpy d a b t s := rfl
@[simp] theorem exec_twait (w s) : exec (.twait w) s = execTwait w s := rfl
@[simp] theorem exec_tpoll (d w s) : exec (.tpoll d w) s = execTpoll d w s := rfl
@[simp] theorem exec_binit (b r s) : exec (.binit b r) s = execBinit b r s := rfl
@[simp] theorem exec_barv (b r s) : exec (.barv b r) s = execBarv b r s := rfl
@[simp] theorem exec_bwait (b r s) : exec (.bwait b r) s = execBwait b r s := rfl
@[simp] theorem exec_bsync (b s) : exec (.bsync b) s = execBsync b s := rfl
@[simp] theorem exec_bsig (b r s) : exec (.bsig b r) s = execBsig b r s := rfl
@[simp] theorem exec_qpush (d a q l s) : exec (.qpush d a q l) s = execQpush d a q l s := rfl
@[simp] theorem exec_qpop (d a q l s) : exec (.qpop d a q l) s = execQpop d a q l s := rfl
@[simp] theorem exec_spawn (d a q l s) : exec (.spawn d a q l) s = execSpawn d a q l s := rfl
@[simp] theorem exec_qsteal (d a q l s) : exec (.qsteal d a q l) s = execQsteal d a q l s := rfl
@[simp] theorem exec_launch (d a l s) : exec (.launch d a l) s = execLaunch d a l s := rfl
@[simp] theorem exec_launchT (d a l s) : exec (.launchT d a l) s = execLaunchT d a l s := rfl
@[simp] theorem exec_qinfo (d q l s) : exec (.qinfo d q l) s = execQinfo d q l s := rfl
@[simp] theorem exec_hld (h a f_i l s) : exec (.hld h a f_i l) s = execHld h a f_i l s := rfl
@[simp] theorem exec_hst (h a f_i s) : exec (.hst h a f_i) s = execHst h a f_i s := rfl
@[simp] theorem exec_hldd (d a f_i l s) : exec (.hldd d a f_i l) s = execHldd d a f_i l s := rfl
@[simp] theorem exec_hstd (f_s a f_i s) : exec (.hstd f_s a f_i) s = execHstd f_s a f_i s := rfl
@[simp] theorem exec_halloc (f_s h l s) : exec (.halloc f_s h l) s = execHalloc f_s h l s := rfl
@[simp] theorem exec_hpin (d h l s) : exec (.hpin d h l) s = execHpin d h l s := rfl
@[simp] theorem exec_hunpin (f_s s) : exec (.hunpin f_s) s = execHunpin f_s s := rfl
@[simp] theorem exec_hcmp (d a b l s) : exec (.hcmp d a b l) s = execHcmp d a b l s := rfl
@[simp] theorem exec_vhld (v b f_i l s) : exec (.vhld v b f_i l) s = execVhld v b f_i l s := rfl
@[simp] theorem exec_vhldd (v b f_i l s) : exec (.vhldd v b f_i l) s = execVhldd v b f_i l s := rfl
@[simp] theorem exec_vhstd (v b f_i s) : exec (.vhstd v b f_i) s = execVhstd v b f_i s := rfl
@[simp] theorem exec_msend (v a s) : exec (.msend v a) s = execMsend v a s := rfl
@[simp] theorem exec_wquiet (a s) : exec (.wquiet a) s = execWquiet a s := rfl
@[simp] theorem exec_mcount (d a s) : exec (.mcount d a) s = execMcount d a s := rfl
@[simp] theorem exec_splk (d a s) : exec (.splk d a) s = execSplk d a s := rfl
@[simp] theorem exec_spins (d a b s) : exec (.spins d a b) s = execSpins d a b s := rfl
@[simp] theorem exec_spinv (a s) : exec (.spinv a) s = execSpinv a s := rfl
@[simp] theorem exec_spinvAll (s) : exec (.spinvAll) s = execSpinvAll s := rfl
@[simp] theorem exec_txb (o s) : exec (.txb o) s = execTxb o s := rfl
@[simp] theorem exec_txe (s) : exec (.txe) s = execTxe s := rfl
@[simp] theorem exec_txa (c s) : exec (.txa c) s = execTxa c s := rfl
@[simp] theorem exec_fence (o s) : exec (.fence o) s = execFence o s := rfl
@[simp] theorem exec_icsync (f_s s) : exec (.icsync f_s) s = execIcsync f_s s := rfl
@[simp] theorem exec_prefi (a s) : exec (.prefi a) s = execPrefi a s := rfl
@[simp] theorem exec_sigchk (v s) : exec (.sigchk v) s = execSigchk v s := rfl
@[simp] theorem exec_brk (c s) : exec (.brk c) s = execBrk c s := rfl
@[simp] theorem exec_extensionOpcode (m d a b f s) : exec (.extensionOpcode m d a b f) s = execExtensionOpcode m d a b f s := rfl
@[simp] theorem exec_hintPrefd (p a s) : exec (.hintPrefd p a) s = execHintPrefd p a s := rfl
@[simp] theorem exec_hintBrlikely (a s) : exec (.hintBrlikely a) s = execHintBrlikely a s := rfl
@[simp] theorem exec_hint (p k a s) : exec (.hint p k a) s = execHint p k a s := rfl
@[simp] theorem exec_illegalInstruction (w s) : exec (.illegalInstruction w) s = execIllegalInstruction w s := rfl
@[simp] theorem exec_priResponse (ctx n ok s) : exec (.priResponse ctx n ok) s = execPriResponse ctx n ok s := rfl
@[simp] theorem exec_trapFrameWrite (team agent s) : exec (.trapFrameWrite team agent) s = execTrapFrameWrite team agent s := rfl
@[simp] theorem exec_faultEntryDeferredWrite (ctx s) : exec (.faultEntryDeferredWrite ctx) s = execFaultEntryDeferredWrite ctx s := rfl
@[simp] theorem exec_create (fn ctx s) : exec (.create fn ctx) s = execCreate fn ctx s := rfl
@[simp] theorem exec_negotiate (fn ctx s) : exec (.negotiate fn ctx) s = execNegotiate fn ctx s := rfl
@[simp] theorem exec_load (fn ctx s) : exec (.load fn ctx) s = execLoad fn ctx s := rfl
@[simp] theorem exec_unload (fn ctx s) : exec (.unload fn ctx) s = execUnload fn ctx s := rfl
@[simp] theorem exec_start (fn ctx s) : exec (.start fn ctx) s = execStart fn ctx s := rfl
@[simp] theorem exec_suspend (fn ctx s) : exec (.suspend fn ctx) s = execSuspend fn ctx s := rfl
@[simp] theorem exec_suspendComplete (ctx s) : exec (.suspendComplete ctx) s = execSuspendComplete ctx s := rfl
@[simp] theorem exec_resume (fn ctx s) : exec (.resume fn ctx) s = execResume fn ctx s := rfl
@[simp] theorem exec_kill (fn ctx s) : exec (.kill fn ctx) s = execKill fn ctx s := rfl
@[simp] theorem exec_killSequenceComplete (ctx s) : exec (.killSequenceComplete ctx) s = execKillSequenceComplete ctx s := rfl
@[simp] theorem exec_release (fn ctx s) : exec (.release fn ctx) s = execRelease fn ctx s := rfl
@[simp] theorem exec_query (fn ctx s) : exec (.query fn ctx) s = execQuery fn ctx s := rfl
@[simp] theorem exec_setext (fn ctx s) : exec (.setext fn ctx) s = execSetext fn ctx s := rfl
@[simp] theorem exec_advsec (fn ctx s) : exec (.advsec fn ctx) s = execAdvsec fn ctx s := rfl
@[simp] theorem exec_loadmc (fn ctx ok s) : exec (.loadmc fn ctx ok) s = execLoadmc fn ctx ok s := rfl
@[simp] theorem exec_addkey (fn ctx ok s) : exec (.addkey fn ctx ok) s = execAddkey fn ctx ok s := rfl
@[simp] theorem exec_mailboxUnknownCommand (fn val s) : exec (.mailboxUnknownCommand fn val) s = execMailboxUnknownCommand fn val s := rfl
@[simp] theorem exec_registerWrite (fn off val s) : exec (.registerWrite fn off val) s = execRegisterWrite fn off val s := rfl
@[simp] theorem exec_qctlEnable (fn s) : exec (.qctlEnable fn) s = execQctlEnable fn s := rfl
@[simp] theorem exec_qctlDrain (fn s) : exec (.qctlDrain fn) s = execQctlDrain fn s := rfl
@[simp] theorem exec_qctlReopen (fn s) : exec (.qctlReopen fn) s = execQctlReopen fn s := rfl
@[simp] theorem exec_qctlDisable (fn s) : exec (.qctlDisable fn) s = execQctlDisable fn s := rfl
@[simp] theorem exec_qctlInvalid (fn cmd s) : exec (.qctlInvalid fn cmd) s = execQctlInvalid fn cmd s := rfl
@[simp] theorem exec_fqheadWrite (fn val s) : exec (.fqheadWrite fn val) s = execFqheadWrite fn val s := rfl
@[simp] theorem exec_fqresRetry (fn ctx index s) : exec (.fqresRetry fn ctx index) s = execFqresRetry fn ctx index s := rfl
@[simp] theorem exec_fqresFail (fn ctx index s) : exec (.fqresFail fn ctx index) s = execFqresFail fn ctx index s := rfl
@[simp] theorem exec_invalidate (fn ctx global s) : exec (.invalidate fn ctx global) s = execInvalidate fn ctx global s := rfl
@[simp] theorem exec_invalidationComplete (fn s) : exec (.invalidationComplete fn) s = execInvalidationComplete fn s := rfl
@[simp] theorem exec_migrate (fn ctx global s) : exec (.migrate fn ctx global) s = execMigrate fn ctx global s := rfl
@[simp] theorem exec_migrateMark (fn s) : exec (.migrateMark fn) s = execMigrateMark fn s := rfl
@[simp] theorem exec_invctlInvalid (fn ctx op s) : exec (.invctlInvalid fn ctx op) s = execInvctlInvalid fn ctx op s := rfl
@[simp] theorem exec_heapEnable (fn ctx s) : exec (.heapEnable fn ctx) s = execHeapEnable fn ctx s := rfl
@[simp] theorem exec_heapDisable (fn ctx s) : exec (.heapDisable fn ctx) s = execHeapDisable fn ctx s := rfl
@[simp] theorem exec_evacuate (fn ctx dest region any s) : exec (.evacuate fn ctx dest region any) s = execEvacuate fn ctx dest region any s := rfl
@[simp] theorem exec_evacuateDrainComplete (ctx region s) : exec (.evacuateDrainComplete ctx region) s = execEvacuateDrainComplete ctx region s := rfl
@[simp] theorem exec_objectCopyStart (ctx region off s) : exec (.objectCopyStart ctx region off) s = execObjectCopyStart ctx region off s := rfl
@[simp] theorem exec_objectCopyComplete (ctx region off s) : exec (.objectCopyComplete ctx region off) s = execObjectCopyComplete ctx region off s := rfl
@[simp] theorem exec_sweepComplete (ctx region s) : exec (.sweepComplete ctx region) s = execSweepComplete ctx region s := rfl
@[simp] theorem exec_heapReservationRetry (inv s) : exec (.heapReservationRetry inv) s = execHeapReservationRetry inv s := rfl
@[simp] theorem exec_hctlInvalid (fn ctx op s) : exec (.hctlInvalid fn ctx op) s = execHctlInvalid fn ctx op s := rfl
@[simp] theorem exec_launchRecordConsume (ctx q s) : exec (.launchRecordConsume ctx q) s = execLaunchRecordConsume ctx q s := rfl
@[simp] theorem exec_bindRecordConsume (ctx q s) : exec (.bindRecordConsume ctx q) s = execBindRecordConsume ctx q s := rfl
@[simp] theorem exec_priorityAging (inv s) : exec (.priorityAging inv) s = execPriorityAging inv s := rfl
@[simp] theorem exec_invocationSelect (part s) : exec (.invocationSelect part) s = execInvocationSelect part s := rfl
@[simp] theorem exec_teamPlace (inv s) : exec (.teamPlace inv) s = execTeamPlace inv s := rfl
@[simp] theorem exec_preemptionTimeout (inv s) : exec (.preemptionTimeout inv) s = execPreemptionTimeout inv s := rfl
@[simp] theorem exec_teamSave (team s) : exec (.teamSave team) s = execTeamSave team s := rfl
@[simp] theorem exec_blockPreemptTimeout (team group s) : exec (.blockPreemptTimeout team group) s = execBlockPreemptTimeout team group s := rfl
@[simp] theorem exec_transactionPreemptTimeout (team group s) : exec (.transactionPreemptTimeout team group) s = execTransactionPreemptTimeout team group s := rfl
@[simp] theorem exec_teamRetire (team s) : exec (.teamRetire team) s = execTeamRetire team s := rfl
@[simp] theorem exec_invocationComplete (inv s) : exec (.invocationComplete inv) s = execInvocationComplete inv s := rfl
@[simp] theorem exec_bsigApply (n s) : exec (.bsigApply n) s = execBsigApply n s := rfl
@[simp] theorem exec_watchEvaluation (team group s) : exec (.watchEvaluation team group) s = execWatchEvaluation team group s := rfl
@[simp] theorem exec_watchPeriodicEvaluation (team group s) : exec (.watchPeriodicEvaluation team group) s = execWatchPeriodicEvaluation team group s := rfl
@[simp] theorem exec_watchTimeout (team group s) : exec (.watchTimeout team group) s = execWatchTimeout team group s := rfl
@[simp] theorem exec_streamElementDeliver (team group slot s) : exec (.streamElementDeliver team group slot) s = execStreamElementDeliver team group slot s := rfl
@[simp] theorem exec_engineElementTransfer (team agent tok s) : exec (.engineElementTransfer team agent tok) s = execEngineElementTransfer team agent tok s := rfl
@[simp] theorem exec_tokenComplete (team agent tok s) : exec (.tokenComplete team agent tok) s = execTokenComplete team agent tok s := rfl
@[simp] theorem exec_emulationComplete (team group s) : exec (.emulationComplete team group) s = execEmulationComplete team group s := rfl
@[simp] theorem exec_messageArrival (m s) : exec (.messageArrival m) s = execMessageArrival m s := rfl
@[simp] theorem exec_refusalReport (dst job seq s) : exec (.refusalReport dst job seq) s = execRefusalReport dst job seq s := rfl
@[simp] theorem exec_endToEndAck (dst job seq s) : exec (.endToEndAck dst job seq) s = execEndToEndAck dst job seq s := rfl
@[simp] theorem exec_resendTimeout (dst job seq s) : exec (.resendTimeout dst job seq) s = execResendTimeout dst job seq s := rfl
@[simp] theorem exec_seqQueryResponse (ends job seq accepted s) : exec (.seqQueryResponse ends job seq accepted) s = execSeqQueryResponse ends job seq accepted s := rfl
@[simp] theorem exec_waveRetryTimer (job s) : exec (.waveRetryTimer job) s = execWaveRetryTimer job s := rfl
@[simp] theorem exec_waveVisit (job init node second inj con dirty s) : exec (.waveVisit job init node second inj con dirty) s = execWaveVisit job init node second inj con dirty s := rfl
@[simp] theorem exec_waveEnd (job reached s) : exec (.waveEnd job reached) s = execWaveEnd job reached s := rfl
@[simp] theorem exec_linkTrained (port lanes s) : exec (.linkTrained port lanes) s = execLinkTrained port lanes s := rfl
@[simp] theorem exec_trainingTimeout (port s) : exec (.trainingTimeout port) s = execTrainingTimeout port s := rfl
@[simp] theorem exec_laneFault (port s) : exec (.laneFault port) s = execLaneFault port s := rfl
@[simp] theorem exec_crcReplayLimit (port s) : exec (.crcReplayLimit port) s = execCrcReplayLimit port s := rfl
@[simp] theorem exec_retrainTimeout (port routes s) : exec (.retrainTimeout port routes) s = execRetrainTimeout port routes s := rfl
@[simp] theorem exec_flitReceive (at' ok seq s) : exec (.flitReceive at' ok seq) s = execFlitReceive at' ok seq s := rfl
@[simp] theorem exec_linkRetry (port s) : exec (.linkRetry port) s = execLinkRetry port s := rfl
@[simp] theorem exec_linkDisable (port routes s) : exec (.linkDisable port routes) s = execLinkDisable port routes s := rfl
@[simp] theorem exec_deviceLost (dev jobs s) : exec (.deviceLost dev jobs) s = execDeviceLost dev jobs s := rfl
@[simp] theorem exec_powerOn (t s) : exec (.powerOn t) s = execPowerOn t s := rfl
@[simp] theorem exec_warmReset (t s) : exec (.warmReset t) s = execWarmReset t s := rfl
@[simp] theorem exec_clusterGate (cluster s) : exec (.clusterGate cluster) s = execClusterGate cluster s := rfl
@[simp] theorem exec_clusterUngateComplete (cluster s) : exec (.clusterUngateComplete cluster) s = execClusterUngateComplete cluster s := rfl
@[simp] theorem exec_powerLimit (above s) : exec (.powerLimit above) s = execPowerLimit above s := rfl
@[simp] theorem exec_partitionConfigure (part cfg s) : exec (.partitionConfigure part cfg) s = execPartitionConfigure part cfg s := rfl
@[simp] theorem exec_capChangeEffect (part cluster s) : exec (.capChangeEffect part cluster) s = execCapChangeEffect part cluster s := rfl
@[simp] theorem exec_sharingModeRequest (cluster mode s) : exec (.sharingModeRequest cluster mode) s = execSharingModeRequest cluster mode s := rfl
@[simp] theorem exec_sharingModeEffect (cluster s) : exec (.sharingModeEffect cluster) s = execSharingModeEffect cluster s := rfl
@[simp] theorem exec_correctableError (u s) : exec (.correctableError u) s = execCorrectableError u s := rfl
@[simp] theorem exec_uncorrectableError (u s) : exec (.uncorrectableError u) s = execUncorrectableError u s := rfl
@[simp] theorem exec_residueCheckFail (team s) : exec (.residueCheckFail team) s = execResidueCheckFail team s := rfl
@[simp] theorem exec_coreFaultLimit (core s) : exec (.coreFaultLimit core) s = execCoreFaultLimit core s := rfl
@[simp] theorem exec_schedulerStateError (unit s) : exec (.schedulerStateError unit) s = execSchedulerStateError unit s := rfl
@[simp] theorem exec_schedulerRebuildComplete (unit s) : exec (.schedulerRebuildComplete unit) s = execSchedulerRebuildComplete unit s := rfl
@[simp] theorem exec_rebuildLimit (cluster s) : exec (.rebuildLimit cluster) s = execRebuildLimit cluster s := rfl
@[simp] theorem exec_windowAccess (fn off write len s) : exec (.windowAccess fn off write len) s = execWindowAccess fn off write len s := rfl
@[simp] theorem exec_spdmRequest (nonce s) : exec (.spdmRequest nonce) s = execSpdmRequest nonce s := rfl
@[simp] theorem exec_halt (fn inv s) : exec (.halt fn inv) s = execHalt fn inv s := rfl
@[simp] theorem exec_haltrole (fn inv consumer s) : exec (.haltrole fn inv consumer) s = execHaltrole fn inv consumer s := rfl
@[simp] theorem exec_haltComplete (fn s) : exec (.haltComplete fn) s = execHaltComplete fn s := rfl
@[simp] theorem exec_debugResume (fn inv s) : exec (.debugResume fn inv) s = execDebugResume fn inv s := rfl
@[simp] theorem exec_dump (fn inv s) : exec (.dump fn inv) s = execDump fn inv s := rfl
@[simp] theorem exec_brkon (fn s) : exec (.brkon fn) s = execBrkon fn s := rfl
@[simp] theorem exec_brkoff (fn s) : exec (.brkoff fn) s = execBrkoff fn s := rfl
@[simp] theorem exec_stalldump (fn s) : exec (.stalldump fn) s = execStalldump fn s := rfl
@[simp] theorem exec_trace (fn s) : exec (.trace fn) s = execTrace fn s := rfl
@[simp] theorem exec_debugInvalid (fn cmd s) : exec (.debugInvalid fn cmd) s = execDebugInvalid fn cmd s := rfl
@[simp] theorem exec_traceSyncInterval (team agent s) : exec (.traceSyncInterval team agent) s = execTraceSyncInterval team agent s := rfl
@[simp] theorem exec_stallClockCharge (team agent cause prod lag s) : exec (.stallClockCharge team agent cause prod lag) s = execStallClockCharge team agent cause prod lag s := rfl

end Sys2Proof.Machine
end

