-- ==== Sys2Proof/Laws/Memory.lean ====
section
/-! SUPPORT. Memory: a read after a write, and the canonical form, which every operation on memory keeps. -/
namespace Sys2Proof.Machine

/-! ### Reading after writing -/

/-- A byte after a write of one byte: the written one at its address, every other as before. -/
theorem readByte_writeByte (m : Memory) (a x : Nat) (b : Byte) :
    readByte (writeByte m a b) x = if a % 2 ^ 52 = x % 2 ^ 52 then b else readByte m x := tgetD_tputD ..

/-- A byte none of the written addresses meets is unchanged. -/
theorem readByte_writeBytes_ne (bs : List Byte) (m : Memory) (a x : Nat) (h : ∀ j < bs.length, (a + j) % 2 ^ 52 ≠ x % 2 ^ 52) :
    readByte (writeBytes m a bs) x = readByte m x := by
  induction bs generalizing m a with
  | nil => rfl
  | cons b r ih =>
    have h0 := h 0 (by simp)
    rw [writeBytes, ih]
    · rw [readByte_writeByte, if_neg (by simpa using h0)]
    · intro j hj
      have := h (j + 1) (by simpa using hj)
      rwa [show a + 1 + j = a + (j + 1) by omega]

/-- Reading back the bytes just written. -/
theorem readBytes_writeBytes (bs : List Byte) (m : Memory) (a : Nat) (h : bs.length ≤ 2 ^ 52) :
    readBytes (writeBytes m a bs) a bs.length = bs := by
  induction bs generalizing m a with
  | nil => rfl
  | cons b r ih =>
    simp only [writeBytes, List.length_cons, readBytes]
    rw [ih _ _ (by simp at h; omega), readByte_writeBytes_ne, readByte_writeByte, if_pos rfl]
    intro j hj; simp at h; omega

theorem natBytes_length (x n : Nat) : (natBytes x n).length = n := by
  induction n generalizing x with
  | zero => rfl
  | succ n ih => simp [natBytes, ih]

/-- The bytes of a number hold it, modulo their width (R3). -/
theorem bytesNat_natBytes (x n : Nat) : bytesNat (natBytes x n) = x % 2 ^ (8 * n) := by
  induction n generalizing x with
  | zero => simp [natBytes, bytesNat, Nat.mod_one]
  | succ n ih =>
    simp only [natBytes, bytesNat, ih, BitVec.toNat_ofNat]
    rw [show 8 * (n + 1) = 8 + 8 * n by omega, Nat.pow_add, Nat.mod_mul]

/-- Reading back a number just written. -/
theorem readNat_writeNat (m : Memory) (a n x : Nat) (h : n ≤ 2 ^ 52) : readNat (writeNat m a n x) a n = x % 2 ^ (8 * n) := by
  unfold readNat writeNat
  have := readBytes_writeBytes (natBytes x n) m a (by rwa [natBytes_length])
  rw [natBytes_length] at this
  rw [this, bytesNat_natBytes]

/-- A byte outside a number just written is unchanged. -/
theorem readByte_writeNat_ne (m : Memory) (a n v x : Nat) (h : ∀ j < n, (a + j) % 2 ^ 52 ≠ x % 2 ^ 52) :
    readByte (writeNat m a n v) x = readByte m x :=
  readByte_writeBytes_ne _ _ _ _ (by rwa [natBytes_length])

/-! ### The canonical form -/

/-- The canonical form, cell by cell. -/
theorem wf_cons (a : Nat) (b : Byte) (r : Memory) :
    Memory.wf ((a, b) :: r) = true ↔ a < 2 ^ 52 ∧ b ≠ unlisted ∧ Memory.wf r = true ∧ ∀ e ∈ r, a < e.1 := by
  induction r generalizing a b with
  | nil => simp [Memory.wf]
  | cons e r ih =>
    obtain ⟨a', b'⟩ := e
    simp only [Memory.wf, Bool.and_eq_true, decide_eq_true_eq, List.mem_cons, forall_eq_or_imp]
    constructor
    · rintro ⟨⟨h1, h2⟩, h3⟩
      obtain ⟨h4, h5, h6, h7⟩ := (ih a' b').1 h3
      exact ⟨by omega, h2, h3, h1, fun e he => Nat.lt_trans h1 (h7 e he)⟩
    · rintro ⟨_, h2, h3, h1, _⟩; exact ⟨⟨h1, h2⟩, h3⟩

/-- Leaving cells out keeps the form. -/
theorem wf_filter {m : Memory} (p : Host.Cell → Bool) (h : m.wf = true) : Memory.wf (m.filter p) = true := by
  induction m with
  | nil => rfl
  | cons e r ih =>
    obtain ⟨a, b⟩ := e
    obtain ⟨h1, h2, h3, h4⟩ := (wf_cons a b r).1 h
    simp only [List.filter_cons]
    split
    · exact (wf_cons ..).2 ⟨h1, h2, ih h3, fun e he => h4 e (List.mem_filter.1 he).1⟩
    · exact ih h3

theorem mem_tdel {α : Type} {t : Tbl α} {k : Nat} {e : Nat × α} (h : e ∈ tdel t k) : e ∈ t := by
  induction t with
  | nil => exact h
  | cons x r ih =>
    obtain ⟨i, a⟩ := x
    simp only [tdel] at h
    split at h
    · exact List.mem_cons_of_mem _ (ih h)
    · rcases List.mem_cons.1 h with h | h
      · rw [h]; exact List.mem_cons_self ..
      · exact List.mem_cons_of_mem _ (ih h)

theorem mem_tput {α : Type} {t : Tbl α} {k : Nat} {v : α} {e : Nat × α} (h : e ∈ tput t k v) : e = (k, v) ∨ e ∈ t := by
  induction t with
  | nil => simpa [tput] using h
  | cons x r ih =>
    obtain ⟨i, a⟩ := x
    simp only [tput] at h
    split at h
    · simpa using h
    · split at h
      · simp at h; exact h.imp id (fun h => by simp [h])
      · rcases List.mem_cons.1 h with h | h
        · exact .inr (by simp [h])
        · exact (ih h).imp id (List.mem_cons_of_mem _)

/-- A write of one byte keeps the form. -/
theorem wf_writeByte {m : Memory} (a : Nat) (b : Byte) (h : m.wf = true) : (writeByte m a b).wf = true := by
  have ha : a % 2 ^ 52 < 2 ^ 52 := Nat.mod_lt _ (by omega)
  unfold writeByte tputD
  generalize a % 2 ^ 52 = k at *
  split
  · induction m with
    | nil => rfl
    | cons e r ih =>
      obtain ⟨i, c⟩ := e
      obtain ⟨h1, h2, h3, h4⟩ := (wf_cons i c r).1 h
      simp only [tdel]
      split
      · exact ih h3
      · exact (wf_cons ..).2 ⟨h1, h2, ih h3, fun e he => h4 e (mem_tdel he)⟩
  · next hb =>
    induction m with
    | nil => exact (wf_cons ..).2 ⟨ha, hb, rfl, by simp⟩
    | cons e r ih =>
      obtain ⟨i, c⟩ := e
      obtain ⟨h1, h2, h3, h4⟩ := (wf_cons i c r).1 h
      simp only [tput]
      split
      · next hk =>
        refine (wf_cons ..).2 ⟨ha, hb, h, fun e he => ?_⟩
        rcases List.mem_cons.1 he with he | he
        · rw [he]; exact hk
        · exact Nat.lt_trans hk (h4 e he)
      · split
        · next hk => subst hk; exact (wf_cons ..).2 ⟨h1, hb, h3, h4⟩
        · next h5 h6 =>
          refine (wf_cons ..).2 ⟨h1, h2, ih h3, fun e he => ?_⟩
          rcases mem_tput he with he | he
          · rw [he]; show i < k; omega
          · exact h4 e he

theorem wf_writeBytes (bs : List Byte) {m : Memory} (a : Nat) (h : m.wf = true) : (writeBytes m a bs).wf = true := by
  induction bs generalizing m a with
  | nil => exact h
  | cons b r ih => exact ih _ (wf_writeByte a b h)

theorem wf_writeNat {m : Memory} (a n x : Nat) (h : m.wf = true) : (writeNat m a n x).wf = true := wf_writeBytes _ _ h

theorem wf_clearBytes {m : Memory} (a n : Nat) (h : m.wf = true) : (clearBytes m a n).wf = true := by
  unfold clearBytes; split
  · exact wf_filter _ h
  · exact wf_writeBytes _ _ h

theorem wf_hostCells {m : Memory} (h : m.wf = true) : (hostCells m).wf = true := wf_filter _ h

theorem snoopLine_mem (s : State) (k i l : Nat) (w : Bool) : (snoopLine s k i l w).mem = s.mem := by unfold snoopLine; split <;> rfl

theorem wake_mem (s : State) (hit : Nat → Bool) : (wake s hit).mem = s.mem := by unfold wake; split <;> rfl

theorem snoop_mem (s : State) (k i l : Nat) (w : Bool) : (snoop s k i l w).mem = s.mem := by
  unfold snoop; dsimp only; split <;> simp only [wake_mem, snoopLine_mem]

theorem snoopLines_mem (s : State) (pa n : Nat) (w : Bool) : (snoopLines s pa n w).mem = s.mem := by unfold snoopLines; split <;> rfl

theorem snoopRange_mem (s : State) (pa n : Nat) (w : Bool) : (snoopRange s pa n w).mem = s.mem := by
  unfold snoopRange; dsimp only; split <;> simp only [wake_mem, snoopLines_mem]

theorem coverPoison_mem (s : State) (ws : List (Nat × Nat)) : (coverPoison s ws).mem = s.mem := by unfold coverPoison; split <;> rfl

theorem clearRefsAt_mem (s : State) (pa n : Nat) : (clearRefsAt s pa n).mem = s.mem := by unfold clearRefsAt; split <;> rfl

/-- An atomic OR of a leaf entry keeps the form (R195). -/
theorem wf_orEntry {s : State} (pa : Nat) (b : BitVec 64) (h : s.mem.wf = true) : (orEntry s pa b).mem.wf = true := by
  unfold orEntry; dsimp only; split
  · exact h
  · exact wf_writeNat _ _ _ h

/-- What a walk reads conflicts with transactions, and leaves memory alone. -/
theorem snoopWalk_mem (s : State) (root va : Nat) : (snoopWalk s root va).mem = s.mem := by
  unfold snoopWalk; split
  · next h =>
    clear h
    generalize walkEntries (tables s) root va = l
    induction l generalizing s with
    | nil => rfl
    | cons p r ih => rw [List.foldl_cons, ih, snoopLines_mem]
  · rfl

theorem wf_walkTranslate {s : State} (slice cn : Nat) (c : Ctx) (va : Nat) (u : Use) (h : s.mem.wf = true) :
    (walkTranslate s slice cn c va u).1.mem.wf = true := by
  have h0 : (snoopWalk s c.root va).mem.wf = true := by rw [snoopWalk_mem]; exact h
  unfold walkTranslate breakCtx modCtx; dsimp only; split
  · exact h0
  · split
    · exact h0
    · split
      · exact wf_orEntry _ _ h0
      · exact h0

/-- A translation keeps the form: at most it sets A in a leaf (R195). -/
theorem wf_ctxTranslate {s : State} (core cn va : Nat) (u : Use) (h : s.mem.wf = true) : (ctxTranslate s core cn va u).1.mem.wf = true := by
  unfold ctxTranslate; split
  · exact h
  · dsimp only; split
    · split
      · exact h
      · exact wf_walkTranslate _ _ _ _ _ h
    · exact wf_walkTranslate _ _ _ _ _ h

/-- The D bit of a leaf a store goes through keeps the form (R195). -/
theorem wf_dirtyLeaf {s : State} (e : TlbEntry) (h : s.mem.wf = true) : (dirtyLeaf s e).mem.wf = true := by
  unfold dirtyLeaf; split
  · exact h
  · exact wf_orEntry _ _ h

/-- So does that of the leaf cached for an address. -/
theorem wf_dirtyAt {s : State} (core cn va : Nat) (h : s.mem.wf = true) : (dirtyAt s core cn va).mem.wf = true := by
  unfold dirtyAt; split
  · exact wf_dirtyLeaf _ h
  · exact h

/-- Bytes the device or the host writes land at their addresses. -/
theorem putBytes_mem (s : State) (pa : Nat) (bs : List Byte) : (putBytes s pa bs).mem = writeBytes s.mem pa bs := by
  unfold putBytes; simp only [coverPoison_mem, snoopRange_mem]

/-- So do those a host write leaves, whether or not the watches see it. -/
theorem hostBytes_mem (s : State) (pa : Nat) (bs : List Byte) : (hostBytes s pa bs).mem = writeBytes s.mem pa bs := by
  unfold hostBytes; split
  · exact putBytes_mem ..
  · simp only [coverPoison_mem]

/-- Clearing reference bits leaves memory alone. -/
@[simp] theorem clearRefs_mem (s : State) (cn va n : Nat) : (clearRefs s cn va n).mem = s.mem := by
  unfold clearRefs
  split <;> simp [modCtx]

/-- What a store does to memory: the bytes of a place in memory, none for another place. -/
theorem locWrite_mem (s : State) (q : Asker) (l : Loc) (n v : Nat) :
    (locWrite s q l n v).mem = match l with | .glob pa _ _ => writeNat s.mem pa n v | _ => s.mem := by
  cases l <;> simp only [locWrite, clearRefsAt_mem, clearRefs_mem, snoopRange_mem, modTeam]

/-- A walk of the Caretaker leaves memory alone. -/
theorem caretakerWalk_mem (s : State) (cn va : Nat) : (caretakerWalk s cn va).1.mem = s.mem := by
  unfold caretakerWalk; split
  · rfl
  · dsimp only; split
    · unfold breakCtx modCtx; exact snoopWalk_mem ..
    · exact snoopWalk_mem ..

/-- The marks a leaf gets before the Caretaker writes through it keep the form (R195). -/
theorem wf_markLeaf {s : State} (cn va : Nat) (h : s.mem.wf = true) : (markLeaf s cn va).mem.wf = true := by
  unfold markLeaf; split
  · exact wf_orEntry _ _ h
  · exact h

/-- Giving a hall pass back keeps the form (R224). -/
theorem wf_unpin {s : State} (cn hdr : Nat) (h : s.mem.wf = true) : (unpin s cn hdr).mem.wf = true := by
  have h1 : (caretakerWalk s cn (hdr + 4)).1.mem.wf = true := by rw [caretakerWalk_mem]; exact h
  unfold unpin; split
  · next s1 pa leaf e =>
    rw [e] at h1
    split
    · exact h1
    · exact wf_writeNat _ _ _ (wf_markLeaf _ _ h1)
  · next s1 e => rw [e] at h1; exact h1

/-- A write by the device itself keeps the form. -/
theorem wf_deviceWrite {s t : State} {cn va : Nat} {bs : List Byte} (h : s.mem.wf = true) (e : deviceWrite s cn va bs = some t) : t.mem.wf = true := by
  have h1 := wf_ctxTranslate hubCore cn va .write h
  unfold deviceWrite at e; split at e
  · cases e
  · split at e
    · next s1 pa leaf x eq =>
      rw [eq] at h1; split at e
      · cases e
      · cases e; simp only [clearRefsAt_mem, clearRefs_mem, putBytes_mem]; exact wf_writeBytes _ _ (wf_dirtyAt _ _ _ h1)
    · cases e
    · next s1 eq => rw [eq] at h1; cases e; exact h1

end Sys2Proof.Machine
end

