-- ==== Sys2Proof/Tests/Slice0.lean ====
section
/-! SUPPORT. Tests: words of the spec's encoding tables, ill-formed terms, single steps with results worked out from the spec by hand, and for the hypotheses of the statements states that meet them. -/
namespace Sys2Proof.Tests
open Sys2Proof Sys2Proof.Machine Sys2Proof.Claim
set_option Elab.async false

/-! ### Small states -/

/-- Group 0 of the program of log entry 17, at 0x10000. -/
def g0 : Group := freshGroup loadedKernel loadedPc

/-- The same with values in some s registers. -/
def withX (g : Group) (l : Tbl Word) : Group := { g with th := { g.th with x := l } }

/-- The sequencer at 0x10000. -/
def q0 : Seq := freshSeq loadedPc

/-- A block of two VPs that stand at 0x10000. -/
def b0 : Block := { start := loadedPc, n := 2, snap := [], vps := [(0, { cond := .run, pc := loadedPc, wins := [] }), (1, { cond := .run, pc := loadedPc, wins := [] })], atPoint := false, forced := false }

/-- One context with one invocation with one team, on an identity map whose leaf has A and D set. -/
def world (c : Ctx) (iv : Invoc) (t : Team) (r : StreamRef) : State :=
  { loadProgram State.reset 0 with mem := writeNat (loadProgram State.reset 0).mem 0x3000 8 (2 ^ 53 + 0x30F), ctxs := [(0, c)], invs := [(0, iv)], teams := [(0, t)], cur := some r }

/-- A team of one group and a sequencer. -/
def team1 (g : Group) (q : Seq) : Team := { loadedTeam .nop with groups := [g], seq := some q }

/-- A group's control thread acts. -/
def ctl (g : Group) (c : Ctx := loadedCtx) (iv : Invoc := loadedInv) : State := world c iv (team1 g q0) (.ctl 0 0)
def ctlX (g : Group) (c : Ctx := loadedCtx) (iv : Invoc := loadedInv) : Cx := { s := ctl g c iv, k := 0, i := 0, g := g, vps := none, kn := iv.kernel, cn := 0 }

/-- Both VPs of a block act. -/
def blk (g : Group) (c : Ctx := loadedCtx) (iv : Invoc := loadedInv) : State := world c iv (team1 { g with block := some b0 } q0) (.blk 0 0 0)
def blkX (g : Group) (c : Ctx := loadedCtx) (iv : Invoc := loadedInv) : Cx :=
  { s := blk g c iv, k := 0, i := 0, g := { g with block := some b0 }, vps := some [0, 1], kn := iv.kernel, cn := 0 }

/-- The sequencer acts. -/
def seq (q : Seq) (c : Ctx := loadedCtx) (iv : Invoc := loadedInv) : State := world c iv (team1 g0 q) (.seq 0)
def seqX (q : Seq) (c : Ctx := loadedCtx) (iv : Invoc := loadedInv) : Sx := { s := seq q c iv, k := 0, q := q, kn := iv.kernel, cn := 0 }

/-- A context with one trap frame slot. -/
def ctxFrame : Ctx := { loadedCtx with tfslots := 1 }

/-- VLEN 2 on elements of format `f`. -/
def vec (f : Nat) : Group := { g0 with vlen := 2, vtype := g0.vtype ||| BitVec.ofNat 64 f }

/-! ### Who acts -/

theorem witness_acts : CtlActs (ctl g0) (ctlX g0) := ⟨rfl, rfl⟩
theorem witness_free : CtlFree (ctl g0) (ctlX g0) := ⟨witness_acts, rfl, rfl⟩
theorem witness_seq : SeqActs (seq q0) (seqX q0) ∧ (∀ n ∈ [0#6, 31#6], n.toNat < 32) := ⟨⟨rfl, rfl⟩, by decide⟩
theorem witness_blk : BlkActs (blk g0) (blkX g0) [0, 1] loadedPc := ⟨⟨0, rfl, rfl⟩, by decide +kernel⟩
theorem witness_illegal : CtlActs (ctl g0 ctxFrame) (ctlX g0 ctxFrame) ∧ Handled (ctl g0 ctxFrame) 0 := by
  refine ⟨⟨rfl, rfl⟩, loadedInv, ctxFrame, rfl, rfl, by decide, ?_⟩
  intro a b d e f g h; cases h

/-! ### Hypotheses of the scalar and predicate statements -/

/-- Undefined words of major 0x04: fn 0x0F, the first above the table, and POPC with a non-zero b field. -/
theorem witness_ScalarInteger_undefined : [0x1000000F#32, 0x10000014#32, 0x10000110#32].all (fun w => decide (fld w 26 6 = 4#6 ∧ ((fld w 0 8).toNat = 0x0F ∨ 0x14 ≤ (fld w 0 8).toNat ∨ 0x10 ≤ (fld w 0 8).toNat ∧ (fld w 8 6).toNat ≠ 0))) = true := by decide

/-- s1 holds an address of the identity map. -/
def gMem : Group := withX g0 [(1, 0x20000), (2, 7), (3, 8), (62, 1)]

theorem witness_ScalarLoadsStores_load : ∃ s1 p, Lands (ctl gMem) (ctlX gMem) 0x20000 8 .read s1 p ∧ poisoned s1 p 8 = false :=
  ⟨_, _, ⟨⟨rfl, rfl⟩, rfl, rfl⟩, by decide +kernel⟩
theorem witness_ScalarLoadsStores_store : ∃ s1 p, Lands (ctl gMem) (ctlX gMem) 0x20000 1 .write s1 p := ⟨_, _, ⟨rfl, rfl⟩, rfl, rfl⟩
theorem witness_ScalarLoadsStores_window : (resolve (ctl gMem) (asker (ctlX gMem)) 0x01FFFE0000000FF8 8 .write 0).2 = .at (.spad 0 0xFF8) := by decide +kernel
theorem witness_ScalarAtomics : ∃ s1 p, Lands (ctl gMem) (ctlX gMem) 0x20000 (atomBytes 1) .atomic s1 p ∧ poisoned s1 p 8 = false ∧ (62#6).toNat ≠ 0 ∧ (62#6).toNat % 2 = 0 :=
  ⟨_, _, ⟨⟨rfl, rfl⟩, rfl, rfl⟩, by decide +kernel, by decide, by decide⟩
theorem witness_Predicates_compares : (5#3).toNat ≤ 5 ∧ 6 ≤ (6#3).toNat ∧ (ctlX g0 ctxFrame).g.block = none ∧ (ctlX g0 ctxFrame).g.txn = none := by decide
theorem witness_Predicates_undefined : [0x34000007#32, 0x34000023#32].all (fun w => decide (fld w 26 6 = 13#6 ∧ (7 ≤ (fld w 0 5).toNat ∨ 3 ≤ (fld w 0 5).toNat ∧ fld w 5 7 ≠ 0))) = true := by decide
theorem witness_ControlTransfers_branches : (31#7).toNat < 32 ∧ (1#6) ≠ 0 ∧ (31#6).toNat < 32 := by decide
theorem witness_ControlTransfers_jumps : CtlActs (ctl gMem) (ctlX gMem) ∧ (readX gMem.th 1).toNat % 4 = 0 := ⟨⟨rfl, rfl⟩, by decide +kernel⟩
theorem witness_ScalarFloat : (2#4).toNat ≤ 2 ∧ cvtOk 0 10 false = true ∧ cvtOk 11 2 true = true := by decide +kernel
theorem witness_SpecialRegisters : getTeam (ctl g0) 0 = some (team1 g0 q0) ∧ getInv (ctl g0) 0 = some loadedInv ∧ getCtx (ctl g0) 0 = some loadedCtx := ⟨rfl, rfl, rfl⟩

/-! ### Hypotheses of the vector statements -/

/-- Element formats: int64 for the integer instructions, F32, F16 and BF16 for the floating-point ones. -/
theorem witness_VectorInteger : CtlFree (ctl (vec 11)) (ctlX (vec 11)) ∧ VecRegs (vec 11) [0, 1] [31] ∧ 8 ≤ elemWidth (vec 11) ∧ active (ctlX (vec 11)) = [0, 1] :=
  ⟨⟨⟨rfl, rfl⟩, rfl, rfl⟩, by unfold VecRegs; decide +kernel, by decide +kernel, by decide +kernel⟩
theorem witness_VectorInteger_block : BlkActs (blk (vec 8)) (blkX (vec 8)) [0, 1] loadedPc ∧ VecRegs (blkX (vec 8)).g [0, 1] [31] ∧ 8 ≤ elemWidth (blkX (vec 8)).g :=
  ⟨⟨⟨0, rfl, rfl⟩, by decide +kernel⟩, by unfold VecRegs; decide +kernel, by decide +kernel⟩
theorem witness_VectorFloat : CtlFree (ctl (vec 2)) (ctlX (vec 2)) ∧ VecRegs (vec 2) [0, 1] [31] ∧ vtFmt (vec 2) ≤ 2 ∧ 2 ^ 0 < readVlen (ctlX (vec 2)) ∧ readVlen (ctlX (vec 2)) ≤ 2 ^ 1 :=
  ⟨⟨⟨rfl, rfl⟩, rfl, rfl⟩, by unfold VecRegs; decide +kernel, by decide +kernel, by decide +kernel, by decide +kernel⟩
theorem witness_VectorFloat_block : BlkActs (blk (vec 0)) (blkX (vec 0)) [0, 1] loadedPc ∧ VecRegs (blkX (vec 0)).g [0, 1] [31] ∧ vtFmt (blkX (vec 0)).g ≤ 2 :=
  ⟨⟨⟨0, rfl, rfl⟩, by decide +kernel⟩, by unfold VecRegs; decide +kernel, by decide +kernel⟩
theorem witness_VectorCompare : (5#3).toNat ≤ 5 ∧ (4#3).toNat ≤ 4 ∧ VecRegs (vec 2) [0, 31] [] := by unfold VecRegs; decide +kernel
theorem witness_VectorConvert : (5#3) ≠ 4 ∧ (5#3).toNat ≤ 5 ∧ (vtFmt (vec 0), 10) ∈ [(0, 10), (10, 0)] ∧ vnarwPair 0 1 = true ∧ vwidePair 1 0 = true ∧ vtFmt (vec 7) ≤ 7 ∧ 3 ≤ vtFmt (vec 3) := by decide +kernel

/-- F8 elements with a block size. -/
def gScale : Group := { vec 3 with vtype := (vec 3).vtype ||| 0x10 }

theorem witness_VectorConvert_scale : CtlFree (ctl gScale) (ctlX gScale) ∧ VecRegs gScale [0, 1] [] ∧ WideRegs (ctlX gScale) 8 32 ∧ 3 ≤ vtFmt gScale ∧ vtBlk gScale ≠ 0 ∧
    VecRegs gScale [] [2, 1] ∧ ∀ k, k < wideCount (ctlX gScale) 32 → 8 + k < nvCount gScale ∧ 8 + k ≠ 2 :=
  ⟨⟨⟨rfl, rfl⟩, rfl, rfl⟩, by unfold VecRegs; decide +kernel, by unfold WideRegs; decide +kernel, by decide +kernel, by decide +kernel, by unfold VecRegs; decide +kernel, by decide +kernel⟩

/-- VLEN 2 on 64-bit elements, two addresses in v1, s1 at 0x20000. -/
def gAddr : Group := { withX (vec 11) [(1, 0x20000)] with v := [(1, 0x20000 + 0x20008 * 2 ^ 64)] }

theorem witness_VectorMemory_load : ((readAll (asker (ctlX gAddr)) (fun e => 8 * (0x20000 + 8 * e)) 64 false (toDo (ctlX gAddr)) true (ctl gAddr)).map (·.2)) = some [(0, 0), (1, 0)] ∧ VecRegs gAddr [1] [31] ∧ addrOk gAddr 1 = true := by
  unfold VecRegs; decide +kernel
theorem witness_VectorMemory_block : ((readAll (asker (blkX gAddr)) (fun e => 8 * (0x20000 + 8 * e)) 64 true (toDo (blkX gAddr)) true (blk gAddr)).map (·.2)) = some [(0, 0), (1, 0)] ∧ (blkX gAddr).g.txn = none := by decide +kernel
theorem witness_VectorMemory_store : (writeAll (asker (ctlX gAddr)) (fun e => 8 * (0x20000 + 8 * e)) (fun _ => 5) id 64 (toDo (ctlX gAddr)) (ctl gAddr)).isSome = true := by decide +kernel
theorem witness_VectorMemory_atomic : (atomAll (asker (ctlX gAddr)) (fun e => BitVec.ofNat 64 (elem64 (ctlX gAddr) 1 e)) 8 (fun _ old => some (old + 1)) (toDo (ctlX gAddr)) (ctl gAddr)).isSome = true ∧
    (9#4).toNat ≤ 9 ∧ (8#4) ≠ 9 ∧ vtFmt gAddr = 11 ∧ vtFmt (vec 0) = 0 ∧ (3#6) = 2 + 1 ∧ (2#6).toNat % 2 = 0 := by decide +kernel
/-- With RIDX at 1 one element is left; a sub-byte format with a bit offset. -/
theorem witness_VectorMemory_restart : toDo (ctlX { gAddr with ridx := 1 }) = [1] ∧ vtFmt (vec 6) = 6 := by decide +kernel

theorem witness_Blocks_start : CtlFree (ctl (vec 11)) (ctlX (vec 11)) ∧ Untraced (ctl (vec 11)) 0 ∧ active (ctlX (vec 11)) ≠ [] ∧ active (ctlX g0) = [] :=
  ⟨⟨⟨rfl, rfl⟩, rfl, rfl⟩, by unfold Untraced; decide +kernel, by decide +kernel, by decide +kernel⟩
/-- A block whose other VP still runs elsewhere, or stands in JOIN. -/
def paths (c : VpCond) : State × Cx :=
  let b := { b0 with vps := [(0, { cond := .run, pc := loadedPc, wins := [] }), (1, { cond := c, pc := 0x10010, wins := [] })] }
  let g := { gAddr with block := some b }
  let s := world loadedCtx loadedInv (team1 g q0) (.blk 0 0 0)
  (s, { s := s, k := 0, i := 0, g := g, vps := some [0], kn := loadedKernel, cn := 0 })
theorem witness_Blocks_paths : BlkActs (paths .run).1 (paths .run).2 [0] loadedPc ∧ Untraced (paths .run).1 0 ∧ preempting (paths .run).1 0 = false ∧
    ((paths .run).2.g.block.map fun b => b.vps.any fun e => decide (e.1 ∉ [0] ∧ e.2.cond = .run)) = some true :=
  ⟨⟨⟨0, rfl, rfl⟩, by decide +kernel⟩, by unfold Untraced; decide +kernel, by decide +kernel, by decide +kernel⟩
theorem witness_Blocks_last : BlkActs (paths .join).1 (paths .join).2 [0] loadedPc ∧ Untraced (paths .join).1 0 ∧ preempting (paths .join).1 0 = false ∧
    ((paths .join).2.g.block.map fun b => b.vps.all fun e => decide (e.1 ∉ [0] → e.2.cond ≠ .run)) = some true :=
  ⟨⟨⟨0, rfl, rfl⟩, by decide +kernel⟩, by unfold Untraced; decide +kernel, by decide +kernel, by decide +kernel⟩
theorem witness_Blocks_jump : addrOk (paths .run).2.g 1 = true ∧ elemWidth (paths .run).2.g ≠ 6 ∧ ∀ u ∈ [0], elem64 (paths .run).2 1 u % 4 = 0 := by decide +kernel

/-- A wide kernel, for GMMA's groups of 256 elements; every VP votes for the format word 0x33. -/
def invWide : Invoc := { loadedInv with kernel := { loadedKernel with budget := 128 } }
def gMul (n : Nat) : Group := { vec 3 with vlen := BitVec.ofNat 64 n, v := [(0, (2 ^ 8192 - 1) / (2 ^ 32 - 1) * 0x33)] }
def mulX (n : Nat) : Cx := ctlX (gMul n) loadedCtx invWide
theorem witness_GroupMatrix : CtlFree (ctl (gMul 256) loadedCtx invWide) (mulX 256) ∧ readVlen (mulX 256) = 256 ∧ WideRegs (mulX 256) 8 32 :=
  ⟨⟨⟨rfl, rfl⟩, rfl, rfl⟩, by decide +kernel, by unfold WideRegs; decide +kernel⟩
theorem witness_GroupMatrix_vote : (∀ e ∈ active (mulX 256), BitVec.ofNat 32 (wideElem (mulX 256) 0 32 e) = 0x33) ∧ (∀ k, k < wideCount (mulX 256) (fmtWidth (fwBF 0x33)) → 4 + k < nvCount (gMul 256)) ∧
    formatWordOk 0x33 (hasXv (mulX 256).s 0) = true ∧ vtFmt (gMul 256) = fwAF 0x33 ∧ fwBLK 0x33 = 0 ∧ 2 + 2 < nvCount (gMul 256) := by decide +kernel
/-- The scaled form asks for a block size, which the word 0x1033 and this VTYPE name alike. -/
theorem witness_GroupMatrix_scaled : formatWordOk 0x1033 false = true ∧ fwBLK 0x1033 ≠ 0 ∧ fwBLK 0x1033 = vtBlk gScale := by decide +kernel
theorem witness_GroupMatrix_none : readVlen (mulX 0) % 256 = 0 ∧ active (mulX 0) = [] := by decide +kernel

theorem witness_VectorConfig : CtlFree (ctl g0) (ctlX g0) ∧ (∀ x ∈ g0.slots, x.st = .idle) ∧ 8 ≤ 512 * loadedKernel.budget / (8 * 2 ^ (2#2).toNat * 2 ^ (0#2).toNat) := ⟨⟨⟨rfl, rfl⟩, rfl, rfl⟩, by decide, by decide⟩

/-- A descriptor of one dimension over 64-bit elements, and a slot on v4 that streams it. -/
def desc1 (dir : Nat) (gate : Bool) : Desc := { fmt := 11, boff := 0, dir := dir, ndim := 1, gate := gate, full := false, chan := 0, mask := 1, ofs := 0, counts := [4], strides := [8] }
def slot1 (st : SlotState) (mc : Bool) : Slot := { boundSlot (desc1 0 true) 4 0x20000 0x10000 mc with st := st }
def gStream (x : Slot) : Group := { vec 11 with slots := [x, idleSlot, idleSlot, idleSlot], th := { g0.th with x := [(1, 0x20000), (2, 3)] } }
/-- Two elements delivered of a READ slot, none of them in a strip. -/
def readSlot : Slot := { slot1 .read false with ahead := [5, 6] }

theorem witness_StreamSlots_strip : let g := gStream readSlot
    CtlFree (ctl g) (ctlX g) ∧ g.slots.length = 4 ∧ (∀ x ∈ g.slots, x.st = .idle ∨ (x.st = .read ∧ x.desc.dir ≠ 2)) ∧ (∃ x ∈ g.slots, x.st = .read) ∧
    (∀ x ∈ g.slots, x.st = .read → fmtWidth x.desc.fmt = elemWidth g) ∧
    (∀ x ∈ g.slots, x.st = .read → Nat.min 2 (x.len - (x.pos + x.slen)) ≤ (x.ahead.drop x.slen).length ∧ (x.ahead.drop x.slen ≠ [] ∨ x.pos + x.slen = x.len)) :=
  ⟨⟨⟨rfl, rfl⟩, rfl, rfl⟩, rfl, by decide +kernel, by decide +kernel, by decide +kernel, by decide +kernel⟩
theorem witness_StreamSlots_bind : let kn := { loadedKernel with descs := [desc1 0 true] }
    let iv := { loadedInv with kernel := kn }
    CtlFree (ctl (vec 11) loadedCtx iv) (ctlX (vec 11) loadedCtx iv) ∧ lget (ctlX (vec 11) loadedCtx iv).kn.descs 0 = some (desc1 0 true) ∧ lget (vec 11).slots 3 = some idleSlot ∧ idleSlot.st = .idle ∧
    (∀ y ∈ (vec 11).slots, y.st = .idle ∨ y.vd ≠ 31) ∧ descOk (desc1 0 true) 1 = true ∧ chanSender (ctl (vec 11) loadedCtx iv) 0 0 = none :=
  ⟨⟨⟨rfl, rfl⟩, rfl, rfl⟩, rfl, rfl, rfl, by decide +kernel, by decide +kernel, by decide +kernel⟩
theorem witness_StreamSlots_release : (slot1 .read true).st = .read ∧ (slot1 .read true).multicast = true ∧ readSlot.multicast = false ∧ ((slot1 .write false).st = .write ∧ (slot1 .write false).slen = 0) := ⟨rfl, rfl, rfl, rfl, rfl⟩
/-- A WRITE slot with a pushed element in its strip. -/
def writeSlot : Slot := { slot1 .write false with slen := 2, written := 1 }
theorem witness_StreamSlots_close : (closeWrites (ctl (gStream writeSlot)) (ctlX (gStream writeSlot)) writeSlot).isSome = true ∧ writeSlot.st = .write ∧ 0 < writeSlot.slen := by decide +kernel

/-! ### Hypotheses of the bell, wait, copy and tag statements -/

/-- A team with bell 15. -/
def belled (x : Bell) (r : StreamRef) : State := world loadedCtx loadedInv { team1 (withX g0 [(1, 0x10000), (2, 3), (4, 0x80000000), (5, 9)]) { q0 with th := { q0.th with x := [(2, 3)] } } with bells := List.replicate 15 idleBell ++ [x] } r
def counting (arr exp : Nat) : Bell := { counting := true, ph := 3, exp := exp, arr := arr, by' := [], last := 0 }
theorem witness_Bells : getBell (belled idleBell (.ctl 0 0)) 0 15 = some idleBell ∧ traceOn (belled idleBell (.ctl 0 0)) 0 9 = false ∧ (openCtl (belled idleBell (.ctl 0 0)) 0 0).isSome = true ∧
    (openSeq (belled idleBell (.seq 0)) 0).isSome = true := by decide +kernel
theorem witness_Bells_arrivals : (counting 0 2).counting = true ∧ (counting 0 2).arr + 1 < (counting 0 2).exp ∧ (counting 1 2).exp ≤ (counting 1 2).arr + 1 ∧ (counting 0 2).ph ≠ (4#64).setWidth 16 ∧
    (counting 0 2).ph = (3#64).setWidth 16 ∧ 1 ≤ (65535#64).toNat ∧ (65535#64).toNat ≤ 65535 := by decide
theorem witness_Signals : (0x80000000#64) &&& 0xFFFFFFFF7000FC00 = 0 ∧ (9#64).toNat < 2 ^ 48 ∧ (0x80000000#64).getLsbD 31 = true ∧ (0x80000000#64) &&& 0x0FFFFFFF = 0 ∧ (5#64).getLsbD 31 = false ∧
    (5#64) &&& 0xFFFFFFFF7000FC00 = 0 ∧ (62#6) ≠ 0 ∧ (62#6).toNat % 2 = 0 := by decide
theorem witness_Watches : CtlFree (ctl gMem) (ctlX gMem) ∧ gMem.th.rewatch = none ∧ (∃ s1 l, Lands (ctl gMem) (ctlX gMem) (readX gMem.th 1) (atomBytes 1) .read s1 l ∧ poisoned s1 l 8 = false) ∧
    readX gMem.th 60 = 0 ∧ readX gMem.th 62 ≠ 0 :=
  ⟨⟨⟨rfl, rfl⟩, rfl, rfl⟩, rfl, ⟨_, _, ⟨⟨rfl, rfl⟩, rfl, rfl⟩, by decide +kernel⟩, by decide +kernel, by decide +kernel⟩
theorem witness_Watches_vector : VecRegs gAddr [1, 2] [] ∧ addrOk gAddr 1 = true ∧ vtFmt gAddr = 11 ∧
    ((readAll (asker (ctlX gAddr)) (fun e => 8 * elem64 (ctlX gAddr) 1 e) 64 true (active (ctlX gAddr)) true (ctl gAddr)).map (·.2)) = some [(0, 0), (1, 0)] := by unfold VecRegs; decide +kernel
/-- A copy of 7 bytes within memory, one of length 0, both under a free token; a busy token outside TWAIT's mask. -/
theorem witness_TokensAndTags_tokens : (readX gMem.th 2).toNat < 2 ^ 32 ∧ windowBad (ctl gMem) 0 (readX gMem.th 1) 7 = false ∧ readX gMem.th 9 = 0 ∧ gMem.th.pend.getLsbD 7 = false ∧ gMem.th.pend &&& 0xFF = 0 := by decide +kernel
theorem witness_TokensAndTags_tags : CtlActs (ctl gMem) (ctlX gMem) ∧ getTeam (ctl gMem) 0 = some (team1 gMem q0) ∧ getInv (ctl gMem) 0 = some loadedInv ∧ (0x1000 : Nat) % 256 = 0 ∧ loadedInv.spad * 4096 ≤ 0x1000 := ⟨⟨rfl, rfl⟩, rfl, rfl, by decide, by decide⟩

/-! ### Hypotheses of the matrix statements -/

/-- A record of 1 x 1 elements of format `f`, 128 bytes of the team's own allocation, block headers at `base`. -/
def rec1 (f base shift : Nat) : BitVec 256 := BitVec.ofNat 256 (64 * 2 ^ 32 + f * 2 ^ 52 + 128 * 2 ^ 64 + 2 ^ 96 + 2 ^ 112 + base * 2 ^ 128 + shift * 2 ^ 185)
/-- A sequencer with a grant of 1 x 1 x 1 under format word `fw`, accumulator 0 in state `st`. -/
def qGrant (fw : BitVec 32) (st : AccState) (r : BitVec 256) : Seq :=
  { q0 with gm := 1, gn := 1, gk := 1, fmt := fw, m := [(1, r)], accs := [{ closedAcc with st := st, fmt := fw }, closedAcc, closedAcc, closedAcc] }

theorem witness_MatrixOps_grant : SeqActs (seq { q0 with th := { q0.th with x := [(31, 0x33)] } }) (seqX { q0 with th := { q0.th with x := [(31, 0x33)] } }) ∧
    formatWordOk ((0x33#64).setWidth 32) false = true ∧ (25#5).toNat ≤ 25 ∧ (28#5).toNat ≤ 28 ∧ (0x044#12).toNat = 0x044 ∧ (∀ a ∈ q0.accs, a.st ≠ .opened) ∧
    ¬∀ a ∈ (qGrant 0x33 .opened 0).accs, a.st ≠ .opened := ⟨⟨rfl, rfl⟩, by decide +kernel, by decide, by decide, by decide, by decide, by decide⟩
theorem witness_MatrixOps_multiply : let q := qGrant 0x33 .opened (rec1 3 0 0)
    let sx := seqX q
    SeqActs (seq q) sx ∧ q.th.pend &&& 0xFF = 0 ∧ recFormatOk (getRec q 1) (some 3) = true ∧ recRowsBad sx (getRec q 1) 1 1 false false true = none ∧ sameFormat q.fmt (getAcc q 0).fmt = true ∧ fwBLK q.fmt = 0 ∧
    (getAcc q 0).st = .opened ∧ (getTeam sx.s (recTeam sx.s sx.k (getRec q 1))).isSome = true ∧ viewPoison (team1 g0 q) (getRec q 1) 1 1 = none ∧ q.mstat.getLsbD 12 = false :=
  ⟨⟨rfl, rfl⟩, by decide +kernel⟩
theorem witness_MatrixOps_scaled : let q := qGrant 0x1033 .opened (rec1 3 0x20000 5)
    let sx := seqX q
    (fillHeaders (headerVas (getRec q 1) 1 1 ++ headerVas (getRec q 1) 1 1) sx).2 = none ∧ fwBLK q.fmt ≠ 0 ∧ recFormatOk (getRec q 1) (some (fwAF q.fmt)) = true ∧
    recRowsBad sx (getRec q 1) 1 1 false false true = none := by decide +kernel
theorem witness_MatrixOps_empty : q0.gm = 0 ∧ overCapacity (seqX (qGrant 0x33 .closed 0)) 0 1 1 = false ∧ (qGrant 0x33 .closed 0).gm ≠ 0 := by decide +kernel
theorem witness_MatrixOps_save : let q := qGrant 0x33 .opened (rec1 3 0 0)
    recFormatOk (getRec q 1) none = true ∧ recRowsBad (seqX q) (getRec q 1) 0 0 true false false = none ∧ recOffset (getRec q 1) % 64 = 0 ∧ 64 + 4 * q.gm * q.gn ≤ recExtent (getRec q 1) := by decide +kernel
/-- A scratchpad that holds an image of one element under the word 0x33. -/
def imageTeam : Team := { team1 g0 (qGrant 0x33 .saved (rec1 3 0 0)) with spad := [(0, 1), (2, 1), (4, 1), (8, 0x33)] }
theorem witness_MatrixOps_restore : let q := qGrant 0x33 .saved (rec1 3 0 0)
    let h := spadBytes imageTeam 0 64
    imageOk h false = true ∧ frameNat h 2 2 = 1 ∧ frameNat h 4 2 = 1 ∧ 64 + 4 * 1 * 1 ≤ recExtent (getRec q 1) ∧ othersOpen q 0 = 0 ∧ 1 ≤ imageTeam.target.gmaxm ∧ imageTeam.spadPoison = [] ∧
    othersOpen (qGrant 0x33 .opened 0) 1 ≠ 0 ∧ (qGrant 0x33 .opened 0).gm = 1 := by decide +kernel
theorem witness_MatrixOps_convert : let q := qGrant 0x33 .opened (rec1 4 0 0)
    recFormatOk (getRec q 1) none = true ∧ recRowsBad (seqX q) (getRec q 1) 1 1 true false true = none ∧ recFmt (getRec q 1) ≤ 4 ∧ (boxOf (getRec q 1) 1 1).1 ≤ 1 := by decide +kernel
theorem witness_TileTransfers : let q := qGrant 0x33 .opened (rec1 3 0x20000 4)
    SeqActs (seq q) (seqX q) ∧ q.th.pend.getLsbD (7#3).toNat = false ∧ recFormatOk (getRec q 1) (some (fwAF q.fmt)) = true ∧ recRowsBad (seqX q) (getRec q 1) 1 1 false true true = none ∧ (2#2) ≠ 3 ∧
    recFormatOk (getRec q 1) none = true ∧ recFmt (getRec q 1) ≤ 7 ∧ (getAcc q 0).st = .opened ∧ 3 ≤ recFmt (getRec q 1) ∧ recSbase (getRec q 1) ≠ 0 ∧ 4 ≤ recShift (getRec q 1) ∧ recShift (getRec q 1) ≤ 6 ∧
    recSbase (rec1 3 0 0) = 0 := ⟨⟨rfl, rfl⟩, by decide +kernel⟩

/-! ### Hypotheses of the queue, launch, heap and message statements -/

/-- A queue at 0x30000 of 4 records of 32 bytes; kind 1 is MSG or SOFT, 2 TASK. -/
def queueOf (kind : Nat) (st : QSt) (hd tl : BitVec 32) : Queue := { base := 0x30000, geom := BitVec.ofNat 64 (2 + 5 * 2 ^ 16 + kind * 2 ^ 24), st := st, last := 0, idx := [(0, (hd, tl))], handles := [] }
def ctxQueue (x : Queue) : Ctx := { loadedCtx with queues := [(0, x)] }

theorem witness_QueueAndLaunch_push : let s := ctl gMem (ctxQueue (queueOf 1 .opened 0 3))
    CtlActs s (ctlX gMem (ctxQueue (queueOf 1 .opened 0 3))) ∧ qKind (queueOf 1 .opened 0 3) ≠ 2 ∧ (readX gMem.th 1).toNat % 16 = 0 ∧
    ((unitsRead (asker (ctlX gMem (ctxQueue (queueOf 1 .opened 0 3)))) 4 s 0x20000).map fun r => r.2.length) = some 32 ∧ qCount (queueOf 1 .opened 0 3) 0 ≠ 2 ^ qLogn (queueOf 1 .opened 0 3) ∧
    (deviceWrite s 0 (slotVa (queueOf 1 .opened 0 3) 0 3) (List.replicate 32 0)).isSome = true ∧ (mirrored s 0 0 (queueOf 1 .opened 0 3) 0 4).isSome = true := ⟨⟨rfl, rfl⟩, by decide +kernel⟩
theorem witness_QueueAndLaunch_full : (queueOf 1 .full 0 4).st = .full ∧ qCount (queueOf 1 .full 0 4) 0 = 2 ^ qLogn (queueOf 1 .full 0 4) ∧ (queueOf 1 .closed 0 0).st ≠ .full ∧ qKind (queueOf 2 .opened 0 0) = 2 ∧ qKind (queueOf 0 .opened 0 0) = 0 := by decide +kernel
theorem witness_QueueAndLaunch_pop : let x := queueOf 1 .full 0 4
    let s := ctl gMem (ctxQueue x)
    let q := asker (ctlX gMem (ctxQueue x))
    (unitsFit q 4 s 0x20000).isSome = true ∧ qCount x 0 ≠ 0 ∧ ((deviceRead s 0 (slotVa x 0 0) 32).2.map (·.length)) = some 32 ∧ (mirrored s 0 0 x 1 4).isSome = true ∧
    (writeAll q (fun e => 8 * (0x20000 + 8 * e)) (fun _ => 0) (fun _ => 0) 64 (List.range 4) s).isSome = true := by decide +kernel
theorem witness_QueueAndLaunch_empty : (queueOf 1 .disabled 0 0).st = .disabled ∧ qCount (queueOf 1 .opened 7 7) 0 = 0 ∧ (queueOf 1 .opened 7 7).st ≠ .disabled := by decide +kernel
/-- Cluster 47 of the partition holds a task that a team on cluster 0 steals last. -/
theorem witness_QueueAndLaunch_steal : let x := { queueOf 2 .opened 0 0 with idx := [(47, (0, 1))] }
    let s := { ctl gMem (ctxQueue x) with clusters := tabulate (fun c => { Cluster.reset c with part := some 0 }) 48 }
    (tget s.clusters ((0 + 1 + 46) % 48)).bind (·.part) = some 0 ∧ qCount x 47 ≠ 0 ∧ ∀ j, j < 46 → qCount x ((0 + 1 + j) % 48) = 0 := by decide +kernel

/-- A partition of every cluster, one loaded object with the loaded kernel, and in s10 to s17 a launch record of one team. -/
def gLaunch : Group := withX g0 [(10, 0x0001000001000000), (11, 0x0000000100010001)]
def ctxObj : Ctx := { loadedCtx with objs := [(0, { base := 0, nlen := 0, secver := 0, kernels := [loadedKernel] })] }
def placed (s : State) : State := { s with clusters := tabulate (fun c => { Cluster.reset c with part := some 0 }) 48, parts := [(0, { cfg := { clusters := List.range 48, fns := [0], dramBase := 0, dramUnits := 384, fabric := false, capM := ⟨128, 256, 64⟩, capE := ⟨32, 32, 16⟩ }, keys := [], nextCtx := 0 })] }
theorem witness_QueueAndLaunch_launch : let s := { placed (ctl gLaunch ctxObj) with arb := 1 }
    let r := packBits (fun k => (readX gLaunch.th (10 + k)).toNat) 64 0 8
    let iv := recordInvoc 0 r false [] 0 1 (findKernel ctxObj 0 0)
    freeInv s 0 = some 1 ∧ (findKernel ctxObj (field r 1 1) (field r 2 1)).isSome = true ∧ badRecord s 0 ctxObj r iv = false ∧ noFit s 1 iv = false ∧
    badRecord s 0 ctxObj (setBit r 0 true) iv = true := by decide +kernel
/-- A partition whose 4,096 invocation numbers are all in use. -/
def fullInvs : Nat → Tbl Invoc
  | 0 => []
  | n + 1 => tput (fullInvs n) n loadedInv
theorem fullInvs_get (n j : Nat) : tget (fullInvs n) j = if j < n then some loadedInv else none := by
  induction n with
  | zero => simp [fullInvs, tget]
  | succ n ih => rw [fullInvs, tget_tput, ih]; by_cases h : n = j <;> simp [h]; · split <;> split <;> first | rfl | omega
theorem witness_QueueAndLaunch_numbers : freeInv { ctl gLaunch with invs := fullInvs 4096 } 0 = none := by
  have h : ∀ n i, i + n ≤ 4096 → freeInvFrom { ctl gLaunch with invs := fullInvs 4096 } 0 i n = none := by
    intro n
    induction n with
    | zero => intros; rfl
    | succ n ih =>
      intro i hi
      have : getInv { ctl gLaunch with invs := fullInvs 4096 } (invKey 0 i) = some loadedInv := by
        unfold getInv invKey; rw [fullInvs_get, if_pos (by omega)]
      rw [freeInvFrom, this, if_pos (by decide)]; exact ih _ (by omega)
  exact h 4096 0 (Nat.le_refl _)

/-- A heap at 4 MiB: region 0 LIVE, 2 EVACUATING with an entry in each state, the rest FREE. -/
def heap0 : Heap :=
  let fwd := fun (st : FwdSt) => ({ st := st, newAddr := 0x400000, newGen := 3, priority := 0 } : Fwd)
  { loadedCtx.heap with enabled := true, heapva := 0x400000, heapn := 4, hapva := 0x2000000, regions := [(0, { st := .live, gen := 3, top := 64, large := false, fwd := [], drained := false, leaves := [] }), (2, { st := .evacuating, gen := 4, top := 256, large := false, fwd := [(0, fwd .notCopied), (32, fwd .copied), (64, fwd .dropped), (96, fwd .copying), (128, fwd .notCopied)], drained := false, leaves := [] })] }
def ctxHeap : Ctx := { loadedCtx with heap := heap0 }
/-- h1 names the object of 16 bytes at 4 MiB; the object at 128 of region 2 is pinned. -/
def gHeap : Group := { vec 11 with h := [(1, makeRef 3 0x400000)], v := [(1, (makeRef 3 0x400000).toNat * (2 ^ 64 + 1)), (2, 9)], th := { g0.th with x := [(1, 2097145), (2, 16)] } }
def heapS (g : Group) : State := { ctl g ctxHeap with mem := writeNat (writeNat (ctl g ctxHeap).mem 0x400000 4 16) 0x800084 2 1 }
def heapX (g : Group) : Cx := { ctlX g ctxHeap with s := heapS g }

theorem witness_HeapAccess_load : CtlActs (heapS gHeap) (heapX gHeap) ∧ HasHeap (heapS gHeap) (heapX gHeap) ∧
    ((heapRead (heapX gHeap) (readH gHeap 1) (.reg 1) 16 0 true true).map (·.2)) = some 0 ∧ (heapRead (heapX gHeap) (readH gHeap 1) (.reg 1) 16 0 false true).isSome = true :=
  ⟨⟨rfl, rfl⟩, ⟨ctxHeap, rfl, by decide +kernel⟩, by decide +kernel, by decide +kernel⟩
theorem witness_HeapAccess_store : (match addrObject (heapX gHeap) (readH gHeap 1) (.reg 1) 8 0 true true with
    | .at c1 va => (match barrier 0 barrierFuel c1 (readH c1.g 2) (.reg 2) with | .val c2 _ _ => (match heapPlace c2 va .write 0 with | .at .. => va | _ => 0) | _ => 0)
    | _ => 0) = 0x400008 := by decide +kernel
theorem witness_HeapAccess_vector : HeapVec (heapX gHeap) [1] [2] 1 ∧ ((heapReadAll (heapX gHeap) 1 8 true false (toDo (heapX gHeap)) true (heapX gHeap)).map (·.2)) = some [(0, 0), (1, 0)] ∧
    (heapWriteAll (heapX gHeap) 2 1 8 (toDo (heapX gHeap)) (heapX gHeap)).isSome = true := by unfold HeapVec VecRegs; decide +kernel
theorem witness_HeapAccess_barrier : let r := fun a => refAddr (makeRef 3 a)
    (makeRef 3 0x800020).toNat / 2 ^ 62 = 1 ∧ (makeRef 3 0x800020).getLsbD 57 = false ∧ r 0x800020 % 16 = 0 ∧ (2 : Nat) < heap0.heapn.toNat ∧ 0x800000 ≤ r 0x800020 ∧ (getRegion heap0 2).st = .evacuating ∧
    (3 : Nat) = ((getRegion heap0 2).gen + 15) % 16 ∧ (getRegion heap0 1).st = .free ∧ (getRegion heap0 0).st = .live ∧ (getRegion heap0 0).gen = 3 ∧ heap0.heapva.toNat + 4 * 2 ^ 21 ≤ r 0xC00000 ∧
    (tget (getRegion heap0 2).fwd 32).map (·.st) = some .copied ∧ (tget (getRegion heap0 2).fwd 64).map (·.st) = some .dropped ∧ (tget (getRegion heap0 2).fwd 96).map (·.st) = some .copying ∧
    tget (getRegion heap0 2).fwd 16 = none ∧ pinOf (heapS gHeap) 0x1000 0x800000 = some 0 ∧ pinOf (heapS gHeap) 0x1000 0x800080 = some 1 ∧ pinOf { heapS gHeap with poison := [0x800080 / 64] } 0x1000 0x800080 = none ∧ tampered (heapS gHeap) ctxHeap 0x800084 = false ∧ (5#64).toNat / 2 ^ 62 ≠ 1 := by decide +kernel
theorem witness_HeapManage_place : allocPlace heap0 16 = some (1, 0) ∧ (match (writeSpan (asker (heapX gHeap)) 514 (heapS gHeap) 0x600000 24 []).2 with | .inl ps => ps | _ => []) = [(0x600000, 0x600000, 24)] ∧ (0x600000 : Nat) % 8 = 0 ∧
    2097144 < Nat.max 8 (((readX gHeap.th 1).toNat + 7) / 8 * 8) := by decide +kernel
theorem witness_HeapManage_clean : let s1 := (writeSpan (asker (heapX gHeap)) 514 (heapS gHeap) 0x600000 24 []).1
    dirtyAt s1 (coreOf s1 0) 0 0x600000 = s1 := by decide +kernel
theorem witness_HeapManage_pin : (match barrier 0 barrierFuel (heapX gHeap) (readH gHeap 1) (.reg 1) with
    | .val c1 _ (some h) => (match heapPlace c1 h .read 0 with | .at c2 (.glob pa _ _) => (pa, readNat c2.s.mem (pa + 4) 2, tget c2.g.pins 0, decide ((dirtyAt c2.s (coreOf c2.s 0) 0 h).mem = c2.s.mem)) | _ => (0, 0, none, false))
    | _ => (0, 0, none, false)) = (0x400000, 0, none, true) := by decide +kernel
theorem witness_HeapManage_unpin : let g := { withX gHeap [(3, 0x2000000 + 15 * 2 ^ 21)] with pins := [(15, (0x400000, 16))] }
    CtlActs (heapS g) (heapX g) ∧ (readX g.th 3 - 0x2000000).toNat / 2 ^ 21 = 15 ∧ tget g.pins 15 = some (0x400000, 16) ∧ tampered (heapS g) ctxHeap 0x400004 = false ∧ ((peek (heapS g).mem 0x1000 0x400004).map (·.1)) = some 0x400004 := ⟨⟨rfl, rfl⟩, by decide +kernel⟩
theorem witness_HeapManage_compare : lookRef heap0 (makeRef 3 0x400000) = .fast 0x400000 ∧ lookRef heap0 5 = .raw := by decide +kernel

/-- A group of job 1, with a message of one 8-byte unit in v2. -/
def invJob : Invoc := { loadedInv with job := 1 }
def job1 : Job := { ctx := 0, inj := 5, con := 4, dirty := false, broken := false }
def gMsg : Group := { vec 11 with th := { g0.th with x := [(1, 0x01000001), (2, 1)] }, v := [(2, 77)] }
def jobs (s : State) : State := { s with jobs := [(1, job1)] }
theorem witness_MessageInstr : CtlFree (jobs (ctl gMsg loadedCtx invJob)) { ctlX gMsg loadedCtx invJob with s := jobs (ctl gMsg loadedCtx invJob) } ∧ hasFeature loadedCtx 4 = true ∧
    (0x01000001 : Nat) / 2 ^ 13 % 2 ^ 3 = 0 ∧ (0x01000001 : Nat) < 2 ^ 29 ∧ (0x01000001 : Nat) / 2 ^ 24 % 2 ^ 5 = 1 ∧ 64 * 1 ≤ vlmax loadedKernel gMsg * elemWidth gMsg ∧ invJob.job ≠ 0 ∧
    tget (jobs (ctl gMsg)).jobs 1 = some job1 ∧ (jobs (ctl gMsg)).unacked.length < 4096 ∧ (1 : Nat) ∈ { State.reset.hub with lost := [1] }.lost ∧ job1.ctx = 0 ∧ (62#6).toNat % 2 = 0 :=
  ⟨⟨⟨rfl, rfl⟩, rfl, rfl⟩, by decide +kernel⟩

/-! ### Hypotheses of the transaction, system and trap statements -/

/-- A transaction that has read `n` lines from line 0x1000 on and written one of them. -/
def txn (n : Nat) : Txn := { abort := 0x10040, wins := [], x := [], h := [], fcsr := 0, readLines := upFrom 0x1000 n, writeLines := [0x1000], writes := [(0x40000, 9)], stores := [(0x40000, 1, 0x40000, false)], regions := [], staged := [] }
def gTxn (n : Nat) : Group := { gMem with txn := some (txn n) }
theorem witness_Transactions : CtlActs (ctl (gTxn 7)) (ctlX (gTxn 7)) ∧ hasFeature loadedCtx 5 = true ∧
    (match resolve (ctl (gTxn 7)) (asker (ctlX (gTxn 7))) 0x20000 8 .read 0 with | (_, .at (.glob pa _ leaf)) => (pa, leaf.getLsbD 5, leaf.getLsbD 11) | _ => (0, true, true)) = (0x20000, false, false) ∧
    (txnLines { txn 7 with readLines := (txn 7).readLines ++ [0x20000 / 64] }).length = 8 ∧ 8 < (txnLines { txn 8 with readLines := (txn 8).readLines ++ [0x20000 / 64] }).length ∧
    (∀ e ∈ (txn 7).writes, e.1 < 2 ^ 52) := ⟨⟨rfl, rfl⟩, by decide +kernel⟩
theorem witness_Transactions_store : (match resolve (ctl (gTxn 7)) (asker (ctlX (gTxn 7))) 0x20000 8 .stage 0 with | (_, .at (.glob pa _ leaf)) => (pa, leaf.getLsbD 5, leaf.getLsbD 11) | _ => (0, true, true)) = (0x20000, false, false) ∧
    (0x1000 : Nat) ∈ (txn 7).writeLines ∧ (0x1006 : Nat) ∈ (txn 7).readLines ∧ (0x1006 : Nat) ∉ (txn 7).writeLines := by decide +kernel

/-- A kernel whose SIGCHK checks. -/
def invSig : Invoc := { loadedInv with kernel := { loadedKernel with kflags := 8 } }
theorem witness_System : CtlActs (ctl g0 ctxFrame invSig) (ctlX g0 ctxFrame invSig) ∧ g0.block = none ∧ hasFeature ctxFrame 9 = true ∧ kflag invSig.kernel 3 = true ∧ kflag loadedInv.kernel 3 = false ∧
    mayReplay (ctl g0 ctxFrame invSig) 0 = false ∧ loadedCtx.brkOn = false ∧ { loadedCtx with brkOn := true }.brkOn = true ∧ (15#4) ≠ 0 ∧ (4#3).toNat ≤ 4 ∧
    (ctl g0).hub.microcodeMode = false ∧ hasFeature loadedCtx 2 = true ∧ hasFeature loadedCtx 1 = true := ⟨⟨rfl, rfl⟩, by decide +kernel⟩
theorem witness_System_kind : (∀ x y z u w e, loadedInv.kind ≠ .handler x y z u w e) ∧ Handled (ctl g0 ctxFrame invSig) 0 := by
  refine ⟨?_, invSig, ctxFrame, rfl, rfl, by decide, ?_⟩ <;> (intro a b c d e f h; cases h)
theorem witness_SignatureChain : CtlActs (ctl gMem) (ctlX gMem) ∧ (readX gMem.th 1).toNat % 4 = 0 ∧ gMem.txn = none ∧ gMem.block = none := ⟨⟨rfl, rfl⟩, by decide +kernel⟩

theorem witness_TrapsAndReturn : (0x3FFFF#18) ≠ 0 ∧ stridedOffset 0 = false ∧ stridedOffset 0x64002800 = true ∧ (readX gMem.th 2).toNat % 4 ≠ 0 ∧ (readX gMem.th 2).toNat % 8 ≠ 0 ∧
    hasFeature { ctxFrame with features := 0 } 3 = false ∧ loadedCtx.tfslots.toNat = 0 ∧
    (match (resolve (ctl gMem ctxFrame) (asker (ctlX gMem ctxFrame)) 0x40000000 8 .read 0).2 with | .bad (.page va _ _) => va | _ => 0) = 0x40000000 := by decide +kernel
theorem witness_TrapsAndReturn_agents : (BlkActs (blk g0 ctxFrame) (blkX g0 ctxFrame) [0, 1] loadedPc ∧ Handled (blk g0 ctxFrame) 0) ∧ SeqActs (seq q0 ctxFrame) (seqX q0 ctxFrame) ∧ Handled (seq q0 ctxFrame) 0 :=
  ⟨⟨⟨⟨0, rfl, rfl⟩, by decide +kernel⟩, loadedInv, ctxFrame, rfl, rfl, by decide, fun _ _ _ _ _ _ h => by cases h⟩, ⟨rfl, rfl⟩, loadedInv, ctxFrame, rfl, rfl, by decide, fun _ _ _ _ _ _ h => by cases h⟩
/-- A group in a frame, and the handler of its trap. -/
def invHandler : Invoc := { loadedInv with kind := .handler 0 0 0 9 1 0x10000 }
def ctxHandler : Ctx := { ctxFrame with tfbase := 0x80000, frames := [(0, { team := 0, agent := 0, handler := some 1 })] }
def handled : Group := { g0 with th := { g0.th with run := .parkedFault, park := .frame 0 } }
def handling : State := { world ctxHandler loadedInv (team1 handled q0) (.ctl (2 ^ 48) 0) with invs := [(0, loadedInv), (1, invHandler)], teams := [(0, team1 handled q0), (2 ^ 48, { team1 g0 q0 with inv := 1 })] }
def handlingX : Cx := { s := handling, k := 2 ^ 48, i := 0, g := g0, vps := none, kn := loadedKernel, cn := 0 }
theorem witness_TrapsAndReturn_return : CtlFree handling handlingX ∧ invOf handling (2 ^ 48) = some invHandler ∧ getCtx handling 0 = some ctxHandler ∧ frameStands handling 0 0 0 = true ∧ (9#8) ≠ 0x11 ∧ invOf handling 0 = some loadedInv ∧
    (match (readFrame handling 0 0x80000 0 0).2 with | .inl _ => true | .inr _ => false) = true :=
  ⟨⟨⟨rfl, rfl⟩, rfl, rfl⟩, rfl, rfl, by decide +kernel, by decide, rfl, by decide +kernel⟩

/-! ### Hypotheses of the command statements -/

/-- Function 0's page. -/
def pg (s : State) : Page := (tget s.pages 0).getD { mbcmd := 0, mbarg := [], mbstat := 0, mbres0 := 0, mbres1 := 0, qsel := 0, invva := 0, invlen := 0, invstat := 0, invcmd := .none, dbgsel := 0, dbgarg := 0, dbgstat := 0, dbgcmd := none, hfree := 0, ats := false, held := [] }
/-- The state of one group with some arguments in function 0's page. -/
def mb (args : List Word) (c : Ctx := loadedCtx) : State := modPage (placed (ctl g0 c)) 0 fun p => { p with mbarg := args }
theorem witness_ContextCommands_create : let s := mb [0x1000, 5, 0x8000, 0x3FFF8001]
    MbFree s 0 (pg s) ∧ lowestFree s.ctxs 0 1024 = some 1 ∧ fnPart s 0 = some 0 ∧ pasidBound s ((argOf (pg s) 1).toNat % 2 ^ 20) = false ∧ createArgsOk s (pg s) = true := by
  unfold MbFree; decide +kernel
def ctxNew : Ctx := { ctxFrame with st := .creating }
theorem witness_ContextCommands_negotiate : let s := mb [0x3FF8, 0, 8, 0] ctxNew
    MbFree s 0 (pg s) ∧ getCtx s 0 = some ctxNew ∧ ctxNew.owner = 0 ∧ (argOf (pg s) 3 ++ argOf (pg s) 2) &&& ~~~(((argOf (pg s) 1 ++ argOf (pg s) 0) &&& supported s 0 0 &&& 0x3FF8#128) ||| 5#128) = 0 := by
  unfold MbFree; decide +kernel
/-- An object of one native kernel at 0x40000, signed by key 0, which partition 0 knows. -/
def imgLen : Nat := 0x180 + sigLen
def imgMem (m : Memory) : Memory :=
  ([(0, 4, 0x434C4F4C), (4, 2, 1), (6, 2, 1), (8, 4, 1), (0x20, 8, 0x100), (0x28, 8, 4), (0x40, 4, 1), (0x48, 8, 0x140), (0x90, 8, imgLen), (0x158, 1, 1), (0x15B, 1, 1)] : List (Nat × Nat × Nat)).foldl
    (fun m e => writeNat m (0x40000 + e.1) e.2.1 e.2.2) m
def mbLoad (secver : Nat) : State := let s := mb [0x40000, BitVec.ofNat 64 imgLen, 0x50000, 0] { ctxFrame with st := .negotiated }
  { s with mem := imgMem s.mem, parts := tmod s.parts 0 fun x => { x with keys := [0] }, hub := { s.hub with secver := secver } }
def imgRead (s : State) : State × (List Byte ⊕ Nat) := deviceReadLong 0 ((argOf (pg s) 1).toNat / 4096 + 2) (mbBegun s 0 3 0) (argOf (pg s) 0).toNat (argOf (pg s) 1).toNat
/-- Partition 0 knows a key, so it may sign. -/
def hasKey (s : State) (k : BitVec 512) : Bool := ((tget s.parts 0).map fun x => x.keys.contains k).getD false
theorem hasKey_known (s : State) (k : BitVec 512) (h : hasKey s k = true) : keyKnown s 0 k = true := by unfold keyKnown; unfold hasKey at h; rw [h, Bool.or_true]
/-- R67, R69: the object parses, and its LOAD passes every check but the signature's, whatever the fuse counter up to its own; above it, it is REPLAYED. -/
theorem witness_ContextCommands_load : let s := mbLoad 1
    MbFree s 0 (pg s) ∧ (match imgRead s with
      | (s2, .inl img) => (parseObject img imgLen).any fun h => h.native && hasKey s h.signer && decide (h.secver = s.hub.secver) && decide ((h.kernels.foldl (fun f k => f ||| kflagFeatures k) h.features) &&& ~~~ctxFrame.features = 0) &&
          rangeOk s2.mem ctxFrame.root (fun e => e.getLsbD 1 && e.getLsbD 3) 0x50000 h.nlen
      | _ => false) = true ∧ lowestFree ctxFrame.objs 0 256 = some 0 := by unfold MbFree; decide +kernel
theorem witness_FuseCounter : let s := mbLoad 2
    MbFree s 0 (pg s) ∧ takesObjects { ctxFrame with st := .negotiated } = true ∧ (match imgRead s with
      | (s2, .inl img) => (parseObject img imgLen).any fun h => h.native && hasKey s2 h.signer && decide (h.secver < s.hub.secver)
      | _ => false) = true := by unfold MbFree; decide +kernel
theorem witness_ContextCommands_unload : let c := { ctxObj with st := .loaded }
    let s := { mb [0] c with invs := [(0, { loadedInv with st := .done })] }
    MbFree s 0 (pg s) ∧ getCtx s 0 = some c ∧ (tget c.objs (argOf (pg s) 0).toNat).isSome = true ∧ objectLive s 0 (argOf (pg s) 0).toNat = false := by unfold MbFree; decide +kernel
theorem witness_ContextCommands_start : let c := { ctxObj with st := .loaded, tfbase := 0x80000, tfslots := 1 }
    let s := mb [0, 0x7000] c
    MbFree s 0 (pg s) ∧ ((findKernel c 0 0).map fun r => (r.2.groups, r.2.mentry)) = some (1, 0) ∧ rangeOk s.mem c.root (fun e => e.getLsbD 1 && e.getLsbD 2) c.tfbase.toNat (c.tfslots.toNat * 2 ^ 19) = true ∧
    (argOf (pg s) 1).toNat % 4096 = 0 ∧ argOf (pg s) 1 ≠ 0 ∧ rangeOk s.mem c.root (fun e => e.getLsbD 1) (argOf (pg s) 1).toNat 4096 = true := by unfold MbFree; decide +kernel
theorem witness_ContextCommands_states : (MbFree (mb []) 0 (pg (mb [])) ∧ loadedCtx.st = .running ∧ loadedCtx.owner = 0) ∧
    (∀ st ∈ [CtxSt.suspended, .dead, .killing, .creating], getCtx (mb [] { loadedCtx with st := st }) 0 = some { loadedCtx with st := st }) ∧ getCtx (mb []) 1023 = none ∧ (mb []).ctxs ≠ [] := by unfold MbFree; decide +kernel
theorem witness_ContextCommands_device : let s := modPage (placed State.reset) 0 fun p => { p with mbarg := [255, 0] }
    MbFree s 0 (pg s) ∧ s.ctxs = [] ∧ s.hub.secver < (argOf (pg s) 0).toNat ∧ (argOf (pg s) 0).toNat ≤ 255 ∧ { s.hub with microcodeMode := true }.microcodeMode = true ∧
    (tget (placed State.reset).parts 0).isSome = true ∧ ¬(1 ≤ 0x0B ∧ 0x0B ≤ 10) ∧ ¬(0x10 ≤ 0x14 ∧ 0x14 ≤ 0x13) := by unfold MbFree; decide +kernel
theorem witness_ContextCommands_suspend : let s := { modPage (mb []) 0 (fun p => { p with mbcmd := 6, mbstat := 0x100 }) with teams := [] }
    suspending s 0 = true ∧ residentOf s 0 = [] ∧ (pg s).mbstat.getLsbD 8 = true := by decide +kernel

theorem witness_QueueControl : let c := { loadedCtx with tfslots := 1, queues := [(5, { queueOf 1 .disabled 0 0 with base := 0x30000 })] }
    let s := modPage (ctl g0 c) 0 fun p => { p with qsel := 5 }
    selected s 0 = some (0, 5, c) ∧ badGeometry s c (getQueue c 5) = false ∧ badGeometry s c { getQueue c 5 with base := 0x1000000000000 } = true ∧
    (∀ st ∈ [QSt.opened, .full, .closed], ({ getQueue c 5 with st := st }).st ≠ .disabled) ∧ selected (ctl g0 { loadedCtx with owner := 1 }) 0 = none := by decide +kernel
/-- A LAUNCH queue with one record of 64 bytes at 0x30000. -/
def recS (l : List (Nat × Nat × Nat)) : State :=
  let c := { ctxObj with queues := [(0, { base := 0x30000, geom := BitVec.ofNat 64 (2 + 6 * 2 ^ 16), st := .opened, last := 0, idx := [(0, (0, 1))], handles := [] })] }
  let s := ctl g0 c
  { s with mem := l.foldl (fun m e => writeNat m (0x30000 + e.1) e.2.1 e.2.2) s.mem }
/-- The state in which the turn has passed on, and what the queue gives there. -/
def turned (s : State) : State := modCtx { s with parts := tmod s.parts 0 fun p => { p with nextCtx := 1 } } 0 fun c => { c with nextQ := 1 }
def recOf (s : State) : Nat := bytesNat (queueTake (turned s) 0 0xFFFF 0 0 false).2.data
theorem witness_QueueControl_launch : let s := recS [(2, 1, 0)]
    let r := queueTake (turned s) 0 0xFFFF 0 0 false
    r.2.status = 0 ∧ (getCtx r.1 0).isSome = true ∧ freeInv r.1 0 = some 1 ∧ nextRecord s 0 0 = some false ∧ turnOf s 0 = some (0, 0) ∧ turnOf s 0 ≠ some (0, 1) ∧ ((tget s.parts 0).map (·.nextCtx)).getD 0 < 1024 ∧
    (∀ e ∈ s.ctxs, e.1 < 1024 ∧ e.2.nextQ < 64 ∧ ∀ y ∈ e.2.queues, y.1 < 64) ∧ (∀ e ∈ s.pages, e.2.invcmd = .none) := by decide +kernel
theorem witness_QueueControl_bind : let pages := recS [(0, 1, 1), (1, 1, 63), (2, 1, 1), (8, 8, 0x40000), (0x10, 8, 2 ^ 40)]
    let heap := recS [(0, 1, 1), (2, 1, 2), (0x10, 8, 65536), (0x18, 8, 0x50008)]
    nextRecord pages 0 0 = some true ∧ field (recOf pages) 0 1 = 1 ∧ field (recOf pages) 1 1 = 63 ∧ field (recOf pages) 3 5 = 0 ∧ field (recOf pages) 0x20 32 = 0 ∧ field (recOf pages) 2 1 = 1 ∧
    field (recOf pages) 0x10 8 = 2 ^ 40 ∧ field (recOf pages) 0x18 8 = 0 ∧ nextRecord heap 0 0 = some true ∧ field (recOf heap) 2 1 = 2 ∧ field (recOf heap) 8 8 = 0 ∧ field (recOf heap) 0x10 8 = 65536 ∧
    field (recOf heap) 0x18 8 % 8 = 0 ∧ field (recOf (recS [(0, 1, 1)])) 2 1 = 0 ∧ field (recOf (recS [(0, 1, 1), (2, 1, 3)])) 2 1 = 3 := by decide +kernel
theorem witness_QueueControl_register : let c := { loadedCtx with st := .loaded, eq := { loadedCtx.eq with tail := 4 } }
    let s := ctl g0 c
    (tget s.pages 0).isSome = true ∧ (pg s).mbstat.getLsbD 8 = false ∧ debugCtx s 0 = some (0, c) ∧ selected s 0 = some (0, 0, c) ∧ (getQueue c 0).st = .disabled ∧ c.heap.enabled = false ∧
    ((4#64).setWidth 32 - c.eq.head).toNat ≤ (c.eq.tail - c.eq.head).toNat ∧ (c.eq.tail - c.eq.head).toNat < ((5#64).setWidth 32 - c.eq.head).toNat := by decide +kernel
/-- The identity map's leaf stands, for the first addresses of its pages, in the device's own slice for context 0. -/
def leaf0 : TlbEntry := { slice := 6144, ctx := 0, part := 0, glob := false, va := 0, size := 2 ^ 30, leafPa := 0x3000, leaf := BitVec.ofNat 64 (2 ^ 53 + 0x30F) }
def Cached (s : State) : Prop := s.tlb = [leaf0] ∧ (getCtx s 0).map (·.part) = some 0
theorem cached_put (s : State) (pa : Nat) (bs : List Byte) (h : Cached s) : Cached (putBytes s pa bs) := by
  have hl : ∀ (s : State) pa n w, (snoopLines s pa n w).tlb = s.tlb ∧ (snoopLines s pa n w).ctxs = s.ctxs := by intro s pa n w; unfold snoopLines; split <;> exact ⟨rfl, rfl⟩
  have hw : ∀ (s : State) f, (wake s f).tlb = s.tlb ∧ (wake s f).ctxs = s.ctxs := by intro s f; unfold wake; split <;> exact ⟨rfl, rfl⟩
  have hs : ∀ (s : State) pa n w, (snoopRange s pa n w).tlb = s.tlb ∧ (snoopRange s pa n w).ctxs = s.ctxs := by
    intro s pa n w; unfold snoopRange; dsimp only; split <;> simp only [hw, hl, and_self]
  have hk : ∀ (s : State) ws, (coverPoison s ws).tlb = s.tlb ∧ (coverPoison s ws).ctxs = s.ctxs := by intro s ws; unfold coverPoison; split <;> exact ⟨rfl, rfl⟩
  unfold Cached getCtx putBytes at *; simp only [hk, hs]; exact h
theorem cached_write (s : State) (va : Nat) (bs : List Byte) (h : Cached s) (ha : va % 4096 = 0) (hv : va < 2 ^ 30) : ∃ t, deviceWrite s 0 va bs = some t ∧ Cached t := by
  have ⟨ht, hc⟩ := h
  obtain ⟨c, hg, hp⟩ := Option.map_eq_some_iff.mp hc
  have hs : sliceOf hubCore va = 6144 := by show 384 * 16 + va / 256 % 16 = 6144; omega
  have hf : tlbFind s.tlb (sliceOf hubCore va) 0 c.part va = some leaf0 := by rw [ht, hs]; simp [tlbFind, leaf0]; exact hv
  have hx : ctxTranslate s hubCore 0 va .write = (s, some (.ok (leafPhys leaf0.leaf leaf0.va va) leaf0.leaf leaf0.va)) := by
    unfold ctxTranslate; simp only [hg, hf]; exact if_pos (by decide)
  have hd : dirtyAt s hubCore 0 va = s := by unfold dirtyAt cachedLeaf; simp only [hg, Option.bind_some, hf]; unfold dirtyLeaf; exact if_pos (by decide)
  have hb := cached_put s (leafPhys leaf0.leaf leaf0.va va) bs h
  have h1 : ∀ t n, Cached t → Cached (clearRefs t 0 va n) := by
    intro t n hb; unfold clearRefs; split
    · exact hb
    · refine ⟨hb.1, ?_⟩
      show (tget (tmod t.ctxs 0 _) 0).map _ = _
      rw [tget_tmod_self, Option.map_map]; exact hb.2
  have h2 : ∀ t pa n, Cached t → Cached (clearRefsAt t pa n) := by
    intro t pa n hb; unfold clearRefsAt; split
    · exact hb
    · refine ⟨hb.1, ?_⟩
      dsimp only; unfold getCtx; dsimp only
      rw [tget_tmap, Option.map_map]; exact hb.2
  exact ⟨_, by unfold deviceWrite; rw [if_neg (by omega), hx]; dsimp only; rw [if_neg (by decide), hd], h2 _ _ _ (h1 _ _ hb)⟩
theorem cached_write_long : ∀ (fuel : Nat) (s : State) (va : Nat) (bs : List Byte), Cached s → va % 4096 = 0 → va + 4096 * fuel ≤ 2 ^ 30 → (deviceWriteLong 0 fuel s va bs).isSome = true
  | 0, _, _, _, _, _, _ => rfl
  | fuel + 1, s, va, bs, h, ha, hv => by
    unfold deviceWriteLong; split
    · rfl
    · obtain ⟨t, ht, hc⟩ := cached_write s va (bs.take (4096 - va % 4096)) h ha (by omega)
      simp only [ht, Option.bind_some]; exact cached_write_long fuel t _ _ hc (by omega) (by omega)
/-- An entry of the fault queue for an agent, an operation or the scoreboard. -/
def fent (w : FaultWho) : FaultEntry := { who := w, va := 0x60000, seq := 1, tidx := 0, inv := 0, agentBits := 0, elem := 0, kind := 0, access := 0 }
def ctxFq (waiting : List FaultEntry) (w : FaultWho) : Ctx := { ctxFrame with fq := { base := 0x8000, logn := 8, head := 0, tail := 255, waiting := waiting, pri := [fent (.agent 0 0)], unresolved := [(7, fent w)] } }
def gPark : Group := { g0 with th := { g0.th with run := .parkedFault, park := .entry } }
theorem witness_FaultsAndPages_queue : let c := ctxFq [fent (.agent 0 0)] (.agent 0 0)
    let c2 := ctxFq [] (.agent 0 0)
    getCtx (ctl g0 c) 0 = some c ∧ (c.fq.tail - c.fq.head).toNat < 2 ^ c.fq.logn ∧ (deviceWrite (ctl g0 c) 0 (c.fq.base.toNat + 32 * (c.fq.tail.toNat % 2 ^ c.fq.logn)) (List.replicate 32 0)).isSome = true ∧
    selected (ctl g0 c2) 0 = some (0, 0, c2) ∧ ((255#64).setWidth 32 - c2.fq.head).toNat ≤ (c2.fq.tail - c2.fq.head).toNat ∧ ¬((256#64).setWidth 32 - c2.fq.head).toNat ≤ (c2.fq.tail - c2.fq.head).toNat := by decide +kernel
def copyOp : EngOp := { agent := 0, tok := 3, kind := .cpy 0x40000 0x41000 64, pos := 0, parked := false, cover := [], held := none, pc := 0x10000 }
theorem witness_FaultsAndPages_resolve : let c := ctxFq [] (.agent 0 0)
    let s := ctl gPark c
    let s2 := { ctl g0 (ctxFq [] (.engine 0 0 3)) with teams := [(0, { team1 g0 q0 with ops := [{ copyOp with parked := true }] })] }
    c.owner = 0 ∧ c.fq.unresolved.find? (fun e => decide (e.1 = (7#32).toNat)) = some ((7#32).toNat, fent (.agent 0 0)) ∧ (getThread s 0 0).map (fun th => (th.run, th.park)) = some (.parkedFault, .entry) ∧ ctxNum s 0 = 0 ∧
    (getOp s2 0 0 3).map (·.parked) = some true ∧ (getInv (ctl g0 c (iv := { loadedInv with st := .waitInput })) 0).map (·.st) = some .waitInput ∧ lget c.fq.pri 0 = some (fent (.agent 0 0)) := by decide +kernel
theorem witness_FaultsAndPages_handled : Handled (ctl gPark (ctxFq [] (.agent 0 0))) 0 := ⟨loadedInv, ctxFq [] (.agent 0 0), rfl, rfl, by decide, by intro a b d e f g h; cases h⟩
theorem witness_FaultsAndPages_invalidate : let s := modPage (ctl g0) 0 fun p => { p with invva := 0x200000, invlen := 1 }
    let busy := fun (k : InvCmd) => modPage s 0 fun p => { p with invstat := 0x100, invcmd := k }
    (tget s.pages 0).isSome = true ∧ (pg s).invstat.getLsbD 8 = false ∧ loadedCtx.owner = 0 ∧ meetsMoving s loadedCtx (invRange (pg s)) = false ∧ loadedCtx.fq.waiting = [] ∧
    (pg (busy (.invalidate 0 true))).invcmd = .invalidate 0 true ∧ (pg (busy (.migrate 0 false))).invcmd = .migrate 0 false ∧ heldIn (busy (.migrate 0 false)) 0 loadedCtx (invRange (pg (busy (.migrate 0 false)))) = false := by decide +kernel
/-- A group that waits for its frame; the trap is its third event. -/
def gTrap : Group := { g0 with th := { g0.th with run := .parkedFault, park := .trap 3, trapc := 9, trapv := 1, epc := 0x10000 } }
def ctxTrap : Ctx := { ctxObj with tfbase := 0x80000, tfslots := 1, handler := some (0, 0) }
def trapped : State := { placed (ctl gTrap ctxTrap) with tlb := [leaf0] }
theorem witness_FaultsAndPages_frame : (getThread trapped 0 0).map (fun th => (th.run, th.park)) = some (.parkedFault, .trap 3) ∧ ctxNum trapped 0 = 0 ∧ ctxOf trapped 0 = some ctxTrap ∧ ctxTrap.st = .running ∧
    lowestFree ctxTrap.frames 0 ctxTrap.tfslots.toNat = some 0 ∧ freeInv trapped 0 = some 1 ∧ ctxTrap.handler = some (0, 0) ∧ (findKernel ctxTrap 0 0).isSome = true := by decide +kernel
theorem witness_FaultsAndPages_written : ∃ bs, agentFrame trapped 0 0 9 3 1 0x10000 = some bs ∧ (deviceWriteLong 0 framePages trapped 0x80000 bs).isSome = true :=
  ⟨_, rfl, cached_write_long framePages trapped 0x80000 _ ⟨rfl, rfl⟩ (by decide) (by decide)⟩
theorem witness_FaultsAndPages_fits : let iv := handlerInvoc 0 { base := 0, nlen := 0, secver := 0, kernels := [loadedKernel] } loadedKernel 0 0 (.handler 0 0 0 9 1 0x10000) (trapped.arb + 1)
    noFit { trapped with arb := trapped.arb + 1, invs := tput trapped.invs 1 iv } 1 iv = false := by decide +kernel
/-- A leaf with MH for the second GiB. -/
def mhLeaf : BitVec 64 := BitVec.ofNat 64 (2 ^ 53 + 2 ^ 30 + 0x347)
def ctxMh (r : Tbl Region) (on : Bool) : Ctx := { loadedCtx with heap := { loadedCtx.heap with enabled := on, heapva := 0x40000000, heapn := 2, hapva := 2 ^ 48, regions := r } }
def mhS (c : Ctx) : State := { ctl g0 c with mem := writeNat (ctl g0 c).mem 0x3008 8 mhLeaf.toNat }
theorem mh_peek (m : Memory) (va : Nat) (h1 : entryAt m 0x1000 = 0x2001#64) (h2 : entryAt m 0x2000 = 0x3001#64) (h3 : entryAt m 0x3008 = mhLeaf) (lo : 2 ^ 30 ≤ va) (hi : va < 2 ^ 31) :
    peek m 0x1000 va = some (leafPhys mhLeaf (va / 2 ^ 30 * 2 ^ 30) va, mhLeaf) := by
  have b1 : bits va 48 9 = 0 := by unfold bits; omega
  have b2 : bits va 39 9 = 0 := by unfold bits; omega
  have b3 : bits va 30 9 = 1 := by unfold bits; omega
  have w : walk m 0x1000 va = .leaf (va / 2 ^ 30 * 2 ^ 30) (2 ^ 30) 0x3008 mhLeaf := by
    unfold walk; simp only [b1, b2, Nat.mul_zero, Nat.add_zero, h1]
    rw [if_neg (by decide), if_neg (by decide), show bits (0x2001#64).toNat 12 40 * 4096 = 0x2000 by decide]; simp only [h2]
    rw [if_neg (by decide), if_neg (by decide), show bits (0x3001#64).toNat 12 40 * 4096 = 0x3000 by decide]
    unfold walkMid; simp only [Nat.reduceMul, Nat.reduceAdd, b3, h3]
    rw [if_neg (by decide), if_pos (by decide)]; unfold bigLeaf
    rw [show leafMalformed mhLeaf (30 - 12) = false by decide, show mhLeaf.getLsbD 7 = false by decide]; rfl
  unfold peek; rw [if_pos (by omega), w]
theorem mh_pages (m : Memory) (h1 : entryAt m 0x1000 = 0x2001#64) (h2 : entryAt m 0x2000 = 0x3001#64) (h3 : entryAt m 0x3008 = mhLeaf) :
    ∀ n va, 2 ^ 30 ≤ va → va + 4096 * n ≤ 2 ^ 31 → pagesOk m 0x1000 heapLeaf va n = true
  | 0, _, _, _ => rfl
  | n + 1, va, lo, hi => by
    unfold pagesOk; rw [mh_peek m va h1 h2 h3 lo (by omega), mh_pages m h1 h2 h3 n (va + 4096) (Nat.le_trans lo (Nat.le_add_right va 4096)) (by omega)]; rfl
theorem hap_walk (m : Memory) (h : entryAt m 0x1008 = 0) (va : Nat) (lo : 2 ^ 48 ≤ va) (hi : va < 2 ^ 49) : walk m 0x1000 va = .bad 0 4 := by
  have b1 : bits va 48 9 = 1 := by unfold bits; omega
  unfold walk; simp only [b1, Nat.reduceMul, Nat.reduceAdd, h]; rfl
theorem witness_HeapEvents_enable : let s := mhS (ctxMh [] false)
    getCtx s 0 = some (ctxMh [] false) ∧ (ctxMh [] false).owner = 0 ∧ hasFeature (ctxMh [] false) 3 = true ∧ (ctxMh [] false).st = .running ∧ HeapAccepted s (ctxMh [] false) := by
  refine ⟨by decide +kernel, rfl, by decide, rfl, by decide, by decide, by decide, ?_, ?_, ?_⟩
  · intro a ⟨h1, h2⟩
    have e1 : (ctxMh [] false).heap.heapva.toNat = 2 ^ 30 := by decide
    have e2 : (ctxMh [] false).heap.heapn.toNat = 2 := by decide
    rw [e1] at h1 h2; rw [e2] at h2
    refine ⟨fun h => absurd h.2 (Nat.not_lt_zero _ ∘ Nat.lt_of_lt_of_le h.2 ∘ fun _ => Nat.zero_le _), fun h => ?_, ?_⟩
    · have e3 : (ctxMh [] false).heap.hapva.toNat = 2 ^ 48 := by decide
      rw [e3] at h; omega
    · exact ⟨_, _, mh_peek _ a (by decide +kernel) (by decide +kernel) (by decide +kernel) h1 (by omega), by decide, by decide, by decide⟩
  · intro a h; exact absurd h.2 (Nat.not_lt_zero _)
  · intro i hi; right
    have e3 : (ctxMh [] false).heap.hapva.toNat = 2 ^ 48 := by decide
    exact ⟨4, hap_walk _ (by decide +kernel) _ (by rw [e3]; omega) (by rw [e3]; omega)⟩
theorem witness_HeapEvents_bad : ¬HeapAccepted (mhS (ctxMh [] false)) { ctxMh [] false with heap := { (ctxMh [] false).heap with heapn := 0 } } := fun h => absurd (h.1 rfl) (by decide)
theorem witness_HeapEvents_states : ctxHasTeam (mhS (ctxMh [] false)) 0 = true ∧ ctxHasTeam { mhS (ctxMh [] false) with teams := [] } 0 = false ∧ movingCount (ctxMh [] false).heap = 0 ∧ (ctxMh [] true).heap.enabled = true ∧
    (∀ e ∈ (mhS (ctxMh [] false)).pages, e.2.mbstat.getLsbD 8 = false ∧ e.2.dbgcmd = none ∧ e.2.invcmd = .none) ∧ (tget (mhS (ctxMh [] false)).pages 0).isSome = true ∧ getCtx (mhS (ctxMh [] false)) 1 = none := by decide +kernel
/-- Two objects of 16 bytes in region 0, region 1 FREE. -/
def srcRegion : Region := { st := .live, gen := 15, top := 32, large := false, fwd := [], drained := false, leaves := [] }
theorem witness_HeapEvents_evacuate : let c := ctxMh [(0, srcRegion)] true
    planOf (mhS c) c 0 0 = .inl ([(0, 16, true), (16, 16, true)], some 1) ∧ movingCount c.heap < 4 ∧ (getRegion c.heap 0).st = .live ∧ (getRegion c.heap 0).large = false ∧ (0 : Nat) < c.heap.heapn.toNat := by
  refine ⟨?_, by decide +kernel, by decide, by decide, by decide⟩
  have r : ∀ g, g < 2 → regionMapped (mhS (ctxMh [(0, srcRegion)] true)) (ctxMh [(0, srcRegion)] true) g = true := by
    intro g hg
    have hb : (ctxMh [(0, srcRegion)] true).heap.heapva.toNat = 2 ^ 30 := by decide
    have hr : regionBase (ctxMh [(0, srcRegion)] true).heap g = 2 ^ 30 + g * 2 ^ 21 := by unfold regionBase; rw [hb]
    unfold regionMapped regionPages; rw [hr]
    exact mh_pages _ (by decide +kernel) (by decide +kernel) (by decide +kernel) _ _ (by omega) (by omega)
  have o : (planObjects (mhS (ctxMh [(0, srcRegion)] true)) 0x1000 (regionBase (ctxMh [(0, srcRegion)] true).heap 0) (getRegion (ctxMh [(0, srcRegion)] true).heap 0).top 131072 0).bind
      (markLive (mhS (ctxMh [(0, srcRegion)] true)) 0x1000 (ctxMh [(0, srcRegion)] true).heap.hlive.toNat) = some [(0, 16, true), (16, 16, true)] := by decide +kernel
  have f : firstFree (ctxMh [(0, srcRegion)] true).heap 0 ((ctxMh [(0, srcRegion)] true).heap.heapn.toNat - 0) = some 1 := by decide +kernel
  unfold planOf; simp only [r 0 (by decide), show (ctxMh [(0, srcRegion)] true).root = 0x1000 from rfl, o, f, r 1 (by decide)]; rfl
theorem mem_upFrom (d : Nat) : ∀ n a, a ≤ d → d < a + n → d ∈ upFrom a n
  | 0, a, h, h' => by omega
  | n + 1, a, h, h' => by
    unfold upFrom
    by_cases e : d = a
    · rw [e]; exact List.mem_cons_self ..
    · exact List.mem_cons_of_mem _ (mem_upFrom d n _ (by omega) (by omega))
theorem witness_HeapEvents_evacuate_errors : let c := ctxMh [(0, srcRegion)] true
    (∀ va, tampered (mhS c) c va = false) ∧ (getRegion c.heap 0).top ≤ 2 ^ 21 ∧ planOf (ctl g0 c) c 0 0 = .inr 2 ∧
    (let full := { c with heap := { c.heap with regions := [(0, { srcRegion with top := 0 }), (1, { srcRegion with leaves := [(2 ^ 18, (0, 0x3008))] })] } }
     (∃ va ∈ planPages full 0 1, tampered (mhS full) full va = true) ∧ 0 < movingCount { full.heap with regions := [(0, { srcRegion with st := .evacuating })] }) := by
  exact ⟨fun va => rfl, by decide, by decide +kernel, ⟨2 ^ 30, List.mem_append_left _ (List.mem_append_left _ (List.mem_map.mpr ⟨0, mem_upFrom 0 regionPages 0 (Nat.le_refl _) (by decide), by decide⟩)), by decide +kernel⟩, by decide⟩
theorem witness_HeapEvents_copy : let r := getRegion heap0 2
    let clean := { ctxHeap with heap := { heap0 with regions := [(2, { r with fwd := [(0, { (tgetD r.fwd 32 ⟨.copied, 0, 0, 0⟩) with st := .copied })] })] } }
    r.st = .evacuating ∧ (¬∀ e ∈ r.fwd, e.2.st ≠ .notCopied ∧ e.2.st ≠ .copying) ∧ (∀ e ∈ (getRegion clean.heap 2).fwd, e.2.st ≠ .notCopied ∧ e.2.st ≠ .copying) ∧
    (tget r.fwd 0).map (·.st) = some .notCopied ∧ pinOf (heapS gHeap) 0x1000 0x800000 = some 0 ∧ (∀ e ∈ r.fwd, e.2.st = .notCopied → tampered (heapS gHeap) ctxHeap (0x800000 + e.1) = false) ∧ pinOf (heapS gHeap) 0x1000 0x800080 ≠ some 0 ∧
    (∀ e ∈ r.fwd, e.2.st = .notCopied → pinOf (heapS gHeap) 0x1000 (0x800000 + e.1) = some 0 → copiedBefore e (0, tgetD r.fwd 0 ⟨.copied, 0, 0, 0⟩) = false) ∧
    tampered (heapS gHeap) ctxHeap 0x800000 = false ∧ tampered (heapS gHeap) ctxHeap (0x800000 + 96) = false ∧ (tget r.fwd 96).map (fun f => (f.st, f.newAddr)) = some (.copying, 0x400000) ∧ planRead (heapS gHeap) 0x1000 (0x800000 + 96) 4 = some 0 ∧
    (match caretakerSpan 0 .read 514 (heapS gHeap) (0x800000 + 96) 16 with | (s1, some _) => (caretakerSpan 0 .write 514 s1 0x400000 16).2.isSome | _ => false) = true := by decide +kernel
theorem witness_HeapEvents_sweep : let r := { getRegion heap0 2 with st := RegSt.relocated, leaves := [(2048, (leafKey (BitVec.ofNat 64 (2 ^ 53 + 0x30F)), 0x3000))] }
    r.st = .relocated ∧ leavesChanged (tables (heapS gHeap)) 0x1000 r = false ∧ gHeap.txn = none ∧ (gHeap.h.map (·.1)).Nodup := by decide +kernel
theorem witness_HeapEvents_reserve : let iv := { loadedInv with st := .waitSpace, results := [(3, .heap 8 0x50000)] }
    let s := ctl gHeap ctxHeap iv
    getInv s 0 = some iv ∧ lget { iv with reserved := 1 }.results 1 = none ∧ iv.results.length = iv.reserved + 1 ∧
    s.hub.rebuilding = false ∧ (deviceMay s 0 0x50000).2 = true ∧ (match (heapAlloc (deviceMay s 0 0x50000).1 (hubAsker 0) 8).2 with | .made _ => true | _ => false) = true := by decide +kernel

/-! ### Hypotheses of the scheduling and event statements -/

/-- Invocation 0 is PLACING with its one team not yet placed, invocation 1 DISPATCHABLE at a higher priority. -/
def invPlace : Invoc := { loadedInv with st := .placing, nextTeam := 0 }
def invReady : Invoc := { loadedInv with st := .dispatchable, nextTeam := 0, prio := 7, order := 1 }
def sched (gated : Bool) : State := let s := placed (ctl g0)
  { s with teams := [], invs := [(0, invPlace), (1, invReady)], clusters := tmap s.clusters fun _ x => { x with gated := gated } }
theorem mayPlace_sched (b : Bool) : MayPlace (sched b) invPlace ∧ MayPlace (sched b) invReady := by unfold MayPlace; cases b <;> decide +kernel
theorem witness_Scheduling_select : (1, invReady) ∈ (sched false).invs ∧ 1 / 4096 = 0 ∧ invReady.st = .dispatchable ∧ effPrio { invReady with aged := 7 } = 7 ∧
    (∀ e ∈ (sched false).invs, e.1 / 4096 = 0 ∧ e.2.st = .dispatchable → e.1 = 1 ∨ effPrio e.2 < effPrio invReady ∨ effPrio e.2 = effPrio invReady ∧ invReady.order < e.2.order) ∧
    ages (sched false) 1 { invReady with prio := 0 } = true := by decide +kernel
theorem witness_Scheduling_place : nextUnit (sched false) 0 invPlace = some [[0]] ∧ invPlace.kind = .launch ∧ invPlace.tile = false ∧ getTeam (sched false) (teamKey 0 0) = none ∧ (getCtx (sched false) 0).isSome = true ∧
    ((planUnit (sched false) (sched false) 0 invPlace [[0]]).map fun l => (l.map (·.1), l.map fun p => clusterGated (sched false) p.2.1.cluster)) = some ([0], [false]) ∧
    ((planUnit (sched true) (sched true) 0 invPlace [[0]]).map fun l => l.map fun p => clusterGated (sched true) p.2.1.cluster) = some [true] := by decide +kernel
/-- A saved team with a group READY. -/
def savedS : State := let s := placed (ctl { g0 with th := { g0.th with run := .ready } })
  { s with invs := [(0, { invPlace with nextTeam := 1 })], teams := [(0, { team1 { g0 with th := { g0.th with run := .ready } } q0 with saved := true })] }
theorem witness_Scheduling_restore : (nextUnit savedS 0 { invPlace with nextTeam := 1 }).isSome = true ∧
    ((planUnit savedS savedS 0 { invPlace with nextTeam := 1 } [[0]]).map fun l => (l.map (·.1), l.map fun p => clusterGated savedS p.2.1.cluster)) = some ([0], [false]) ∧ (getTeam savedS (teamKey 0 0)).isSome = true := by decide +kernel
def gDone : Group := { g0 with th := { g0.th with run := .retired } }
theorem witness_Scheduling_retire : let s := ctl gDone
    (getTeam s 0).map (fun t => (t.inv, t.saved, t.ops, t.groups.all fun g => g.th.run = .retired)) = some (0, false, [], true) ∧ getInv s 0 = some loadedInv ∧ loadedInv.st = .running ∧ loadedInv.again = [] ∧ loadedInv.teams ≤ loadedInv.nextTeam := by
  decide +kernel
theorem witness_Scheduling_alone : ∀ e ∈ (sched false).invs, ¬(e.2.st = .placing ∧ e.1 ≠ 0) := by decide +kernel
theorem witness_Scheduling_rival : let s := { sched false with invs := [(0, invPlace), (1, { invReady with st := .placing })] }
    MayPlace s { invReady with st := .placing } ∧ Precedes { invReady with st := .placing } invPlace ∧ (nextUnit s 1 { invReady with st := .placing }) = some [[0]] ∧
    ((planUnit s s 1 { invReady with st := .placing } [[0]]).map (·.isEmpty)) = some false := by unfold MayPlace Precedes; decide +kernel
theorem witness_Scheduling_complete : let iv := { loadedInv with st := .draining, ccell := 0x20008, ctag := 5 }
    let s := ctl g0 (iv := iv)
    getInv s 0 = some iv ∧ s.hub.rebuilding = false ∧ iv.mark = none ∧ iv.badTile = false ∧ iv.ccell.toNat % 8 = 0 ∧ (deviceWrite s 0 iv.ccell.toNat (natBytes (iv.ctag.toNat % 2 ^ 32 * 2 ^ 32) 8)).isSome = true ∧
    { iv with ccell := 0, mark := some (6, 0, 9, 0) }.mark = some (6, 0, 9, 0) ∧ { iv with badTile := true }.badTile = true := by decide +kernel

/-- A team of priority 0 that fills the one share of its cluster, and an invocation of priority 7 that waits: the partition is cluster 0, its cores 1 to 7 withdrawn. -/
def crowd : State := let s := placed (ctl gDone)
  { s with clusters := tmap s.clusters fun c x => { x with part := if c = 0 then some 0 else none }, parts := tmod s.parts 0 (fun x => { x with cfg := { x.cfg with clusters := [0] } }), invs := [(0, loadedInv), (1, { invReady with spad := 128 })],
           teams := (upFrom 0 8).map fun n => (n, { team1 g0 q0 with target := { (loadedTeam .nop).target with core := n } }) }
def fitsOf (iv : Invoc) (ks : List Nat) : Bool := (planUnit crowd (withoutTeams crowd ks) 1 iv [[0]]).isSome
theorem witness_Preemption_victims : MayPlace crowd { invReady with spad := 128 } ∧ nextUnit crowd 1 { invReady with spad := 128 } = some [[0]] ∧ fitsOf { invReady with spad := 128 } [] = false ∧
    chooseVictims (fitsOf { invReady with spad := 128 }) (fun e => preemptSet crowd e.2) (victims crowd 1 { invReady with spad := 128 }) [] = some [[0]] ∧
    chooseVictims (fitsOf { invReady with spad := 128, prio := 0 }) (fun e => preemptSet crowd e.2) (victims crowd 1 { invReady with spad := 128, prio := 0 }) [] = none := by unfold MayPlace; decide +kernel
theorem witness_Preemption_held : let s := { ctl g0 with teams := [(0, { team1 (gTxn 8) q0 with preempt := true })] }
    (getTeam s 0).map (fun t => (t.preempt, t.saved, t.groups.any fun g => g.txn.isSome)) = some (true, false, true) ∧ (∀ e ∈ s.clusters, e.2.rebuilding = false) := by decide +kernel
theorem witness_Preemption_save : let q := { q0 with th := { q0.th with run := .retired } }
    let s := { ctl g0 with teams := [(0, { team1 { g0 with block := some { b0 with forced := true } } q with preempt := true })] }
    (getTeam s 0).map (fun t => (t.preempt, t.saved, t.ops)) = some (true, false, []) ∧ groupStopped s (ctxNum s 0) { g0 with block := some { b0 with forced := true } } = true ∧ seqStopped s (ctxNum s 0) q = true ∧
    ((lget (team1 (gTxn 8) q).groups 0).map fun g => g.txn.isSome) = some true ∧ ((lget (team1 { g0 with block := some b0 } q).groups 0).map fun g => g.block.isSome) = some true := by decide +kernel
def bell15 (exp arr : Nat) : Bell := { counting := true, ph := 7, exp := exp, arr := arr, by' := [0], last := 0 }
def sig15 : Signal := { ctx := 0, inv := 0, tidx := 0, bell := 15, fromCtx := 0, fromPart := 0, fromInv := 1, fromTidx := 0, r0 := 1, r1 := 2 }
def sigS (c : Ctx) (x : Bell) : State := { world c loadedInv { team1 g0 q0 with bells := lset (team1 g0 q0).bells 15 x } (.ctl 0 0) with signals := [sig15] }
theorem witness_SignalsAndWatches_apply : let s := sigS loadedCtx (bell15 2 0)
    lget s.signals 0 = some sig15 ∧ s.hub.rebuilding = false ∧ loadedCtx.part = sig15.fromPart ∧ loadedInv.ctx = sig15.ctx ∧ (getTeam s (teamKey (invKey 0 0) 0)).map (fun t => (t.saved, t.inv)) = some (false, 0) ∧
    getInv s 0 = some loadedInv ∧ (tget s.clusters 0).map (·.rebuilding) = some false ∧ getBell s 0 15 = some (bell15 2 0) ∧ (bell15 2 0).arr + 1 < (bell15 2 0).exp ∧
    getBell (sigS loadedCtx (bell15 1 0)) 0 15 = some (bell15 1 0) ∧ (bell15 1 0).exp ≤ (bell15 1 0).arr + 1 ∧ traceOn (sigS loadedCtx (bell15 1 0)) 0 9 = false ∧
    getBell (sigS loadedCtx { bell15 0 0 with counting := false }) 0 15 = some { bell15 0 0 with counting := false } ∧
    (tget ({ s with clusters := tmap s.clusters fun _ x => { x with rebuilding := true } }).clusters 0).map (·.rebuilding) = some true ∧
    getTeam { s with teams := [] } (teamKey (invKey 0 0) 0) = none ∧ getCtx { s with ctxs := [] } 0 = none := by decide +kernel
/-- A group that watches two words, the first of which is satisfied. -/
def watch2 (t : Word) : Watch := { vec := true, pd := 2, size := 8, cond := 0, items := [(0, 0x20000, 0), (1, 0x20008, 1)], timeout := t, last := [], lines := [0x800], due := false }
def gWatch (w : Watch) : Group := { vec 11 with th := { g0.th with run := .waitMem w } }
theorem watching (w : Watch) : Watching (ctl (gWatch w)) (ctlX (gWatch w)) w := ⟨⟨team1 (gWatch w) q0, rfl, rfl⟩, rfl, rfl, rfl⟩
theorem witness_SignalsAndWatches_evaluate : let x := ctlX (gWatch (watch2 9))
    ((watchReads (asker x) 8 0 true (watch2 9).items (ctl (gWatch (watch2 9)))).map (·.2)) = some [(0, true), (1, false)] ∧
    ((watchReads (asker x) 8 0 true [(0, 0x20000, 0)] (ctl (gWatch (watch2 9)))).map (·.2)) = some [(0, true)] ∧ (watch2 9).timeout ≠ BitVec.allOnes 64 ∧
    (watch2 (BitVec.allOnes 64)).timeout = BitVec.allOnes 64 ∧ (gWatch (watch2 9)).th.halted = false ∧ (watch2 9).due = false ∧ (∀ e ∈ (watch2 9).items, inWindow e.2.1.toNat = false) ∧
    { watch2 9 with due := true }.due = true := by decide +kernel
/-- The second GiB mapped by a leaf with NS. -/
def nsS (g : Group) : State := { ctl g with mem := writeNat (ctl g).mem 0x3008 8 (2 ^ 53 + 2 ^ 30 + 0x31F) }
/-- The second watched word lies there. -/
theorem witness_SignalsAndWatches_slow : let w := { watch2 9 with items := [(0, 0x20000, 1), (1, 0x40000000, 0)] }
    let s := nsS (gWatch w)
    let q := asker (ctlX (gWatch w))
    lget w.items 1 = some (1, 0x40000000, 0) ∧ (watchReads q 8 0 true (w.items.take 1) s).map (·.2) = some [(0, false)] ∧
    ((watchReads q 8 0 true (w.items.take 1) s).map fun r => (findOne q r.1 0x40000000 8 1 false).isNone && (findOne q r.1 0x40000000 8 1 true).isSome) = some true := by decide +kernel

def slotDeliver (mc : Bool) : Slot := { readSlot with multicast := mc }
/-- Its next element lies in the second GiB, which is mapped by a leaf with NS, or not at all. -/
def slotHigh : Slot := { readSlot with base := 0x40000000 }
theorem witness_EngineEvents_deliver : let g := gStream (slotDeliver false)
    let cx := ctlX g
    let n := (slotDeliver false).pos + (slotDeliver false).ahead.length
    (getTeam (ctl g) 0).map (·.saved) = some false ∧ cxFor (ctl g) 0 0 = some cx ∧ lget g.slots 0 = some (slotDeliver false) ∧ (slotDeliver false).st = .read ∧ (slotDeliver false).desc.dir ≠ 2 ∧ (slotDeliver false).blocked = none ∧
    n < (slotDeliver false).len ∧ (makeRoom cx.kn g 0).map (·.slots) = some g.slots ∧ (readElem (engine cx) (putGroup (ctl g) 0 0 g) (streamAddr (slotDeliver false) n) 64 0 false).isSome = true ∧
    (match resolve (ctl (gStream slotHigh)) (engine cx) (BitVec.ofNat 64 (streamAddr slotHigh n / 8)) 8 .read 0 with | (_, .bad _) => true | _ => false) = true ∧ slotHigh.wanted = false ∧
    (findOne (engine cx) (nsS (gStream slotHigh)) (BitVec.ofNat 64 (streamAddr slotHigh n / 8)) 8 0 false).isNone = true ∧ (findOne (engine cx) (nsS (gStream slotHigh)) (BitVec.ofNat 64 (streamAddr slotHigh n / 8)) 8 0 true).isSome = true := by
  decide +kernel
theorem witness_EngineEvents_multicast : let recv := { readSlot with desc := desc1 2 true }
    let g := { vec 11 with slots := [slotDeliver true, recv, idleSlot, idleSlot] }
    let s := ctl g
    allBound s 0 (slotDeliver true) = true ∧ receivers s 0 (slotDeliver true) 2 = [(0, 0, 1)] ∧
    ((roomEverywhere loadedKernel ((0, 0, 0) :: receivers s 0 (slotDeliver true) 2) s).bind fun s1 => readElem (engine (ctlX g)) s1 (streamAddr (slotDeliver true) 2) 64 0 false).isSome = true ∧
    allBound (ctl (gStream (slotDeliver true))) 0 (slotDeliver true) = false := by decide +kernel
def withOps (s : State) (l : List EngOp) : State := { s with teams := tmod s.teams 0 fun t => { t with ops := l } }
theorem witness_EngineEvents_copy : let held := { copyOp with held := some (5, false) }
    let s := withOps (ctl g0) [copyOp]
    let s2 := withOps (ctl g0) [held]
    let n := cpyUnit 0x40000 0x41000 64
    getOp s 0 0 3 = some copyOp ∧ copyOp.pos < 64 / n ∧ (carryOne (engAsker s 0 copyOp) s 0x41000 n).isSome = true ∧ getOp s2 0 0 3 = some held ∧
    (stageOne (engAsker s2 0 held) s2 0x40000 n).map (fun r => poisoned r.1 r.2 n) = some false ∧
    (match resolve (withOps (ctl gHeap ctxHeap) [copyOp]) (engAsker s 0 copyOp) 0x2000000 8 .read 0 with | (_, .bad (.trap ..)) => true | _ => false) = true ∧ engTotal { copyOp with pos := 64 } ≤ 64 := by decide +kernel
theorem witness_EngineEvents_tile : let op := fun (k : EngKind) (h : Option (Nat × Bool)) => ({ agent := 16, tok := 7, kind := k, pos := 0, parked := false, cover := [], held := h, pc := 0x10000 } : EngOp)
    let ld := fun (hs : Bool) => op (.tld (rec1 11 0 0) 0x40000 11 [(0, 0)] hs)
    let st := op (.tst (rec1 11 0 0) 0x40000 11 [(0, 5)] [(0, 6)]) none
    let s := withOps (seq q0) [ld true none]
    let s2 := withOps (seq q0) [st]
    getOp s 0 16 7 = some (ld true none) ∧ fmtWidth 11 = 64 ∧ (carryElem (engAsker s 0 (ld true none)) s (8 * 0x40000 + recElem (rec1 11 0 0) 0 0 * 64) 64).isSome = true ∧
    ((carryElem (engAsker s 0 (ld true none)) s (8 * 0x40000) 64).bind fun r => carryOne (engAsker s 0 (ld true none)) r.1 (BitVec.ofNat 64 ((rec1 11 0 0).toNat / 2 ^ 128 % 2 ^ 57)) 2).isSome = true ∧
    (getTeam s (recTeam s 0 (rec1 11 0 0))).isSome = true ∧
    getOp s2 0 16 7 = some st ∧ s2.poison = [] ∧ hsWaits s2 0 (team1 g0 q0) st = false ∧ (stageElem (engAsker s2 0 st) s2 (8 * 0x40000 + 0 * 64) 64 5).isSome = true ∧
    (stageElem (engAsker s2 0 st) s2 (8 * ((rec1 11 0 0).toNat / 2 ^ 128 % 2 ^ 57)) 16 6).isSome = true := by decide +kernel
def gEmul : Group := { g0 with th := { g0.th with run := .parkedEmul (encode (.extensionOpcode 1 3 4 5 6)) } }
theorem witness_EngineEvents_emulate : cxFor (ctl gEmul) 0 0 = some (ctlX gEmul) ∧ decode (encode (.extensionOpcode 1 3 4 5 6)) = some (.extensionOpcode 1 3 4 5 6) ∧ gEmul.txn = none := by decide +kernel
theorem witness_MessageEvents_covers : coversAll (upFrom 0 8192) = true := by
  have h : ∀ d, d < 8192 → (upFrom 0 8192).contains d = true := fun d hd => List.contains_iff_mem.mpr (mem_upFrom d 8192 0 (Nat.zero_le _) (by omega))
  unfold coversAll; rw [h thisDevice Config.deviceNumber.isLt, Bool.true_and, List.all_eq_true]
  intro d hd; rw [List.contains_iff_mem.mpr hd, Bool.or_true]
/-- A message of job 1 this device sent to itself, for handler 255. -/
def msg1 : Msg := { dst := thisDevice, src := thisDevice, job := 1, hidx := 255, len := 0, seq := 0, payload := [] }
def ctxMsg : Ctx := { ctxObj with msgTable := 0x7000 }
/-- Its table entry: valid, object 0, kernel 0, priority 7, 128 scratchpad units. -/
def arriving : State := let s := placed (ctl g0 ctxMsg)
  { s with jobs := [(1, job1)], unacked := [{ msg := msg1, resent := true, queried := true, stranded := false }], mem := writeNat s.mem 0x7FF0 8 (1 + 7 * 2 ^ 24 + 128 * 2 ^ 32), waves := [(1, { id := 9, i1 := 5, c1 := 5, i2 := 5, c2 := 5, d := false, first := upFrom 0 8192, second := upFrom 0 8192, ok := true })] }
theorem witness_MessageEvents_arrival : mayArrive arriving msg1 = true ∧ (arriving.seen.any fun e => e.1 = msg1.src && e.2.1 = 1 && e.2.2.1 = 0) = false ∧ mustWait arriving msg1 arriving.rxbuf = false ∧ tget arriving.jobs 1 = some job1 ∧
    getCtx arriving 0 = some ctxMsg ∧ liveHandlers arriving 0 < 1024 ∧ freeInv arriving 0 = some 1 ∧ ctxMsg.st = .running ∧ ctxMsg.msgTable ≠ 0 ∧
    ((deviceRead arriving 0 (0x7000 + 16 * 255) 16).2.map fun bs => (bits (bytesNat bs) 0 8, bits (bytesNat bs) 24 8, bits (bytesNat bs) 32 16)) = some (1, 7, 128) ∧ (findKernel ctxMsg 0 0).isSome = true := by
  refine ⟨?_, rfl, rfl, rfl, by decide +kernel, by decide +kernel, by decide +kernel, rfl, by decide, by decide +kernel, rfl⟩
  have h : thisDevice < 8192 := Config.deviceNumber.isLt
  simp [mayArrive, overtakes, arriving, msg1, h, placed, ctl, world, loadProgram, State.reset]
theorem witness_MessageEvents_fits : let iv : Invoc := { handlerInvoc 0 { base := 0, nlen := 0, secver := 0, kernels := [loadedKernel] } loadedKernel 0 0 (.message msg1 0) (arriving.arb + 1) with job := 1, spad := 128, prio := 7 }
    noFit { arriving with arb := arriving.arb + 1, invs := tput arriving.invs 1 iv } 1 iv = false := by decide +kernel
theorem witness_MessageEvents_buffer : let invs := (upFrom 0 1024).map fun n => (n, { loadedInv with kind := .message msg1 0 })
    1024 ≤ liveHandlers { arriving with invs := invs } 0 ∧ bufferedFlits arriving + flitsOf { msg1 with len := 30 } ≤ 65536 := by decide +kernel
theorem witness_MessageEvents_discarded : (({ arriving with seen := [(thisDevice, 1, 0, true)] }).seen.any fun e => e.1 = msg1.src && e.2.1 = msg1.job && e.2.2.1 = msg1.seq) = true ∧ ({ arriving with jobs := [] }).jobs = [] ∧
    ({ ctxMsg with msgTable := 0 }).msgTable = 0 ∧ (deviceRead (ctl g0 { ctxMsg with msgTable := 0x7F00000000 }) 0 (0x7F00000000 + 16 * 255) 16).2 = none ∧
    ((deviceRead { arriving with mem := (ctl g0).mem } 0 (0x7000 + 16 * 255) 16).2.map fun bs => bits (bytesNat bs) 0 8) = some 0 := by simp [arriving, msg1]; decide +kernel
theorem witness_MessageEvents_report : (arriving.unacked.find? fun u => u.msg.dst = thisDevice && u.msg.job = 1 && u.msg.seq = 0).isSome = true ∧ tget arriving.jobs 1 = some job1 ∧ (arriving.links.map (·.1)).Nodup ∧
    (thisDevice, 1, 0, false) ∈ ({ arriving with seen := [(thisDevice, 1, 0, false)] }).seen ∧ (thisDevice, 1, 0, true) ∉ arriving.seen := by
  refine ⟨by simp [arriving, msg1], rfl, by decide +kernel, List.mem_singleton.mpr rfl, List.not_mem_nil⟩
/-- A device that is not this one. -/
def other : Nat := if thisDevice = 0 then 1 else 0
theorem witness_MessageEvents_remote : other ≠ thisDevice ∧ ([({ msg := { msg1 with dst := other }, resent := true, queried := true, stranded := false } : Unacked)].find? fun u =>
    u.msg.dst = other && u.msg.job = 1 && u.msg.seq = 0).map (·.queried) = some true := by
  refine ⟨?_, by simp [msg1]⟩
  unfold other; split <;> omega
theorem witness_MessageEvents_wave : let g := { g0 with th := { g0.th with run := .waitQuiet 1 8 } }
    let s := ctl g
    (∃ k a t th, getTeam s k = some t ∧ (k, t) ∈ s.teams ∧ t.saved = false ∧ a < 17 ∧ getThread s k a = some th ∧ th.run = .waitQuiet 1 8) ∧
    (tget arriving.waves 1).map (fun w => (w.ok, decide (w.i1 = w.i2), decide (w.c1 = w.c2), decide (w.i2 = w.c2), w.d, w.id)) = some (true, true, true, true, false, 9) ∧ (8 : Nat) < 9 ∧
    (∀ u ∈ arriving.unacked, u.stranded = false) ∧ job1.broken = false ∧ (arriving.teams.map (·.1)).Nodup ∧ coversAll (upFrom 0 8192) = true := by
  refine ⟨⟨0, 0, _, _, rfl, List.mem_cons_self .., rfl, by decide, rfl, rfl⟩, by decide +kernel, by decide, ?_, rfl, by decide +kernel, witness_MessageEvents_covers⟩
  intro u h; rw [List.mem_singleton.mp h]
theorem witness_MessageEvents_visit : thisDevice ∉ ([] : List Nat) ∧ 5 ∉ ([4] : List Nat) ∧ (tget arriving.waves 1).map (·.first) = some (upFrom 0 8192) := ⟨List.not_mem_nil, by decide, rfl⟩

def linkOf (st : LinkSt) : Link := { st := st, retrains := 65535, replays := 2 ^ 32 - 1, lanes := 8, buffer := [(0, 1, 2)], rxNext := 4, crossed := [(thisDevice, 1, 0)] }
theorem witness_LinkEvents : (∀ st ∈ [LinkSt.active, .degraded, .training, .retrain, .failed, .down], (tget ({ arriving with links := [(3, linkOf st)] }).links 3).map (·.st) = some st) ∧ ([(3, linkOf .active)].map (·.1)).Nodup ∧
    ∀ u ∈ arriving.unacked, u.stranded = false := by
  refine ⟨by decide +kernel, by decide, ?_⟩
  intro u h; rw [List.mem_singleton.mp h]

/-- A configuration of partition 1 with the clusters, functions and units that partition 0 does not hold. -/
def cfg1 : PartCfg := { clusters := [47], fns := [32], dramBase := 356, dramUnits := 1, fabric := true, capM := ⟨8, 8, 8⟩, capE := ⟨32, 32, 16⟩ }
def onePart : State := { State.reset with parts := [(0, { cfg := { cfg1 with clusters := [0], fns := [0], dramBase := 0, dramUnits := 356 }, keys := [], nextCtx := 0 })], hub := { State.reset.hub with selfTest := { State.reset.hub.selfTest with memoryOk := true } } }
theorem witness_DeviceEvents_cfg : CfgFits onePart 1 cfg1 ∧ ∀ e ∈ onePart.ctxs, e.2.part ≠ 1 := by
  refine ⟨?_, by decide +kernel⟩
  unfold CfgFits; dsimp only
  exact ⟨by decide, rfl, by decide, by decide, by decide, by decide, by decide, by decide, by decide, by decide, by decide, by decide +kernel⟩
theorem witness_DeviceEvents_misfit : ¬CfgFits onePart 8 cfg1 ∧ cfg1.clusters ≠ [] := ⟨fun h => absurd h.1 (by decide), by decide⟩
theorem witness_DeviceEvents_dissolve : let two : State := { onePart with parts := onePart.parts ++ [(1, { cfg := cfg1, keys := [], nextCtx := 0 })] }
    two.ctxs = [] ∧ (tget two.parts 1).isSome = true ∧ ¬two.parts.length ≤ 1 ∧ onePart.parts.length ≤ 1 ∧ ({ cfg1 with clusters := [] } : PartCfg).clusters = [] := by decide +kernel
theorem witness_DeviceEvents_bound : let s := { onePart with ctxs := [(0, { loadedCtx with part := 0 })] }
    let cfg := { cfg1 with clusters := [0], fns := [0, 1], dramBase := 0, dramUnits := 356 }
    CfgFits s 0 cfg ∧ (∃ e ∈ s.ctxs, e.2.part = 0) ∧ (tget s.parts 0).isSome = true ∧ (∀ e ∈ s.teams, e.2.inv / 4096 = 0 → stranded s 0 cfg e.2 = false) := by
  refine ⟨?_, by decide +kernel, rfl, by decide +kernel⟩
  unfold CfgFits; dsimp only
  exact ⟨by decide, rfl, by decide, by decide, by decide, by decide, by decide, by decide, by decide, by decide, by decide, by decide +kernel⟩
theorem witness_DeviceEvents_cluster : let c := { Cluster.reset 0 with part := some 0, pendingCaps := true, pendingMode := some .half, ungating := true }
    let s := { onePart with clusters := tput onePart.clusters 0 c }
    tget s.clusters 0 = some c ∧ EmptyCluster s 0 ∧ ¬EmptyCluster (ctl g0) 0 ∧ (tget onePart.clusters 0).map (·.ungating) = some false ∧ State.reset.ctxs = [] := by unfold EmptyCluster; decide +kernel

theorem witness_ErrorEvents : let s := ctl g0 ctxFrame
    (getTeam s 0).map (·.saved) = some false ∧ g0.th.run ≠ .retired ∧ g0.th.park = .none ∧ g0.txn = none ∧ (gTxn 7).txn = some (txn 7) ∧ (gTxn 7).th.run ≠ .retired ∧ (gTxn 7).th.park = .none ∧
    (tget ({ s with links := [(3, linkOf .degraded)] }).links 3).isSome = true ∧ (getCore s 5).faults < 3 ∧ 3 ≤ ({ getCore s 5 with faults := 3 } : Core).faults ∧ (getCore s 5).withdrawn = false ∧
    (s.teams.map (·.1)).Nodup ∧ (0 : Nat) = teamKey 0 0 ∧ (getInv s 0).isSome = true ∧ (tget s.clusters 47).isSome = true ∧ ({ Cluster.reset 0 with rebuilding := true }).rebuilding = true ∧ (47 : Nat) < 48 ∧ s.hub.held = [] ∧ s.invs = [(0, loadedInv)] ∧ loadedInv.st = .running ∧ { loadedInv with mark := some (7, 0, 0, 0) }.mark = some (7, 0, 0, 0) ∧
    (∀ e ∈ s.teams, e.2.ops = []) ∧ (4 ≤ ({ Cluster.reset 0 with rebuilds := 4 } : Cluster).rebuilds) ∧ State.reset.invs = [] := by decide +kernel
theorem witness_ErrorEvents_handled : Handled (ctl g0 ctxFrame) 0 := witness_illegal.2

theorem witness_WindowsAndReport : let s := { placed (ctl g0) with ctxs := [] }
    let vf := { s with parts := [(0, { cfg := { clusters := [0], fns := [32], dramBase := 356, dramUnits := 1, fabric := false, capM := ⟨8, 8, 8⟩, capE := ⟨8, 8, 8⟩ }, keys := [], nextCtx := 0 })] }
    (0x50000000 : Nat) + 4 ≤ 384 * 10 ^ 9 ∧ 0x50000000 + 4 ≤ s.hub.pfWindow ∧ 4 ≤ 4096 - 0x50000000 % 4096 ∧ windowRefused 0 (mappers s 0x50000000) = false ∧ fnPart vf 32 = some 0 ∧
    windowRefused 32 (mappers vf (356 * 2 ^ 30 + (2 ^ 30 - 4))) = false ∧ (2 ^ 30 - 4) + 4 ≤ 1 * 2 ^ 30 ∧ (2 ^ 30 - 4) + 4 ≤ 2 ^ 34 ∧ 4 ≤ 4096 - (2 ^ 30 - 4) % 4096 ∧ fnPart vf 3 = none ∧ ¬(2 ^ 39 + 4 ≤ s.hub.pfWindow) ∧
    (∀ e ∈ vf.parts, 32 ∈ e.2.cfg.fns → ∀ e' ∈ vf.parts, 32 ∈ e'.2.cfg.fns → e' = e) ∧
    (let m := { mhS (ctxMh [(0, srcRegion)] true) with parts := s.parts }
     (mappers m 0x40001000).map (fun e => (e.1, e.2.2)) = [(0, true)]) ∧ ((mappers { s with ctxs := [(0, { loadedCtx with st := .dead })] } 0x20000).map fun e => (e.1, e.2.1.st)) = [(0, .dead)] ∧ State.reset.hub.secver < 2 ^ 32 := by decide +kernel
def ctxDbg : Ctx := { loadedCtx with tfslots := 1, trace := { loadedCtx.trace with trbase := 0x100000, trcfg := 0x30C, source := some (0, 0), since := 255 } }
/-- One group and a sequencer that stand still; `h` says whether they are halted. -/
def standing (h : Bool) (th : Thread) : Thread := { th with halted := h, haltReq := !h, byCmd := h }
def dbg (h : Bool) (arg : Word) : State :=
  modPage (world ctxDbg loadedInv (team1 { g0 with th := standing h g0.th } { q0 with th := standing h q0.th }) (.ctl 0 0)) 0 fun p => { p with dbgarg := arg }
theorem witness_Debugging_open : DbgOpen (dbg true 0) 0 (pg (dbg true 0)) 0 ctxDbg := by unfold DbgOpen NoCommand; decide +kernel
theorem witness_Debugging_trace : let t := ctxDbg.trace
    hasFeature ctxDbg 8 = true ∧ t.trcfg.toNat % 32 = 12 ∧ t.trcfg.getLsbD 8 = true ∧ rangeOk (dbg true 0).mem ctxDbg.root (fun l => l.getLsbD 2) t.trbase.toNat (2 ^ 12) = true ∧ (0x0C#64).getLsbD 8 = false ∧ (0x0C#64).getLsbD 9 = false ∧
    (0x10B#64).toNat % 32 = 11 := by decide +kernel
theorem witness_Debugging_dump : rangeOk (dbg true 0x80000).mem ctxDbg.root (fun e => e.getLsbD 2) 0x80000 (64 * 256) = true ∧ (0x80000 : Nat) % 64 = 0 ∧ getTeam (dbg true 0) (dbgKey (pg (dbg true 0)) ctxDbg 5) = none ∧ (getTeam (dbg true 0) (dbgKey (pg (dbg true 0)) ctxDbg 0)).isSome = true ∧ (5 : Nat) < 4096 := by decide +kernel
theorem witness_Debugging_written : (deviceWriteLong 0 8 { dbg true 0x80000 with tlb := [leaf0] } 0x80000 (List.replicate (64 * 256) 0)).isSome = true :=
  cached_write_long 8 _ _ _ ⟨rfl, rfl⟩ (by decide) (by decide)
theorem witness_Debugging_resume : liveAgents (dbg true 0) 0 = [0, 16] ∧ (∀ a ∈ [0, 16], (getThread (dbg true 0) 0 a).map (fun th => (th.halted, th.byCmd, isBrk th.word)) = some (true, true, false)) ∧
    (∀ a ∈ [0, 16], (getThread (dbg false 0) 0 a).map (·.halted) = some false) ∧ (1 : Nat) % 2 ^ 19 ≠ 0 := by decide +kernel
theorem witness_Debugging_in : TeamIn (dbg true 0) 0 0 (team1 { g0 with th := standing true g0.th } { q0 with th := standing true q0.th }) loadedInv := ⟨rfl, rfl, rfl⟩
/-- One halted group alone, resumed from a dump at 1 MiB. -/
def dbgOne : State := modPage (world ctxDbg loadedInv { team1 { g0 with th := standing true g0.th } q0 with seq := none } (.ctl 0 0)) 0 fun p => { p with dbgarg := 0x100000 }
theorem witness_Debugging_dumped : liveAgents dbgOne 0 = [0] ∧ (0x100000 : Nat) % 2 ^ 19 = 0 ∧ rangeOk dbgOne.mem ctxDbg.root (fun e => e.getLsbD 1 && e.getLsbD 2) (0x100000 + 0 * 2 ^ 19) (2 ^ 19) = true ∧
    (match readFrame dbgOne 0 0x100000 0 0 with | (s1, .inl _) => (getGroup s1 0 0).map fun g => (g.th.halted, g.th.byCmd, isBrk g.th.word) | _ => none) = some (true, true, false) := by decide +kernel
theorem witness_Debugging_halt : let s := modPage (dbg false 0) 0 fun p => { p with dbgstat := 0x100, dbgcmd := some { ctx := 0, team := 0, role := none } }
    ((pg s).dbgcmd.map (·.team)) = some 0 ∧ (∀ g ∈ (team1 g0 q0).groups, insideConvoy s 0 g.th = false ∧ g.th.stalled = false) ∧ (team1 g0 q0).ops = [] ∧ copyOp.agent = 0 := by decide +kernel
theorem witness_Debugging_stands : HaltStands (dbg false 0) loadedInv none (team1 { g0 with th := standing false g0.th } q0) ∧ ¬HaltStands (dbg false 0) loadedInv none { team1 g0 q0 with ops := [copyOp] } := by
  refine ⟨⟨fun i g h _ => ?_, fun o h => absurd h (List.not_mem_nil)⟩, fun h => h.2 copyOp (List.mem_singleton.mpr rfl) (fun c e => by cases e)⟩
  match i, h with
  | 0, h => cases h; exact .inr (.inr ⟨by decide +kernel, rfl⟩)
def charge0 : Thread := { g0.th with run := .waitBell 3 }
theorem witness_Debugging_stall : let s := dbg false 0
    ctxDbg.trace.source = some (0, 0) ∧ 255 ≤ ctxDbg.trace.since ∧ ctxDbg.trace.source ≠ some (0, 16) ∧ insideConvoy s 0 charge0 = false ∧ charge0.halted = false ∧ (g0.th.run = .ready ∨ g0.th.run = .running) ∧ ctxDbg.stalls.length < 255 ∧
    (getThread (ctl { g0 with th := charge0 } ctxDbg) 0 0).map (·.run) = some (.waitBell 3) := by decide +kernel
/-- A group that waits on bell 3, which group 0 has not arrived at and is not halted, and the other causes. -/
theorem witness_Debugging_charged : ChargedTo (dbg false 0) 0 (team1 g0 q0) 0 charge0 .bell 0 0 0 0 ∧
    ChargedTo (dbg true 0) 0 (team1 { g0 with th := standing true g0.th } q0) 16 { q0.th with run := .waitBell 3 } .haltDebug 0 0 0 0 ∧
    ChargedTo (dbg false 0) 0 { team1 g0 q0 with ops := [copyOp] } 0 { g0.th with run := .waitToken 8 } .token 0 0 0x10000 0 ∧ ChargedTo (dbg false 0) 0 (team1 g0 q0) 0 g0.th .operand 4 2 4 2 ∧
    ChargedTo (dbg false 0) 0 (team1 g0 q0) 0 { g0.th with run := .waitQuiet 1 8 } .issueUnit 0 0 0 0 := by
  have none : ¬∃ g x, lget (team1 g0 q0).groups 0 = some g ∧ x ∈ g.slots ∧ x.wanted = true := fun ⟨g, x, hg, hx, hw⟩ => by
    cases hg; exact absurd hw (by simpa using (by decide : ∀ x ∈ g0.slots, x.wanted = false) x hx)
  refine ⟨⟨3, _, rfl, ?_, rfl, rfl, rfl⟩, ⟨3, rfl, ⟨0, _, rfl, rfl, fun x h => by cases h; exact List.not_mem_nil⟩, rfl, rfl⟩,
    ⟨8, copyOp, rfl, List.mem_singleton.mpr rfl, rfl, by decide, by decide, rfl, rfl, fun o h _ _ _ => .inr (List.mem_singleton.mp h)⟩, ⟨.inl ⟨.inl rfl, fun h => none h.2.2⟩, rfl, by decide, by decide, rfl, rfl⟩, ⟨.inr (.inr ⟨1, 8, rfl⟩), rfl, rfl⟩⟩
  intro ⟨i, g, h, hh, _⟩
  match i, h with
  | 0, h => cases h; cases hh

/-! ### Hypotheses of the statements about a step -/

/-- The state after reset with ADDI s3, s0, 5 in place, and one whose turn the schedule gives. -/
def placedWord : State := State.reset.withFetchWord 32 (encode (.addi 3 0 5)).toNat
def turnOf (t : Turn) : State := { ctl g0 with agenda := [t] }
theorem witness_StepRunsDecoded_turn : HasTurn placedWord (.ctl 0 0) (tickClock placedWord) ∧ mayIssue { tickClock (turnOf (.issue (.ctl 0 0))) with agenda := [] } (.ctl 0 0) = true := ⟨.inl ⟨rfl, by decide +kernel, rfl⟩, by decide +kernel⟩
theorem witness_StepRunsDecoded_stands : (∃ q, StandsAt (tickClock placedWord) (.ctl 0 0) q loadedPc) ∧ (∃ q, StandsAt (blk g0) (.blk 0 0 0) q loadedPc) ∧ ∃ q, StandsAt (seq q0) (.seq 0) q loadedPc :=
  ⟨⟨_, _, rfl, rfl, rfl⟩, ⟨_, _, _, rfl, rfl⟩, ⟨_, _, rfl, rfl, rfl⟩⟩
/-- The fetch of group 0, and of a group whose word's line another group's transaction wrote. -/
def fetchQ : Asker := { asker (ctlX g0) with glob := true }
theorem witness_StepRunsDecoded_resolve : StandsAt (ctl g0) (.ctl 0 0) fetchQ 0x10000 ∧ (match resolve (ctl g0) fetchQ 0x10000 4 .fetch 0 with | (s2, .at (.glob pa _ leaf)) => some (pa, s2.poison, leaf.getLsbD 6) | _ => none) = some (0x10000, [], false) ∧
    (∀ c, getCtx (ctl g0) 0 = some c → inAperture c 0x10000 = false) ∧
    (let y := { txn 1 with writeLines := [0x400] }
     let s := ctl { g0 with txn := some y }
     ((getGroup s 0 0).bind (·.txn)).map (·.writeLines) = some [0x400] ∧ 0x10000 < 64 * 0x400 + 64 ∧ 64 * 0x400 < 0x10000 + 4) :=
  ⟨⟨_, rfl, rfl, rfl⟩, by decide +kernel, fun c h => by cases h; decide, by decide +kernel⟩
theorem witness_StepRunsDecoded_fetch : loadedPc.toNat % 4 = 0 ∧ loadedPc.toNat < 2 ^ 57 ∧ inWindow loadedPc.toNat = false ∧ (match ctxTranslate (tickClock placedWord) (coreOf (tickClock placedWord) 0) 0 loadedPc.toNat .fetch with
    | (s2, some (.ok pa _ _)) => decode (BitVec.ofNat 32 (readNat s2.mem pa 4)) | _ => none) = some (.addi 3 0 5) ∧ WellFormed (.addi 3 0 5) = true ∧
    decode 0x00000100 = none := by decide +kernel
theorem witness_StepRunsEvents : (turnOf (.event (.powerLimit true))).agenda = [.event (.powerLimit true)] ∧ isEvent (.powerLimit true) = true ∧ (turnOf (.ats 3 true)).agenda = [.ats 3 true] ∧
    (turnOf (.hostWrite (2 ^ 51) [1])).agenda = [.hostWrite (2 ^ 51) [1]] ∧ State.reset.agenda = [] ∧ nextStream (tickClock State.reset) = none := by decide +kernel
theorem witness_StepKeepsCanonical : Canonical placedWord ∧ (match step placedWord with | .next _ => true | _ => false) = true := by
  refine ⟨⟨by decide +kernel, ?_, ?_⟩, by decide +kernel⟩ <;> (unfold Rising; decide +kernel)
theorem witness_Encoded : (∀ i ∈ [Instr.vffma 4 1 2 0, .bra 0x7FFFFF, .atom 8 63 63 63 31 3, .vamo 0 0 0 0 0], isEncoded i = true ∧ WellFormed i = true) ∧ decode 0x4C404203 = some (.vffma 4 1 2 0) := by decide +kernel

/-! ### Hypotheses of the clauses on traps, lookahead and numbers -/

def gOdd : Group := withX g0 [(1, 0x20001), (2, 0x20000)]
theorem handled_ctl (g : Group) : Handled (ctl g ctxFrame) 0 := by
  refine ⟨loadedInv, ctxFrame, rfl, rfl, by decide, ?_⟩
  intro a b d e f g h; cases h
theorem witness_LookaheadHides_scalar : CtlActs (ctl gOdd) (ctlX gOdd) ∧ gOdd.th.wins = [] ∧ (1#6 ≠ 0) ∧ (15#4 ≠ 0) ∧ (2#6 ≠ 0 ∧ 2#6 ≠ 1#6) := ⟨⟨rfl, rfl⟩, rfl, by decide, by decide, by decide, by decide⟩
theorem witness_LookaheadHides_sequencer : SeqActs (seq q0) (seqX q0) ∧ q0.th.wins = [] ∧ (31#6).toNat < 32 := ⟨⟨rfl, rfl⟩, rfl, by decide⟩
theorem witness_LookaheadHides_vector : CtlFree (ctl (vec 2)) (ctlX (vec 2)) ∧ (vec 2).th.wins = [] ∧ VecRegs (vec 2) [7, 0] [1] ∧ vtFmt (vec 2) ≤ 2 := ⟨⟨⟨rfl, rfl⟩, rfl, rfl⟩, rfl, by unfold VecRegs; decide +kernel, by decide +kernel⟩
theorem witness_ScalarLoadsStores_misaligned : CtlActs (ctl gOdd ctxFrame) (ctlX gOdd ctxFrame) ∧ gOdd.txn = none ∧ Handled (ctl gOdd ctxFrame) 0 ∧ ∀ n ∈ [2, 4, 8], (readX gOdd.th 1 + 0 * BitVec.ofNat 64 n).toNat % n ≠ 0 :=
  ⟨⟨rfl, rfl⟩, rfl, handled_ctl gOdd, by decide +kernel⟩
theorem witness_ScalarAtomics_traps : CtlActs (ctl gOdd ctxFrame) (ctlX gOdd ctxFrame) ∧ Handled (ctl gOdd ctxFrame) 0 ∧ 9 ≤ (9#4).toNat ∧ (0#6).toNat = 0 ∧ (63#6).toNat % 2 = 1 ∧
    (∀ z : BitVec 1, (readX gOdd.th 1).toNat % atomBytes z ≠ 0) ∧ (8#4).toNat ≤ 8 ∧ (62#6).toNat ≠ 0 ∧ (62#6).toNat % 2 = 0 := ⟨⟨rfl, rfl⟩, handled_ctl gOdd, by decide +kernel⟩
theorem handled_seq (q : Seq) : Handled (seq q ctxFrame) 0 := by
  refine ⟨loadedInv, ctxFrame, rfl, rfl, by decide, ?_⟩
  intro a b d e f g h; cases h
theorem witness_ControlTransfers_traps : CtlActs (ctl g0 ctxFrame) (ctlX g0 ctxFrame) ∧ Handled (ctl g0 ctxFrame) 0 ∧ SeqActs (seq q0 ctxFrame) (seqX q0 ctxFrame) ∧ Handled (seq q0 ctxFrame) 0 ∧ 32 ≤ (32#7).toNat ∧ 32 ≤ (32#6).toNat :=
  ⟨⟨rfl, rfl⟩, handled_ctl g0, ⟨rfl, rfl⟩, handled_seq q0, by decide, by decide⟩
theorem witness_VectorTraps_registers : let g := { vec 10 with vtype := (vec 10).vtype ||| 0 }
    CtlFree (ctl g ctxFrame) (ctlX g ctxFrame) ∧ Handled (ctl g ctxFrame) 0 ∧ ¬VecRegs { g with vtype := 11 } [63] [63] ∧ VecRegs g [0] [0] ∧ ¬VecRegs (gStream readSlot) [] [4] :=
  ⟨⟨⟨rfl, rfl⟩, rfl, rfl⟩, handled_ctl _, by unfold VecRegs; decide +kernel, by unfold VecRegs; decide +kernel, by unfold VecRegs; decide +kernel⟩
theorem witness_VectorTraps_format : (vtFmt (vec 11) = 11 ∧ ¬vtFmt (vec 11) ≤ 2) ∧ (vtFmt (vec 5) = 5 ∧ ¬8 ≤ elemWidth (vec 5)) ∧ ¬(vtFmt (vec 9) = 10 ∨ vtFmt (vec 9) = 11) ∧ 6 ≤ (6#3).toNat ∧ 10 ≤ (10#4).toNat ∧ (1#6).toNat % 2 = 1 := by decide +kernel
theorem witness_VectorTraps_block : BlkActs (blk (vec 11) ctxFrame) (blkX (vec 11) ctxFrame) [0, 1] loadedPc ∧ Handled (blk (vec 11) ctxFrame) 0 := by
  refine ⟨⟨⟨0, rfl, rfl⟩, by decide +kernel⟩, loadedInv, ctxFrame, rfl, rfl, by decide, ?_⟩
  intro a b d e f g h; cases h
theorem witness_SpecialRegisters_none : CtlActs (ctl g0 ctxFrame) (ctlX g0 ctxFrame) ∧ g0.txn = none ∧ Handled (ctl g0 ctxFrame) 0 ∧
    ∀ n ∈ [0x00B#12, 0x00F#12, 0x019#12, 0x01F#12, 0x023#12, 0xFFF#12], 0x019 ≤ n.toNat ∧ n.toNat < 0x020 ∨ 0x023 ≤ n.toNat ∨ 0x00B ≤ n.toNat ∧ n.toNat < 0x010 := ⟨⟨rfl, rfl⟩, rfl, handled_ctl g0, by decide⟩
theorem witness_SignatureChain_runs : CtlActs (ctl g0) (ctlX g0) ∧ (match exec (.addi 1 1 5) (ctl g0) with | .next t => (getGroup t 0 0).map fun g => (transfers (.addi 1 1 5), g.th.pc, g.th.run) | _ => none) = some (false, 0x10004, .running) ∧ g0.txn = none ∧
    (match exec (.bra 4) (ctl g0) with | .next t => (getGroup t 0 0).map fun g => (g.th.run, g.th.pc) | _ => none) = some (.running, 0x10010) ∧
    (readX g0.th 1).toNat % 4 = 0 ∧ ((getGroup (ctl { g0 with th := { g0.th with run := .waitBell 3 } }) 0 0).map fun g => (waits g.th.run, decide (fld g.th.word 24 8 ≠ 0xBC#8))) = some (true, true) := by
  refine ⟨⟨rfl, rfl⟩, ?_⟩; decide +kernel

/-- FP32 1.5 and 2.25, signalling and quiet NaNs, infinities and zeros; their classes and the rounding of a sum that is not exact. -/
theorem witness_FloatArithmetic : (∀ f, f ≤ 2 → ∀ r, r < 4 → (BitVec.ofNat 64 r).toNat % 8 < 4) ∧ readF 0 0 0x3FC00000 = .num false 0xC00000 (-23) ∧ readF 0 0 0x7FA00000 = .nan true ∧ readF 0 0 0xFFC00000 = .nan false ∧
    readF 1 0 0x7C00 = .inf false ∧ readF 2 0 0xFF80 = .inf true ∧ readF 0 0 0 = .num false 0 (-149) := by decide +kernel
/-- R37: 1.5 + 2.25 is 3.75; R39: the maximum of a NaN and 2.25. -/
theorem test_fadd : fadd 0 0 0x3FC00000 0x40100000 = (0x40700000, 0) ∧ fminmax true 0 0x7FC00000 0x40100000 = (0x40100000, 0) := by decide +kernel
theorem witness_FloatArithmetic_values : rat false 0xC00000 (-23) + rat false 0x900000 (-22) ≠ 0 ∧ rat false 1 0 + rat true 1 0 = 0 ∧ 2 * rat false 1 (-1) = ((1 : Int) : Rat) ∧ rat false 8 0 = pow2 3 ∧ rat false 2 0 = ((2 : Int) : Rat) := by
  decide +kernel
theorem witness_NarrowAndConvert : (∀ f, f ≤ 7 → 0 < 2 ^ (fmtWidth f - 1 - mant f)) ∧ decodeF 3 0x7F = .nan false ∧ decodeF 1 0x7C00 = .inf false ∧ decodeF 0 (0xC0200000 % 2 ^ fmtWidth 0) = .num true 0xA00000 (-22) ∧
    decodeF 0 0x7FA00000 = .nan true ∧ decodeF 0 0xFF800000 = .inf true ∧ decodeF 0 0x80000000 = .num true 0 (-149) ∧ cvtOk 0 10 false = true ∧ decodeF 0 0 = .num false 0 (-149) := by decide +kernel
theorem witness_NarrowAndConvert_whole : ToWhole 0 (rat true 5 (-1)) (-2) False ∧ ToWhole 1 (rat false 6 (-1)) 3 True := by
  refine ⟨⟨2, ?_, ?_, ?_⟩, ⟨3, ?_, ?_, ?_⟩⟩ <;> (try unfold Rounded towardZero) <;> (try dsimp only) <;> decide +kernel
theorem witness_NarrowAndConvert_block : let x := FV.num false 3 (-1)
    (∀ y ∈ [x, .num true 1 0], ∃ s m e, y = FV.num s m e) ∧ pow2 0 ≤ mag (rat false 3 (-1)) ∧ mag (rat false 3 (-1)) < pow2 (0 + 1) ∧ mag (rat true 1 0) ≤ mag (rat false 3 (-1)) ∧ rat false 3 (-1) ≠ 0 := by
  refine ⟨fun y h => ?_, ?_, ?_, ?_, ?_⟩
  · rcases List.mem_cons.mp h with h | h
    · exact ⟨_, _, _, h⟩
    · exact ⟨_, _, _, List.mem_singleton.mp h⟩
  all_goals decide +kernel
theorem witness_MatrixArithmetic : let p := FV.num false 9 0
    ([p] ≠ [] ∧ [p].length ≤ 8 - 7 % 8 ∧ 8 - 7 % 8 < [p, p].length) ∧ formatWordOk 0x33 false = true ∧ formatWordOk 0x3 false = false ∧ (pow2 3 ≤ mag (rat false 9 0) ∧ mag (rat false 9 0) < pow2 (3 + 1)) ∧
    (∀ q ∈ [p], ∃ a m e, q = FV.num a m e) := by
  refine ⟨by decide, by decide +kernel, by decide +kernel, by decide +kernel, fun q h => ⟨_, _, _, List.mem_singleton.mp h⟩⟩

/-! ### Further hypotheses of the command statements -/

theorem witness_ContextCommands_first : let s := modPage { placed State.reset with mem := (ctl g0).mem } 0 fun p => { p with mbarg := [0x1000, 5, 0x8000, 0x3FFF8001] }
    (MbFree s 0 (pg s) ∧ s.ctxs = [] ∧ lowestFree s.ctxs 0 1024 = some 0 ∧ fnPart s 0 = some 0 ∧ createArgsOk s (pg s) = true) ∧ (¬∀ k, k ≤ Config.asidCount.toNat → ¬∀ e ∈ s.ctxs, e.2.asid = Config.asid k → e.2.st = .dead) := by
  refine ⟨by unfold MbFree; decide +kernel, fun h => h 0 (Nat.zero_le _) fun e he => ?_⟩
  cases he
theorem witness_ContextCommands_bound : let s := mb [0x1000, 0, 0x8000, 0x8000]
    (∃ e ∈ s.ctxs, e.2.pasid = (argOf (pg s) 1).toNat % 2 ^ 20 ∧ e.2.st ≠ .dead) ∧ createArgsOk (mb [0x1001, 5, 0x8000, 0x8000]) (pg (mb [0x1001, 5, 0x8000, 0x8000])) = false := by decide +kernel
theorem witness_NoCommand : NoCommand (mb []) 0 ∧ NoMigrate (mb []) 0 ∧ ¬NoCommand (modPage (mb []) 1 fun p => { p with invstat := 0x100, invcmd := .invalidate 0 false }) 0 := by unfold NoCommand NoMigrate; decide +kernel
theorem witness_ContextCommands_busy : let s := modPage (mb []) 0 fun p => { p with mbstat := 0x100 }
    (tget s.pages 0).isSome = true ∧ (pg s).mbstat.getLsbD 8 = true := by decide +kernel
theorem witness_ContextCommands_install : (match ctxTranslate (mb []) hubCore 0 0x50000 .read with | (_, some (.ok pa _ _)) => some (pa, decide (pa % 4096 + 8 ≤ 4096), decide (pa < 2 ^ 52)) | _ => none) = some (0x50000, true, true) ∧ (0x50000 : Nat) % 4096 + 8 ≤ 4096 := by decide +kernel
theorem witness_QueueControl_rising : Rising (recS []).ctxs ∧ (∀ e ∈ (recS []).ctxs, Rising e.2.queues) := by unfold Rising; decide +kernel
theorem witness_QueueControl_rebuilding : ({ recS [] with hub := { (recS []).hub with rebuilding := true } }).hub.rebuilding = true := rfl

/-- A context whose error queue of 32 slots holds `n` records, with `d` dropped. -/
def ctxErr (n : Nat) (d : Nat) (base : Word) : Ctx := { loadedCtx with eq := { base := base, logn := 5, head := 0, tail := BitVec.ofNat 32 n, dropped := d, closed := false } }
theorem witness_ErrorQueueRecords : getCtx (ctl g0 (ctxErr 31 0 0x30000)) 0 = some (ctxErr 31 0 0x30000) ∧ 2 ^ (ctxErr 31 0 0x30000).eq.logn < ((ctxErr 31 0 0x30000).eq.tail - (ctxErr 31 0 0x30000).eq.head).toNat + 2 ∧
    ((ctxErr 30 2 0x30000).eq.tail - (ctxErr 30 2 0x30000).eq.head).toNat + 2 ≤ 2 ^ (ctxErr 30 2 0x30000).eq.logn ∧ 0 < (ctxErr 30 2 0x30000).eq.dropped ∧
    (deviceWrite (ctl g0 (ctxErr 30 0 0x30000)) 0 (0x30000 + 64 * 30) (List.replicate 64 0)).isSome = true ∧ (deviceWrite (ctl g0 (ctxErr 30 0 (2 ^ 50))) 0 (2 ^ 50 + 64 * 30) (List.replicate 64 0)).isNone = true ∧
    ({ ctxErr 0 0 0 with eq := { (ctxErr 0 0 0).eq with closed := true } }).eq.closed = true ∧ (match ctxTranslate (ctl g0) hubCore 0 0x30000 .write with | (_, some (.ok pa _ _)) => pa | _ => 0) = 0x30000 := by decide +kernel
theorem witness_RegisterReads : let s := modPage (ctl g0 { loadedCtx with owner := 1 }) 0 fun p => { p with qsel := 0 }
    (tget s.pages 0).isSome = true ∧ bits (pg s).qsel.toNat 16 10 = 0 ∧ getCtx s 0 = some { loadedCtx with owner := 1 } ∧ (getCtx (ctl g0) 0).map (·.owner) = some 0 ∧ bits (pg s).dbgsel.toNat 48 10 = 0 ∧
    (tget State.reset.links 15).map (fun l => decide (l.lanes < 16)) = some true ∧ (queueOf 1 .full 0 4).last < 3 ∧ srcRegion.top ≤ 2 ^ 21 ∧ srcRegion.gen < 16 ∧ getCtx State.reset 0 = none := by decide +kernel

def fqState (c : Ctx) (rebuilding : Bool) : State := { ctl gPark c with clusters := tmap (ctl gPark c).clusters fun _ x => { x with rebuilding := rebuilding } }
theorem witness_FaultsAndPages_held : let c := ctxFq [] (.agent 0 0)
    rebuildHolds (fqState c true) (fent (.agent 0 0)) = true ∧ rebuildHolds (fqState c false) (fent (.agent 0 0)) = false ∧ rebuildHolds { ctl g0 with hub := { (ctl g0).hub with rebuilding := true } } (fent (.board 0 0)) = true ∧
    loadedInv.order = 0 ∧ ({ loadedInv with order := 1 }).order ≠ 0 := by decide +kernel
theorem witness_FaultsAndPages_through : let p := (pg (modPage (ctl g0) 0 fun p => { p with invva := 0x200000, invlen := 1 }))
    storesThrough (ctl g0) 0 (invRange p) true = false ∧ hasFeature loadedCtx 7 = true ∧ hasFeature { loadedCtx with features := 0 } 7 = false ∧
    heldIn (ctl g0 loadedCtx { loadedInv with held := [0x200000] }) 0 loadedCtx (invRange p) = true := by decide +kernel
/-- The leaf of the identity map at level 2. -/
theorem witness_FaultsAndPages_leaf : LeafAt (ctl g0).mem 0x12345678 4 0x1000 0x3000 (2 ^ 30) := by simp only [LeafAt]; decide +kernel

theorem witness_System_extension : extLoads [] [] (ctlX g0 ctxFrame invSig) = .ok (ctlX g0 ctxFrame invSig, []) ∧ extPlaces [] [] (ctlX g0 ctxFrame invSig) = .ok (ctlX g0 ctxFrame invSig, []) ∧
    (match extStores [] (ctlX g0 ctxFrame invSig) with | .val .. => true | _ => false) = true ∧ ({ State.reset.hub with microcodeMode := true, microcode := some 5 }).microcode = some 5 ∧ hasFeature ctxFrame 1 = true ∧ hasFeature { ctxFrame with features := 0 } 2 = false := ⟨rfl, rfl, rfl, rfl, by decide, by decide⟩
theorem witness_StepRunsEvents_turns : (turnOf (.pfWindow 9)).agenda = [.pfWindow 9] ∧ (turnOf (.closeJobs 0)).agenda = [.closeJobs 0] ∧ (∀ e ∈ (turnOf (.closeJobs 0)).ctxs, e.2.broken = false) ∧
    ({ ctl g0 with ctxs := [(0, { loadedCtx with broken := true })] }).ctxs = [(0, { loadedCtx with broken := true })] ∧ loadedPc.toNat / 64 ∉ (tickClock placedWord).poison := by decide +kernel

/-! ### Hypotheses of the clauses on waits set aside, commands held back and changed leaves -/

/-- A group whose block is parked by a trap while its control thread waits at bell 3. -/
def gAside : Group := { g0 with block := some b0, th := { g0.th with run := .parkedFault, park := .frame 0, inBlock := some loadedPc, aside := some (.waitBell 3) } }
theorem witness_Waits : Waits gAside.th (.waitBell 3) ∧ Waits { gAside.th with aside := some (.waitToken 8) } (.waitToken 8) ∧ ¬Waits g0.th (.waitBell 3) := by unfold Waits; decide +kernel
/-- A block in a transaction of its control thread, which its own trap aborts. -/
theorem witness_BlkTraps : BlkActs (blk (gTxn 7) ctxFrame) (blkX (gTxn 7) ctxFrame) [0, 1] loadedPc ∧ (blkX (gTxn 7) ctxFrame).g.txn = some (txn 7) ∧ (blkX g0 ctxFrame).g.txn = none := ⟨⟨⟨0, rfl, rfl⟩, by decide +kernel⟩, rfl, rfl⟩
theorem witness_GroupMatrix_illegal : nvCount (vec 2) ≤ (63#6).toNat ∧ (0#6).toNat < nvCount (vec 2) := by decide +kernel

/-- Page 1 runs an INVALIDATE of context 0, while page 0 holds a HALT back; HSTAT may be BUSY with an EVACUATE held back. -/
def heldS (c : Ctx) : State := modPage (modPage (mb [] c) 1 fun p => { p with invstat := 0x100, invcmd := .invalidate 0 false }) 0 fun p => { p with dbgstat := 0x100, held := [{ ctx := 0, cmd := .halt 0 }, { ctx := 0, cmd := .evacuate 0 0 true }] }
theorem witness_HeldBack : let s := heldS loadedCtx
    ¬NoCommand s 0 ∧ MbFree s 0 (pg s) ∧ (pg s).invstat.getLsbD 8 = false ∧ loadedCtx.owner = 0 ∧ loadedCtx.heap.hstat.getLsbD 8 = false ∧
    (let s2 := modPage (mb []) 1 fun p => { p with invstat := 0x100, invcmd := .invalidate 0 false }
     ¬NoCommand s2 0 ∧ (pg s2).dbgstat.getLsbD 8 = false ∧ bits (pg s2).dbgsel.toNat 48 10 = 0) := by unfold NoCommand MbFree; decide +kernel
theorem witness_HeldBack_freed : let s := heldS loadedCtx
    Rising s.pages ∧ ({ ctx := 0, cmd := .halt 0 } : HeldCmd) ∈ (pg s).held ∧ (∃ e ∈ s.pages, ∃ h ∈ e.2.held, h.ctx = 0 ∧ h.cmd.reg = .hctl) ∧ ¬(∃ e ∈ (mb []).pages, ∃ h ∈ e.2.held, h.ctx = 0 ∧ h.cmd.reg = .hctl) := by
  unfold Rising; decide +kernel
theorem witness_HeapEvents_refused : ({ loadedCtx with owner := 1 } : Ctx).owner ≠ 0 ∧ ({ loadedCtx with heap := { loadedCtx.heap with hstat := 0x100 } } : Ctx).heap.hstat.getLsbD 8 = true := by decide
theorem witness_ContextCommands_kill : let s := ctl g0 { loadedCtx with st := .killing }
    (getCtx s 0).map (·.st) = some .killing ∧ (0, loadedInv) ∈ s.invs ∧ invLive loadedInv = true ∧ (∀ e ∈ (ctl g0 loadedCtx { loadedInv with st := .faulted }).invs, e.2.ctx = 0 → invLive e.2 = false) ∧ Rising s.invs ∧
    (tget { s with jobs := [(1, job1)] }.jobs 1).isSome = true := by unfold Rising; decide +kernel
theorem witness_FaultsAndPages_gone : let c := { loadedCtx with st := .killing }
    let s := modPage (ctl g0 c) 0 fun p => { p with invva := 0x200000, invlen := 1, invstat := 0x100, invcmd := .migrate 0 false }
    getCtx s 0 = some c ∧ (c.st = .killing ∨ c.st = .dead) ∧ (pg s).invcmd = .migrate 0 false ∧ ¬(loadedCtx.st = .killing ∨ loadedCtx.st = .dead) := by decide +kernel
theorem witness_FaultsAndPages_heap : (match ctxTranslate (mhS (ctxMh [] true)) hubCore 0 0x40000000 .write with | (_, some (.ok _ leaf _)) => some (leaf.getLsbD 6) | _ => none) = some true := by decide +kernel
/-- A region being evacuated whose first object still waits; its leaf is no longer the one recorded. -/
theorem witness_HeapEvents_changed : let r : Region := { srcRegion with st := .evacuating, drained := true, fwd := [(0, { st := .notCopied, newAddr := 0x40200000, newGen := 0, priority := 0 })], leaves := [(2 ^ 18, (0, 0x3008))] }
    let c := ctxMh [(0, r)] true
    getCtx (mhS c) 0 = some c ∧ r.st = .evacuating ∧ r.drained = true ∧ ((tget r.fwd 0).map (·.st)) = some .notCopied ∧ (∃ e ∈ r.fwd, e.2.st = .notCopied ∧ tampered (mhS c) c (regionBase c.heap 0 + e.1) = true) := by decide +kernel
theorem witness_HeapManage_poisoned : let s := heapS gHeap
    poisonIn { s with poison := [0x400004 / 64] } 0x400004 2 = true ∧ poisonIn s 0x400004 2 = false ∧ (match walk (tables s) 0x1000 0x400004 with | .leaf _ _ a _ => some a | _ => none) = some 0x3000 ∧
    poisoned s (.glob 0x400000 0x400000 0) 8 = false := by decide +kernel

theorem witness_Scheduling_waits : (∀ a ∈ [0, 16], (getThread savedS 0 a).map (fun th => (th.owed, th.aside, waits th.run)) = some (none, none, false)) ∧ (getThread savedS 0 1).isNone = true := by decide +kernel
theorem witness_Preemption_done : (∀ x ∈ (team1 gDone q0).groups, x.th.run = .retired) ∧ ∃ x ∈ (team1 g0 q0).groups, x.th.run ≠ .retired := by decide +kernel
theorem witness_MessageEvents_refused : ({ ctxMsg with st := .killing }).st = .killing ∧ hasFeature { ctxMsg with features := 0 } 4 = false ∧ ({ ctxMsg with st := .suspended }).st = .suspended ∧
    ¬(bits 0x1 0 8 = 1 ∧ 1 ≤ bits 0x1 32 16) ∧ findKernel ctxMsg 1 0 = none := by decide +kernel
/-- A team whose OPEN accumulator of 100 rows no longer fits under the caps of cfg1. -/
def gripped : State :=
  let q := { q0 with gm := 100, gn := 1, gk := 1, accs := lset q0.accs 0 { closedAcc with st := .opened, fmt := 0x33 } }
  let s := placed (world loadedCtx loadedInv (team1 g0 q) (.ctl 0 0))
  { s with hub := { s.hub with selfTest := { s.hub.selfTest with memoryOk := true } } }
theorem witness_DeviceEvents_stranded : let cfg : PartCfg := { clusters := List.range 48, fns := [0], dramBase := 0, dramUnits := 356, fabric := false, capM := ⟨8, 8, 8⟩, capE := ⟨32, 32, 16⟩ }
    (∃ e ∈ gripped.teams, e.2.inv / 4096 = 0 ∧ stranded gripped 0 cfg e.2 = true) ∧ (∃ e ∈ gripped.ctxs, e.2.part = 0) ∧ (tget gripped.parts 0).isSome = true := by decide +kernel
theorem witness_ErrorEvents_killed : let s := ctl g0 { ctxFrame with st := .killing }
    ({ s.hub with rebuilding := true }).rebuilding = true ∧ s.hub.held = [] ∧ s.invs = [(0, loadedInv)] ∧ invLive loadedInv = true ∧ (getCtx s 0).map (·.st) = some .killing ∧ (∀ c, getCtx (ctl g0 ctxFrame) 0 = some c → c.st ≠ .killing ∧ c.st ≠ .dead) := by
  refine ⟨rfl, rfl, rfl, by decide, by decide +kernel, fun c h => ?_⟩
  cases h; decide
theorem witness_StepRunsEvents_command : (turnOf (.command 0 0 .negotiate)).agenda = [.command 0 0 .negotiate] ∧ (turnOf (.command 0 0 (.halt 3))).agenda = [.command 0 0 (.halt 3)] := ⟨rfl, rfl⟩
theorem witness_TrapsAndReturn_block : ((getGroup (putGroup handling (2 ^ 48) 0 { g0 with block := some b0 }) (2 ^ 48) 0).map (·.block)) = some (some b0) ∧ (∀ x y z u w e, loadedInv.kind ≠ .handler x y z u w e) := by
  refine ⟨by decide +kernel, fun a b c d e f h => by cases h⟩
theorem witness_LinkEvents_buffer : (linkOf .active).buffer ≠ [] ∧ (linkOf .active).crossed.contains (thisDevice, 1, 0) = true ∧ { linkOf .active with buffer := [] }.buffer = [] := ⟨by decide, by simp [linkOf], rfl⟩

/-! ### Decoding: the words the spec writes out (chapters 14 to 18) -/

theorem test_decode_system : decode 0x00000000 = some .nop ∧ decode 0x00000501 = some (.trap 5) ∧ decode 0x00000002 = some .eret ∧ decode 0x00000003 = some .yield ∧ decode 0x00500004 = some (.clock 5) ∧
    decode 0xB800000C = some (.fence 12) ∧ decode 0xB9000000 = some (.icsync 0) ∧ decode 0xBCC32F6A = some (.sigchk 0xC32F6A) ∧ decode 0xF0500000 = some (.hintPrefd 5 0) := by decide +kernel
theorem test_decode_scalar : decode 0x10304200 = some (.add 3 1 2) ∧ decode 0x14413FFF = some (.addi 4 4 0x3FFF) ∧ decode 0x1C618300 = some (.slli 6 6 3) ∧ decode 0x20512345 = some (.ldhi 5 0x12345) ∧ decode 0x38A2CC22 = some (.ffma 10 11 12 2) ∧
    decode 0x3851813A = some (.fcvt 5 6 0 1 0xA) ∧ decode 0x3C025002 = some (.csrw 0 9 2) := by decide +kernel
theorem test_decode_memory : decode 0x28716102 = some (.ldw 7 5 16 2) ∧ decode 0x2C715FFF = some (.std 7 5 0x7FF) ∧ decode 0x2C913400 = some (.atom 9 4 1 4 0 0) ∧ decode 0x2C813C91 = some (.cas 8 4 1 12 1) := by decide +kernel
theorem test_decode_branch : decode 0x047FFFFD = some (.bra 0x7FFFFD) ∧ decode 0x04890005 = some (.bp 9 5) ∧ decode 0x058CFFFC = some (.loop 12 0xFFFC) ∧ decode 0x0C050000 = some (.jr 20) := by decide +kernel
theorem test_decode_predicate : decode 0x3018FF0A = some (.pcmpi 3 7 0x3E 2) := by decide +kernel
theorem test_decode_vector : decode 0x40002000 = some (.vcfg 2 0) ∧ decode 0x4050C001 = some (.vsetvl 5 3) ∧ decode 0x40506402 = some (.vsetvli 5 100) ∧ decode 0x44304200 = some (.vadd 3 1 2 0) ∧ decode 0x4430FF40 = some (.vaddi 3 3 0x3F) ∧
    decode 0x4C518780 = some (.vfadd 5 6 7 1) ∧ decode 0x4C404203 = some (.vffma 4 1 2 0) ∧ decode 0x4C100483 = some (.vffma 1 0 4 1) ∧ decode 0x5020C041 = some (.vfunExp2 2 3 1) ∧ decode 0x54421C30 = some (.vnarw 4 8 7 4 0 0) ∧
    decode 0x58482112 = some (.vfcmp 9 1 2 0 2) ∧ decode 0x5C610502 = some (.vrgath 6 4 5) ∧ decode 0x5C40C703 = some (.vcompr 4 3 7) ∧ decode 0x60A0C008 = some (.vfredsum 10 3 0) := by decide +kernel
theorem test_decode_vector_memory : decode 0x64114083 = some (.vld 1 5 0 8 3) ∧ decode 0x64114800 = some (.vld 1 5 1 0 0) ∧ decode 0x68114000 = some (.vst 1 5 0 0) ∧ decode 0x6C214300 = some (.vldx 2 5 3 0) ∧
    decode 0x74420000 = some (.vamo 4 8 0 0 0) ∧ decode 0x74620190 = some (.vredm 6 8 0 9) ∧ decode 0x744232A0 = some (.vcas 4 8 12 0) := by decide +kernel
theorem test_decode_block : decode 0x7C00000A = some (.vf 10) ∧ decode 0x7C840003 = some (.vbr 4 3) ∧ decode 0x7D060000 = some (.vjr 6) ∧ decode 0x7D800000 = some .vjoin ∧ decode 0x7E000000 = some .vstop ∧ decode 0x7E800000 = some .vsync := by decide +kernel
theorem test_decode_sync : decode 0x78288324 = some (.waitm 5 4 6 1 1 0) ∧ decode 0x9C00A000 = some (.binit 0 5) ∧ decode 0x9C80E000 = some (.barv 0 7) ∧ decode 0x9D980000 = some (.bsync 3) ∧ decode 0x9E190000 = some (.bsig 3 8) ∧
    decode 0xB4000006 = some (.txb 6) ∧ decode 0xB5000000 = some .txe ∧ decode 0xB600002A = some (.txa 0x2A) := by decide +kernel
theorem test_decode_queue : decode 0xA0950300 = some (.qpush 9 20 3 0) ∧ decode 0xA0950760 = some (.qsteal 9 20 7 0) ∧ decode 0xA09600A0 = some (.launchT 9 24 0) := by decide +kernel
theorem test_decode_matrix : decode 0x81020C40 = some (.gmma 16 8 12 2 0) ∧ decode 0x81020C50 = some (.gmmas 16 8 12 2 0) ∧ decode 0x84280000 = some (.tset 10) ∧ decode 0x84940000 = some (.tsetM 5) ∧ decode 0x851C0040 = some (.tget 7 0x040) ∧
    decode 0x85D10000 = some (.trec 20 2) ∧ decode 0x89040240 = some (.tmm 1 0 1 0x24 0) ∧ decode 0x884E0010 = some (.tmms 0 2 3 1 0) ∧ decode 0x8C292000 = some (.tld 1 2 9 0 0) ∧ decode 0x8E714800 = some (.tstC 3 4 10 1 0) ∧
    decode 0x90000000 = some (.tzero 0 0 0) ∧ decode 0x90D40000 = some (.tsave 2 5 0 0) ∧ decode 0x92300020 = some (.tcvtC 1 4 2 0) := by decide +kernel
theorem test_decode_engine : decode 0x944150C0 = some (.scfg 4 5 1 3) ∧ decode 0x9461C050 = some (.smc 6 7 0 1) ∧ decode 0x94001020 = some (.srel 1) ∧ decode 0x94002030 = some (.sdrain 2) ∧ decode 0x98414660 = some (.cpy 4 5 6 3) ∧
    decode 0x98000A08 = some (.twait 0x0A) ∧ decode 0x98900110 = some (.tpoll 9 1) ∧ decode 0xB0714000 = some (.splk 7 5) ∧ decode 0xB0714601 = some (.spins 7 5 6) ∧ decode 0xB0000003 = some .spinvAll := by decide +kernel
theorem test_decode_heap : decode 0xA4035020 = some (.hld 3 5 2 0) ∧ decode 0xA4435020 = some (.hst 3 5 2) ∧ decode 0xA5092000 = some (.halloc 9 2 0) ∧ decode 0xA5C71200 = some (.hcmp 7 1 2 0) ∧ decode 0xA8420040 = some (.vhld 4 8 1 0) := by decide +kernel
theorem test_decode_message : decode 0xAC214000 = some (.msend 2 5) ∧ decode 0xAC019000 = some (.wquiet 6) ∧ decode 0xAC81A000 = some (.mcount 8 6) := by decide +kernel
/-- Words that chapters 14 to 17 say stand for no instruction, or for none in that form. -/
theorem test_decode_none : decode 0x00000100 = none ∧ decode 0xC0000000 = none ∧ decode 0xFFFFFFFF = none ∧ decode 0x4430FF41 = none ∧ decode 0x74420300 = none ∧ decode 0x74620191 = none := by decide +kernel

/-! ### Ill-formed terms, which WellFormed refuses -/

theorem test_ill_formed_word : WellFormed (.atom 9 4 1 4 9 0) = false ∧ WellFormed (.hint 0 0 0) = false ∧ WellFormed (.hint 0 1 0) = false ∧ WellFormed (.illegalInstruction 0x10304200) = false := by decide +kernel
theorem test_ill_formed_function : WellFormed (.create 33 0) = false ∧ WellFormed (.qctlEnable 33) = false ∧ WellFormed (.halt 33 0) = false ∧ WellFormed (.halt 0 4096) = false := by decide +kernel
theorem test_ill_formed_context : WellFormed (.query 0 65536) = false ∧ WellFormed (.faultEntryDeferredWrite 65536) = false ∧ WellFormed (.bindRecordConsume 0 64) = false ∧ WellFormed (.objectCopyStart 0 65536 0) = false ∧ WellFormed (.objectCopyStart 0 0 (2 ^ 21)) = false := by decide +kernel
theorem test_ill_formed_team : WellFormed (.invocationComplete 32768) = false ∧ WellFormed (.teamSave (32768 * 2 ^ 48)) = false ∧ WellFormed (.tokenComplete 0 17 0) = false ∧ WellFormed (.tokenComplete 0 0 8) = false ∧ WellFormed (.emulationComplete 0 16) = false ∧ WellFormed (.streamElementDeliver 0 0 4) = false := by decide +kernel
theorem test_ill_formed_device : WellFormed (.invocationSelect 8) = false ∧ WellFormed (.clusterGate 48) = false ∧ WellFormed (.coreFaultLimit 384) = false ∧ WellFormed (.linkTrained 16 8) = false ∧ WellFormed (.linkTrained 0 9) = false ∧ WellFormed (.schedulerStateError (.cluster 48)) = false ∧ WellFormed (.correctableError (.line (2 ^ 46))) = false ∧ WellFormed (.correctableError (.link 16)) = false := by decide +kernel
theorem test_ill_formed_message : WellFormed (.messageArrival { dst := 0, src := 0, job := 0, hidx := 0, len := 1, seq := 0, payload := [] }) = false ∧ WellFormed (.messageArrival { dst := 8192, src := 0, job := 0, hidx := 0, len := 0, seq := 0, payload := [] }) = false ∧ WellFormed (.messageArrival { dst := 0, src := 0, job := 0, hidx := 256, len := 0, seq := 0, payload := [] }) = false ∧ WellFormed (.refusalReport 0 65536 0) = false ∧ WellFormed (.endToEndAck 0 0 (2 ^ 32)) = false ∧ WellFormed (.deviceLost 8192 []) = false := by decide +kernel
theorem test_ill_formed_self_test : WellFormed (.powerOn { colmap := [(384, 0)], badClusters := [], badCores := [], memoryOk := true }) = false ∧ WellFormed (.warmReset { colmap := [], badClusters := [48], badCores := [], memoryOk := true }) = false ∧ WellFormed (.powerOn { colmap := [], badClusters := [], badCores := [384], memoryOk := true }) = false := by decide +kernel
/-- Each limit itself is in range. -/
theorem test_well_formed_limits : WellFormed (.create 32 65535) = true ∧ WellFormed (.tokenComplete (32767 * 2 ^ 48) 16 7) = true ∧ WellFormed (.linkTrained 15 8) = true ∧ WellFormed (.illegalInstruction 0xFFFFFFFF) = true := by decide +kernel

/-! ### Single steps, the results from the spec's worked examples -/

/-- Group 0 after an instruction. -/
def after (i : Instr) (s : State) : Option Group := match exec i s with | .next t => getGroup t 0 0 | _ => none
def sReg (i : Instr) (g : Group) (n : Nat) : Option Word := (after i (ctl g)).map fun g => readX g.th n
def vReg (i : Instr) (g : Group) (n : Nat) : Option Nat := (after i (ctl g)).map fun g => tgetD g.v n 0

/-- Reset, a loaded word, one step: ADDI s3, s0, 5. -/
theorem test_step_addi : (match step placedWord with | .next t => (getGroup t 0 0).map fun g => (readX g.th 3, g.th.pc) | _ => none) = some (5, 0x10004) := by decide +kernel
/-- R32: sums wrap. -/
theorem test_add_wraps : sReg (.add 3 1 2) (withX g0 [(1, 0xFFFFFFFFFFFFFFFF), (2, 2)]) 3 = some 1 := by decide +kernel
/-- R33: division by 0, and of the most negative number by -1. -/
theorem test_div_corners : sReg (.div 3 1 2 0) (withX g0 [(1, 7)]) 3 = some (BitVec.allOnes 64) ∧ sReg (.rem 3 1 2 0) (withX g0 [(1, 7)]) 3 = some 7 ∧
    sReg (.div 3 1 2 0) (withX g0 [(1, 0x8000000000000000), (2, 0xFFFFFFFFFFFFFFFF)]) 3 = some 0x8000000000000000 ∧ sReg (.rem 3 1 2 0) (withX g0 [(1, 0x8000000000000000), (2, 0xFFFFFFFFFFFFFFFF)]) 3 = some 0 := by decide +kernel
/-- R289: 2.5 and -2.5 to I32 in each mode, 3.0e9 saturated, NaN, and a tie to BF16. -/
theorem test_fcvt : let f := fun (x : Word) (r : BitVec 2) (t : BitVec 4) => (after (.fcvt 5 6 0 r t) (ctl (withX g0 [(6, x)]))).map fun g => (readX g.th 5, g.fcsr.extractLsb' 3 5)
    (f 0x40200000 0 0xA).map (·.1) = some 2 ∧ (f 0x40200000 1 0xA).map (·.1) = some 2 ∧ (f 0x40200000 2 0xA).map (·.1) = some 2 ∧ (f 0x40200000 3 0xA).map (·.1) = some 3 ∧
    (f 0xC0200000 0 0xA).map (·.1) = some 0xFFFFFFFFFFFFFFFE ∧ (f 0xC0200000 2 0xA).map (·.1) = some 0xFFFFFFFFFFFFFFFD ∧ (f 0x4F32D05E 1 0xA).map (·.1) = some 0x7FFFFFFF ∧ (f 0x7FC00000 0 0xA).map (·.1) = some 0 ∧
    (f 0x3F808000 0 2).map (·.1) = some 0x3F80 := by decide +kernel
/-- R266: the destination of LDW s7, [s5 + 64] !2 keeps its old value inside the window, and holds the word behind it. -/
theorem test_lookahead_window : (after (.ldw 7 5 16 2) { ctl (withX g0 [(5, 0x20000), (7, 3)]) with mem := writeNat (ctl g0).mem 0x20040 4 40 }).map (fun g => (readX g.th 7, rawX g.th 7)) = some (3, 40) := by decide +kernel
/-- R48: the tree sum of 2^24, 1, 1, -2^24, 1 is 2. -/
theorem test_vfredsum : sReg (.vfredsum 10 3 0) { vec 0 with vlen := 5, v := [(3, 0x4B800000 + 0x3F800000 * 2 ^ 32 + 0x3F800000 * 2 ^ 64 + 0xCB800000 * 2 ^ 96 + 0x3F800000 * 2 ^ 128)] } 10 = some 0x40000000 := by decide +kernel
/-- R35, R321: with no active element the maximum is y, a NaN canonical. -/
theorem test_vfredmax_none : sReg (.vfredmax 10 3 4) { withX (vec 0) [(4, 0x7F800001)] with vlen := 0 } 10 = some 0x7FC00000 := by decide +kernel
/-- R45, R46: the error feedback of a narrowing of 0.2, 0.2, (masked), 0.2 to E2M1. -/
theorem test_vnarw_feedback : (after (.vnarw 4 8 7 4 0 0) (ctl { vec 0 with vlen := 4, vmask := 3, p := [(3, 0b1011)], v := [(8, 0x3E4CCCCD + 0x3E4CCCCD * 2 ^ 32 + 0x3E4CCCCD * 2 ^ 96), (4, 0)] })).map
    (fun g => (tgetD g.v 4 0 % 2 ^ 16, g.ecar.setWidth 32)) = some (0x0010, 0x3DCCCCCE#32) := by decide +kernel
/-- R302, R319: the masked sum, compression and expansion of the chapter's table. -/
def lanes32 (l : List Nat) : Nat := l.foldr (fun x a => x + a * 2 ^ 32) 0
def gMask : Group := { vec 0 with vlen := 6, vmask := 3, p := [(3, 0b11101101)], v := [(1, lanes32 [0, 1, 2, 3, 4, 5]), (2, lanes32 [10, 10, 10, 10, 10, 10]), (3, lanes32 [99, 99, 99, 99, 99, 99, 99, 99])] }
theorem test_vadd_masked : vReg (.vadd 3 1 2 0) gMask 3 = some (lanes32 [10, 99, 12, 13, 99, 15, 99, 99]) := by decide +kernel
def gComp : Group := { gMask with v := [(3, lanes32 [10, 99, 12, 13, 99, 15, 99, 99])] }
theorem test_vcompr : vReg (.vcompr 4 3 7) gComp 4 = some (lanes32 [10, 12, 13, 15]) ∧ sReg (.vcompr 4 3 7) gComp 7 = some 4 := by decide +kernel
theorem test_vexpnd : vReg (.vexpnd 5 4) { gMask with v := [(4, lanes32 [10, 12, 13, 15])] } 5 = some (lanes32 [10, 0, 12, 13, 0, 15]) := by decide +kernel
/-- R51, R55, R356: 3.0 x 3.0 of E4M3 onto an accumulator of 0.5 is 9.5. -/
theorem test_tmm : (let q := qGrant 0x33 .opened (rec1 3 0 0)
    let t := { team1 g0 { q with accs := lset q.accs 0 { closedAcc with st := .opened, fmt := 0x33, data := [(0, 0x3F000000)] } } with spad := [(0, 0x44)] }
    match exec (.tmm 0 1 1 0 0) (world loadedCtx loadedInv t (.seq 0)) with
    | .next t => (getSeq t 0).map fun q => tgetD (getAcc q 0).data 0 0
    | _ => none) = some 0x41180000 := by decide +kernel
/-- R391: SIGA after ADD s3, s1, s2 and then ADDI s4, s4, -1, and the SIGCHK that passes. -/
theorem test_siga : (after (.add 3 1 2) (ctl g0)).map (·.siga) = some 0x10304200 ∧ (after (.addi 4 4 0x3FFF) (ctl { g0 with siga := 0x10304200 })).map (·.siga) = some 0x95C32FFF ∧
    (after (.sigchk 0xC32F6A) (ctl { g0 with siga := 0x95C32FFF } ctxFrame invSig)).map (fun g => (g.siga, g.th.pc)) = some (0, 0x10004) ∧
    (after (.sigchk 0xC32F6A) (ctl { g0 with siga := 0x95C32FFE } ctxFrame invSig)).map (fun g => (g.th.trapc, g.th.trapv)) = some (7, 0xC32F6BC32F6A) := by decide +kernel
/-- R147: the grants of the chapter's table on E-core 300, and on M-core 77 under its maxima. -/
def tsetOn (cluster core m n k : Nat) (fw : Word) (ke : Word) : Option (Nat × Nat × Nat) :=
  let s := seq { q0 with th := { q0.th with x := [(10, 128), (11, 256), (12, 64), (13, 100), (14, 100), (15, ke), (16, fw)] } }
  match exec (.tset 10) { s with teams := [(0, { team1 g0 { q0 with th := { q0.th with x := [(10, 128), (11, 256), (12, 64), (13, 100), (14, 100), (15, ke), (16, fw)] } } with target := { (loadedTeam .nop).target with cluster := cluster, core := core, gmaxm := m, gmaxn := n, gmaxk := k } })] } with
  | .next t => (getSeq t 0).map fun q => (q.gm, q.gn, q.gk)
  | _ => none
theorem test_tset_grants : tsetOn 9 77 64 232 64 0x22 40 = some (64, 100, 40) ∧ tsetOn 37 300 8 8 16 0x22 40 = some (8, 8, 16) ∧ tsetOn 37 300 8 8 16 0x3077 40 = some (8, 8, 40) ∧ tsetOn 37 300 8 8 16 0x20033 200 = some (8, 8, 128) := by decide +kernel
/-- R187: TXA 0x2A restores the snapshot and reports CODE 0x2A, LINES 1, CAUSE 7. -/
theorem test_txa : (after (.txa 0x2A) (ctl { g0 with th := { g0.th with x := [(6, 6)] }, txn := some { txn 1 with x := [(6, 0)], writeLines := [], writes := [] } })).map (fun g => (readX g.th 6, g.th.pc, g.txs)) = some (0, 0x10040, 0x2A00010E) := by decide +kernel
/-- R232: bytes 0 to 7 of the header of a message of job 9 from device 0 to device 3, handler 7, two units. -/
theorem test_message_header : headWord { dst := 3, src := 0, job := 9, hidx := 7, len := 2, seq := 0, payload := [] } = 0x0207000900000003 := by decide
/-- R120, R203: nothing of a scalar load of an unmapped page is performed: the group parks for its entry, whose VA is the load's. -/
theorem test_page_fault : (match exec (.ldd 3 1 0 0) (ctl (withX g0 [(1, 0x7F00000000)])) with | .next t => (getGroup t 0 0).map fun g => (g.th.run, g.th.park, readX g.th 3) | _ => none) = some (.parkedFault, .entry, 0) := by decide +kernel
/-- R378: TRAP 5 parks the group with TRAPC 9, TRAPV 5 and EPC at the TRAP. -/
theorem test_trap : (after (.trap 5) (ctl g0 ctxFrame)).map (fun g => (g.th.run, g.th.trapc, g.th.trapv, g.th.epc)) = some (.parkedFault, 9, 5, 0x10000) := by decide +kernel
end Sys2Proof.Tests
end

section
/-! PROOFS. How an instruction of a control thread or of a sequencer completes or traps: the frame it keeps, the register it writes, and the illegal-instruction trap. -/
namespace Sys2Proof.Claim
open Sys2Proof.Machine

/-! ### Who acts, and what putting a group or a sequencer back leaves -/

section
variable {s : State} {cx : Cx} {sx : Sx}

theorem CtlActs.getGroup (h : CtlActs s cx) : getGroup s cx.k cx.i = some cx.g := by
  obtain ⟨t, _, ht, _, hg, _⟩ := openCtl_some h.2
  simp [Machine.getGroup, ht, hg]

theorem CtlActs.state (h : CtlActs s cx) : cx.s = s := by
  obtain ⟨_, _, _, _, _, _, _, he⟩ := openCtl_some h.2
  rw [he]

theorem CtlActs.vps (h : CtlActs s cx) : cx.vps = none := by
  obtain ⟨_, _, _, _, _, _, _, he⟩ := openCtl_some h.2
  rw [he]

theorem SeqActs.getSeq (h : SeqActs s sx) : getSeq s sx.k = some sx.q := by
  obtain ⟨t, _, ht, _, hq, _⟩ := openSeq_some h.2
  simp [Machine.getSeq, ht, hq]

theorem SeqActs.state (h : SeqActs s sx) : sx.s = s := by
  obtain ⟨_, _, _, _, _, _, _, he⟩ := openSeq_some h.2
  rw [he]

end

theorem butGroup_putGroup (s : State) (k i : Nat) (g : Group) : ButGroup s (putGroup s k i g) k i where
  device := rfl
  teams k' h := by rw [getTeam_putGroup, if_neg (Ne.symm h)]
  groups j' h := getGroup_putGroup_ne s g h
  team := by rw [getTeam_putGroup, if_pos rfl, Option.map_map]; rfl

theorem butSeq_putSeq (s : State) (k : Nat) (q : Seq) : ButSeq s (putSeq s k q) k where
  device := rfl
  teams k' h := by rw [getTeam_putSeq, if_neg (Ne.symm h)]
  team := by rw [getTeam_putSeq, if_pos rfl, Option.map_map]; rfl

/-- A control thread's instruction that completes and leaves the group as `g`. -/
theorem CtlActs.done {s : State} {cx : Cx} (h : CtlActs s cx) {w : IWord} {g : Group} {la : Nat} {hid : List Hidden} {P : Group → Prop}
    (hpc : g.th.pc = cx.g.th.pc) (hP : P (groupNext g (cx.g.th.pc + 4) false w la hid)) :
    CtlDone (.next (finishCtl w { cx := { cx with g := g }, fate := .done, la := la, hid := hid })) s cx.k cx.i (cx.g.th.pc + 4) P := by
  rw [← hpc] at hP ⊢
  exact ⟨_, _, rfl, h.state ▸ butGroup_putGroup .., getGroup_putGroup_self (h.state ▸ h.getGroup), rfl, rfl, rfl, hP⟩

/-- A sequencer's instruction that completes and leaves the sequencer as `q`. -/
theorem SeqActs.done {s : State} {sx : Sx} (h : SeqActs s sx) {w : IWord} {q : Seq} {la : Nat} {hid : List Hidden} {P : Seq → Prop}
    (hpc : q.th.pc = sx.q.th.pc) (hP : P { q with th := threadNext q.th (sx.q.th.pc + 4) w la hid }) :
    SeqDone (.next (finishSeq w { sx := { sx with q := q }, fate := .done, la := la, hid := hid })) s sx.k (sx.q.th.pc + 4) P := by
  rw [← hpc] at hP ⊢
  exact ⟨_, _, rfl, h.state ▸ butSeq_putSeq .., getSeq_putSeq_self (h.state ▸ h.getSeq), rfl, rfl, hP⟩

/-! ### A thread after it wrote a register and completed -/

theorem readX_wins_nil {th : Thread} (h : th.wins = []) (n : Nat) : readX th n = if n = 0 then 0 else rawX th n := by
  simp [readX, h, hide]

theorem writeX_wins_nil {th : Thread} (h : th.wins = []) (d : Nat) (v : Word) : (writeX th d v).wins = [] := by
  unfold writeX; split <;> simp [h, poke]

/-- A thread that wrote `v` to `d` under lookahead `la` and went on to `pc`. -/
def wroteNext (th : Thread) (d : Nat) (v : Word) (la : Nat) (pc : Word) (w : IWord) : Thread :=
  threadNext (writeXla th d v la).1 pc w la (writeXla th d v la).2

section
variable (th : Thread) (d : Nat) (v : Word) (la : Nat) (pc : Word) (w : IWord)

theorem rawX_wroteNext (n : Nat) : rawX (wroteNext th d v la pc w) n = if d ≠ 0 ∧ d = n then v else rawX th n :=
  rawX_writeXla th d n v la

theorem writeXla_wins : (writeXla th d v la).1.wins = if la = 0 then (writeX th d v).wins else th.wins := by
  unfold writeXla
  split
  · rfl
  · split <;> rfl

theorem writeXla_pc : (writeXla th d v la).1.pc = th.pc := by
  unfold writeXla writeX; split <;> split <;> rfl

theorem wroteNext_wins_of_nil (h : th.wins = []) :
    (wroteNext th d v la pc w).wins = if la = 0 then [] else [{ left := la, hid := (writeXla th d v la).2 }] := by
  simp only [wroteNext, threadNext_wins, writeXla_wins, writeX_wins_nil h, h, ite_self, advanceWindows, tickWindows]

theorem threadRest_wroteNext : ThreadRest th (wroteNext th d v la pc w) := by
  unfold ThreadRest wroteNext writeXla writeX; split <;> split <;> rfl

theorem opened_wroteNext : Opened th (wroteNext th d v la pc w) la := by
  intro h
  rw [wroteNext_wins_of_nil th d v la pc w h]
  exact ⟨fun h0 => if_pos h0, fun h0 => ⟨_, if_neg h0, rfl⟩⟩

/-- With no other window open, the window of the write hides `d` alone, and it hides all of it (R266). -/
theorem readX_wroteNext_hidden (h : th.wins = []) (n : Nat) (hn : n ≠ d ∨ d = 0 ∨ la ≠ 0) :
    readX (wroteNext th d v la pc w) n = readX th n := by
  by_cases h0 : n = 0
  · simp [readX, h0]
  rw [readX_wins_nil h, readX, if_neg h0, if_neg h0, wroteNext_wins_of_nil th d v la pc w h, rawX_wroteNext]
  by_cases hd : d ≠ 0 ∧ d = n
  · obtain ⟨hd, rfl⟩ := hd
    have hla : la ≠ 0 := (hn.resolve_left (· rfl)).resolve_left hd
    apply BitVec.eq_of_toNat_eq
    have := (merge_ones v.toNat (rawX th d).toNat).trans (Nat.mod_eq_of_lt (rawX th d).isLt)
    simpa [hide, writeXla, hd, hla] using this
  · by_cases hla : la = 0
    · simp [hd, hla, hide]
    · by_cases hd0 : d = 0
      · simp [hla, hd0, hide, writeXla]
      · have : d ≠ n := fun e => hd ⟨hd0, e⟩
        simp [hla, hd0, this, hide, writeXla]

theorem xKept_wroteNext : XKept th (wroteNext th d v la pc w) d := by
  intro n hn
  refine ⟨?_, fun h => readX_wroteNext_hidden th d v la pc w h n (hn.imp_right .inl)⟩
  rw [rawX_wroteNext, if_neg (by rintro ⟨h0, rfl⟩; simp [h0] at hn)]

theorem xWritten_wroteNext : XWritten th (wroteNext th d v la pc w) d v la := by
  refine ⟨opened_wroteNext th d v la pc w, fun hd => ⟨by rw [rawX_wroteNext, if_pos ⟨hd, rfl⟩], ?_, ?_⟩⟩
  · rintro rfl
    exact readX_written hd (by simp [wroteNext, writeXla, advanceWindows]) rfl
  · exact fun hla h => readX_wroteNext_hidden th d v la pc w h d (.inr (.inr hla))

end

/-! ### Traps -/

theorem tmod_self {α : Type} (t : Tbl α) (k : Nat) : tmod t k (fun a => a) = t := by
  induction t with
  | nil => rfl
  | cons e r ih => simp [tmod, ih]

theorem putGroup_same {s : State} {k i : Nat} {g : Group} (h : getGroup s k i = some g) : putGroup s k i g = s := by
  obtain ⟨t, ht, hg⟩ := Option.bind_eq_some_iff.1 h
  rw [putGroup, modTeam, tmod_congr s.teams k (g := fun t => t) ht (by rw [lset_same hg]), tmod_self]

theorem setAside_eq_putAside (th : Thread) (blk : Option Word) : setAside th blk = putAside th blk := by
  unfold setAside putAside waits
  cases th.run <;> cases blk <;> simp

/-- A trap that goes to a handler parks the agent (R120, R378). -/
theorem takesTrap_takeTrap {s : State} {k : Nat} (h : Handled s k) (a : Nat) (cause : BitVec 8) (value epc : Word) (blk : Option Word) :
    TakesTrap (.next (takeTrap s k a cause value epc blk)) s k a cause value epc blk := by
  obtain ⟨iv, c, hi, hc, hslots, hk⟩ := h
  obtain ⟨t, ht, _⟩ := Option.bind_eq_some_iff.1 hi
  have hi' : invOf (arbTick s) k = some iv := hi
  have hc' : ctxOf (arbTick s) k = some c := hc
  have ht' : getTeam (arbTick s) k = some t := ht
  refine ⟨_, rfl, ?_⟩
  simp only [takeTrap, ht', hi', hc', if_neg hslots, parkTrap, setAside_eq_putAside]; rfl

/-- An instruction of a control thread that ends in a trap outside a transaction and changed nothing. -/
theorem CtlActs.traps {s : State} {cx : Cx} (h : CtlActs s cx) (ht : cx.g.txn = none) (hh : Handled s cx.k) (w : IWord) {o : Out} {c : BitVec 8}
    {v : Word} (ho : o.cx = cx) (hf : o.fate = .trap c v) : CtlTraps (.next (finishCtl w o)) s cx c v := by
  have : finishCtl w o = takeTrap s cx.k cx.i c v cx.g.th.pc none := by
    simp [finishCtl, hf, ho, ht, h.state, putGroup_same h.getGroup]
  rw [this]
  exact takesTrap_takeTrap hh ..

/-- A word that is no strided vector form raises illegal-instruction in a control thread (R261). -/
theorem illegal_of_not_stridedOffset {w : IWord} (hw : stridedOffset w = false) : Illegal (.illegalInstruction w) w := by
  intro s cx h ht hh
  rw [exec_illegalInstruction, execIllegalInstruction, runVector, runInstr_ctl h.1 h.2]
  simp only [inTxn, guardCtl_inTxn, hw, Bool.not_false, if_true]
  exact h.traps ht hh _ rfl rfl

end Sys2Proof.Claim
end

section
/-! PROOFS. The scalar integer instructions (R275 to R277): their arithmetic, and O1. -/
namespace Sys2Proof.Claim
open Sys2Proof.Machine

/-! ### Arithmetic on 64-bit words -/

theorem bit_eq_testBit (x n : Nat) : bit x n = x.testBit n := by
  simp [bit, Nat.testBit_eq_decide_div_mod_eq, Nat.shiftRight_eq_div_pow]

theorem signed_toNat (x : Word) : signed 64 x.toNat = x.toInt := by
  have hx := x.isLt
  rw [signed, bit_eq_testBit, BitVec.toInt_eq_msb_cond, BitVec.msb_eq_getLsbD_last, Nat.mod_eq_of_lt hx]
  rfl

theorem ofNat_wrap (z : Int) : BitVec.ofNat 64 (wrap 64 z) = BitVec.ofInt 64 z := by
  apply BitVec.eq_of_toNat_eq
  simp only [wrap, BitVec.toNat_ofNat, BitVec.toNat_ofInt, Int.ofNat_eq_natCast]
  omega

theorem flag_slt (x y : Word) : flag (x.slt y) = if x.toInt < y.toInt then 1 else 0 := by
  simp only [flag, BitVec.slt_iff_toInt_lt]

theorem flag_ult (x y : Word) : flag (x.ult y) = if x.toNat < y.toNat then 1 else 0 := by
  simp only [flag, BitVec.ult_iff_toNat_lt]

/-- Choosing by `<` or by `≤` differs at equal keys alone. -/
theorem ite_eq_ite_of_imp {α : Type} {P Q : Prop} [Decidable P] [Decidable Q] {p q : α} (hPQ : P → Q) (h : Q → ¬P → p = q) :
    (if P then p else q) = if Q then p else q := by
  by_cases hP : P
  · rw [if_pos hP, if_pos (hPQ hP)]
  · by_cases hQ : Q
    · rw [if_neg hP, if_pos hQ, h hQ hP]
    · rw [if_neg hP, if_neg hQ]

theorem toInt_le_not_lt {x y : Word} (hle : x.toInt ≤ y.toInt) (hlt : ¬x.toInt < y.toInt) : x = y :=
  BitVec.eq_of_toInt_eq (by omega)

theorem toNat_le_not_lt {x y : Word} (hle : x.toNat ≤ y.toNat) (hlt : ¬x.toNat < y.toNat) : x = y :=
  BitVec.eq_of_toNat_eq (by omega)

theorem min_slt (x y : Word) : (if x.slt y then x else y) = if x.toInt ≤ y.toInt then x else y := by
  simp only [BitVec.slt_iff_toInt_lt]
  exact ite_eq_ite_of_imp Int.le_of_lt toInt_le_not_lt

theorem max_slt (x y : Word) : (if x.slt y then y else x) = if x.toInt ≤ y.toInt then y else x := by
  simp only [BitVec.slt_iff_toInt_lt]
  exact ite_eq_ite_of_imp Int.le_of_lt fun hle hlt => (toInt_le_not_lt hle hlt).symm

theorem min_ult (x y : Word) : (if x.ult y then x else y) = if x.toNat ≤ y.toNat then x else y := by
  simp only [BitVec.ult_iff_toNat_lt]
  exact ite_eq_ite_of_imp Nat.le_of_lt toNat_le_not_lt

theorem max_ult (x y : Word) : (if x.ult y then y else x) = if x.toNat ≤ y.toNat then y else x := by
  simp only [BitVec.ult_iff_toNat_lt]
  exact ite_eq_ite_of_imp Nat.le_of_lt fun hle hlt => (toNat_le_not_lt hle hlt).symm

theorem toNat_eq_zero {n : Nat} (y : BitVec n) : y.toNat = 0 ↔ y = 0 := by
  rw [← BitVec.toNat_inj]; rfl

theorem toInt_eq_zero (y : Word) : y.toInt = 0 ↔ y = 0 := by
  rw [← BitVec.toInt_inj]; rfl

theorem divS_eq_quotS (x y : Word) : BitVec.ofNat 64 (divS 64 x.toNat y.toNat) = quotS x y := by
  simp only [divS, quotS, signed_toNat, toInt_eq_zero]
  split
  · rfl
  · exact ofNat_wrap _

theorem remS_eq_remaS (x y : Word) : BitVec.ofNat 64 (remS 64 x.toNat y.toNat) = remaS x y := by
  simp only [remS, remaS, signed_toNat, toInt_eq_zero]
  split
  · rw [Nat.mod_eq_of_lt x.isLt, BitVec.ofNat_toNat, BitVec.setWidth_eq]
  · exact ofNat_wrap _

theorem divU_eq_udiv (x y : Word) : BitVec.ofNat 64 (divU 64 x.toNat y.toNat) = if y = 0 then BitVec.allOnes 64 else x.udiv y := by
  simp only [divU, Nat.mod_eq_of_lt x.isLt, Nat.mod_eq_of_lt y.isLt, toNat_eq_zero]
  split
  · rfl
  · exact BitVec.udiv_def.symm

theorem remU_eq_umod (x y : Word) : BitVec.ofNat 64 (remU 64 x.toNat y.toNat) = if y = 0 then x else x.umod y := by
  simp only [remU, Nat.mod_eq_of_lt x.isLt, Nat.mod_eq_of_lt y.isLt, toNat_eq_zero]
  split
  · rw [BitVec.ofNat_toNat, BitVec.setWidth_eq]
  · exact BitVec.umod_def.symm

theorem mulhu_eq_high (x y : Word) : mulhu x y = ((x.setWidth 128 * y.setWidth 128) >>> 64).setWidth 64 := by
  have hp : x.toNat * y.toNat < 2 ^ 128 := (Nat.mul_lt_mul'' x.isLt y.isLt : _ < 2 ^ 64 * 2 ^ 64)
  apply BitVec.eq_of_toNat_eq
  rw [mulhu]
  simp only [BitVec.toNat_ofNat, BitVec.toNat_setWidth, BitVec.toNat_ushiftRight, BitVec.toNat_mul, Nat.shiftRight_eq_div_pow]
  rw [Nat.mod_eq_of_lt (Nat.lt_trans x.isLt (by decide)), Nat.mod_eq_of_lt (Nat.lt_trans y.isLt (by decide)), Nat.mod_eq_of_lt hp]

theorem mulhs_eq_high (x y : Word) : mulhs x y = ((x.signExtend 128 * y.signExtend 128) >>> 64).setWidth 64 := by
  have hm : x.signExtend 128 * y.signExtend 128 = BitVec.ofInt 128 (x.toInt * y.toInt) := by
    rw [BitVec.ofInt_mul]; rfl
  apply BitVec.eq_of_toNat_eq
  rw [hm, mulhs]
  simp only [BitVec.toNat_ofInt, BitVec.toNat_setWidth, BitVec.toNat_ushiftRight, Nat.shiftRight_eq_div_pow]
  generalize x.toInt * y.toInt = z
  omega

/-- Both read bit by bit: zeros, the field, its sign. -/
theorem hi19_eq_append (i : BitVec 19) : hi19 i = (i ++ 0#12).signExtend 64 := by
  apply BitVec.eq_of_getLsbD_eq
  intro j hj
  simp only [hi19, BitVec.getLsbD_shiftLeft, BitVec.getLsbD_signExtend, BitVec.getLsbD_append, BitVec.msb_append, BitVec.getLsbD_zero]
  by_cases h12 : j < 12
  · simp [h12, show j < 31 by omega]
  · by_cases h31 : j < 31
    · simp [h12, h31, hj, show j - 12 < 19 by omega, show j - 12 < 64 by omega]
    · simp [h12, h31, hj, show ¬ j - 12 < 19 by omega, show j - 12 < 64 by omega]

theorem popcount_eq_countP (x n : Nat) : popcount x n = (List.range n).countP fun i => x.testBit i := by
  induction n with
  | zero => rfl
  | succ n ih =>
    rw [popcount, ih, List.range_succ, List.countP_append, bit_eq_testBit, Nat.add_comm]
    simp [List.countP_cons]

theorem popc64_eq_countP (x : Word) : popc64 x = BitVec.ofNat 64 ((List.range 64).countP fun i => x.getLsbD i) := by
  rw [popc64, popcount_eq_countP]; rfl

/-- Of the numbers from 0 on, as many stand before the first that fails `p` as its own value says. -/
theorem length_takeWhile_range {p : Nat → Bool} {n k : Nat} (hk : k ≤ n) (hp : ∀ i < k, p i = true) (hn : k < n → p k = false) :
    ((List.range n).takeWhile p).length = k := by
  obtain ⟨m, rfl⟩ := Nat.exists_eq_add_of_le hk
  have ht : ((List.range m).map (k + ·)).takeWhile p = [] := by
    cases m with
    | zero => rfl
    | succ m => simp [List.range_succ_eq_map, hn (by omega)]
  rw [List.range_add, List.takeWhile_append_of_pos (by simpa using hp), ht]
  simp

theorem clz64_eq_takeWhile (x : Word) :
    clz64 x = BitVec.ofNat 64 (((List.range 64).takeWhile fun i => !x.getLsbD (63 - i)).length) := by
  by_cases hx : x = 0
  · subst hx; rfl
  · have hne : x.toNat ≠ 0 := fun h => hx (BitVec.eq_of_toNat_eq h)
    have hlt : x.toNat.log2 < 64 := (Nat.log2_lt hne).2 x.isLt
    rw [clz64, if_neg hx, length_takeWhile_range (k := 63 - x.toNat.log2) (by omega)]
    · intro i hi
      have : x.toNat < 2 ^ (63 - i) := (Nat.log2_lt hne).1 (by omega)
      simp [BitVec.getLsbD, Nat.testBit_lt_two_pow this]
    · intro _
      have : 63 - (63 - x.toNat.log2) = x.toNat.log2 := by omega
      simp [this, BitVec.getLsbD, Nat.testBit_log2 hne]

/-- `x & -x` keeps the lowest set bit alone. -/
theorem and_neg_eq_twoPow {x : Word} {k : Nat} (hk : x.getLsbD k = true) (hlow : ∀ i < k, x.getLsbD i = false) :
    x &&& (0 - x) = BitVec.twoPow 64 k := by
  apply BitVec.eq_of_getLsbD_eq
  intro j hj
  rw [show (0 : Word) - x = -x from BitVec.zero_sub x, BitVec.getLsbD_and, BitVec.getLsbD_neg, BitVec.getLsbD_twoPow]
  have hk64 : k < 64 := BitVec.lt_of_getLsbD hk
  rcases Nat.lt_trichotomy j k with h | rfl | h
  · simp [hlow j h, show k ≠ j by omega]
  · have : ¬ ∃ i < j, x.getLsbD i = true := fun ⟨i, hi, h⟩ => by simp [hlow i hi] at h
    simp [hk, hj, this]
  · have : ∃ i < j, x.getLsbD i = true := ⟨k, h, hk⟩
    simp [hj, this, show k ≠ j by omega]

theorem exists_least {p : Nat → Bool} {n : Nat} (hn : p n = true) : ∃ k, p k = true ∧ ∀ i < k, p i = false := by
  induction n using Nat.strongRecOn with
  | ind n ih =>
    by_cases h : ∃ i, i < n ∧ p i = true
    · obtain ⟨i, hi, hp⟩ := h
      exact ih i hi hp
    · exact ⟨n, hn, fun i hi => Bool.eq_false_iff.2 fun hp => h ⟨i, hi, hp⟩⟩

theorem ctz64_eq_takeWhile (x : Word) :
    ctz64 x = BitVec.ofNat 64 (((List.range 64).takeWhile fun i => !x.getLsbD i).length) := by
  by_cases hx : x = 0
  · subst hx; rfl
  · obtain ⟨n, hn⟩ := Nat.exists_testBit_of_ne_zero fun h => hx (BitVec.eq_of_toNat_eq h)
    obtain ⟨k, hk, hlow⟩ := exists_least (p := x.getLsbD) hn
    have hk64 : k < 64 := BitVec.lt_of_getLsbD hk
    rw [ctz64, if_neg hx, and_neg_eq_twoPow hk hlow, BitVec.toNat_twoPow, Nat.mod_eq_of_lt (Nat.pow_lt_pow_right (by decide) hk64), Nat.log2_two_pow,
      length_takeWhile_range (Nat.le_of_lt hk64)]
    · exact fun i hi => by simp [hlow i hi]
    · exact fun _ => by simp [hk]

/-- A number below 2^n is the sum of its bits. -/
theorem sum_testBit_range (x n : Nat) : ((List.range n).map fun i => if x.testBit i then 2 ^ i else 0).sum = x % 2 ^ n := by
  induction n with
  | zero => simp [Nat.mod_one]
  | succ n ih =>
    rw [List.range_succ, List.map_append, List.sum_append, ih, Nat.mod_pow_succ, ← Nat.toNat_testBit]
    cases h : x.testBit n <;> simp [h]

theorem brev64_eq_sum (x : Word) :
    brev64 x = BitVec.ofNat 64 ((List.range 64).map fun i => if x.getLsbD (63 - i) then 2 ^ i else 0).sum := by
  have hb : ∀ i ∈ List.range 64, (if x.getLsbD (63 - i) then 2 ^ i else 0) = if x.reverse.toNat.testBit i then 2 ^ i else 0 := by
    intro i hi
    have := BitVec.getLsbD_reverse (x := x) (i := i)
    rw [BitVec.getMsbD_eq_getLsbD, decide_eq_true (List.mem_range.1 hi), Bool.true_and] at this
    rw [← this]; rfl
  rw [List.map_congr_left hb, sum_testBit_range, Nat.mod_eq_of_lt x.reverse.isLt, BitVec.ofNat_toNat, BitVec.setWidth_eq, brev64]

/-! ### Scalar instructions -/

/-- An instruction whose meaning in both streams is the writing of one register. -/
theorem scalar_of_runBoth {i : Instr} {regs : List (BitVec 6)} {d : BitVec 6} {la : Nat} {f : Thread → Word} {fc : Cx → Out} {fq : Sx → SOut}
    (he : ∀ s, exec i s = runBoth inTxn i fc fq s) (hc : ∀ cx, cx.vps = none → fc cx = okWrite cx d.toNat (f cx.g.th) la)
    (hq : ∀ sx, (∀ n ∈ regs, n.toNat < 32) → fq sx = okWriteSeq sx d.toNat (f sx.q.th) la) : Scalar i regs d la f := by
  constructor
  · intro s cx h
    rw [CtlWrites, he, runBoth, runInstr_ctl h.1 h.2]
    simp only [inTxn, guardCtl_inTxn, hc cx h.vps]
    exact h.done (writeXla_pc ..) ⟨⟨rfl, rfl, threadRest_wroteNext _ _ _ _ _ _⟩, xKept_wroteNext _ _ _ _ _ _, xWritten_wroteNext _ _ _ _ _ _⟩
  · intro s sx h hr
    rw [SeqWrites, he, runBoth, runInstr_seq h.1 h.2]
    simp only [inTxn, featureOk, if_true, hq sx hr]
    exact h.done (writeXla_pc ..) ⟨rfl, threadRest_wroteNext _ _ _ _ _ _, xKept_wroteNext _ _ _ _ _ _, xWritten_wroteNext _ _ _ _ _ _⟩

theorem readS_none {cx : Cx} (h : cx.vps = none) (n : Nat) : readS cx n = readX cx.g.th n := by
  simp [readS, h]

theorem kOk_iff (l : List (BitVec 6)) : kOk l = true ↔ ∀ n ∈ l, n.toNat < 32 := by
  simp [kOk]

theorem scalar_alu {i : Instr} {d a b : BitVec 6} {la : Nat} {f g : Word → Word → Word}
    (he : ∀ s, exec i s = runAlu i d a b la f s) (hf : ∀ x y, f x y = g x y) : Scalar i [d, a, b] d la (two a b g) :=
  scalar_of_runBoth he (fun cx h => by simp only [readS_none h, hf, two])
    fun sx h => by rw [if_pos ((kOk_iff _).2 h), hf, two]

theorem scalar_alu1 {i : Instr} {d a : BitVec 6} {f g : Word → Word}
    (he : ∀ s, exec i s = runAlu1 i d a f s) (hf : ∀ x, f x = g x) : Scalar i [d, a] d 0 (one a g) :=
  scalar_of_runBoth he (fun cx h => by simp only [readS_none h, hf, one])
    fun sx h => by rw [if_pos ((kOk_iff _).2 h), hf, one]

theorem scalar_pc {i : Instr} {d : BitVec 6} {f g : Word → Word}
    (he : ∀ s, exec i s = runPc i d f s) (hf : ∀ x, f x = g x) : Scalar i [d] d 0 (fun th => g th.pc) :=
  scalar_of_runBoth he (fun cx _ => by simp only [hf])
    fun sx h => by rw [if_pos ((kOk_iff _).2 h), hf]

/-! ### Words of major 0x04 -/

theorem decode_of_major_04 {w : IWord} (h : fld w 26 6 = 4#6) : decode w = decode04 w := by
  simp only [decode, h]

/-- The words of major 0x04 behind its nineteen instructions, and POPC to BREV with a `b` field, stand for none (R275). -/
theorem undefined_04 : Undefined 4 fun fn b => fn = 0x0F ∨ 0x14 ≤ fn ∨ 0x10 ≤ fn ∧ b ≠ 0 := by
  intro w hw hf
  refine ⟨?_, illegal_of_not_stridedOffset (by simp [stridedOffset, hw])⟩
  rw [decode_of_major_04 hw]
  simp only [decode04, ← BitVec.toNat_inj, BitVec.toNat_ofNat]
  repeat rw [if_neg (by omega)]

/-- Settles O1. Each instruction writes one register in either stream; what it writes is the model's own arithmetic, which the lemmas on
words above turn into the statement's. -/
theorem scalarInteger : Obligations.ScalarInteger := by
  unfold Obligations.ScalarInteger
  refine ⟨⟨fun d a b => ?registers, undefined_04⟩, fun d a n i12 i14 i19 => ?immediates, fun d a b l => ?products⟩
  case registers =>
    exact ⟨scalar_alu (exec_add d a b) fun _ _ => rfl, scalar_alu (exec_sub d a b) fun _ _ => rfl,
      scalar_alu (exec_and d a b) fun _ _ => rfl, scalar_alu (exec_or d a b) fun _ _ => rfl,
      scalar_alu (exec_xor d a b) fun _ _ => rfl, scalar_alu (exec_andn d a b) fun _ _ => rfl,
      scalar_alu (exec_sll d a b) fun _ _ => rfl, scalar_alu (exec_srl d a b) fun _ _ => rfl,
      scalar_alu (exec_sra d a b) fun _ _ => rfl, scalar_alu (exec_slt d a b) flag_slt, scalar_alu (exec_sltu d a b) flag_ult,
      scalar_alu (exec_min d a b) min_slt, scalar_alu (exec_max d a b) max_slt, scalar_alu (exec_minu d a b) min_ult,
      scalar_alu (exec_maxu d a b) max_ult, scalar_alu1 (exec_popc d a) popc64_eq_countP,
      scalar_alu1 (exec_clz d a) clz64_eq_takeWhile, scalar_alu1 (exec_ctz d a) ctz64_eq_takeWhile,
      scalar_alu1 (exec_brev d a) brev64_eq_sum⟩
  case immediates =>
    exact ⟨scalar_alu1 (exec_addi d a i14) fun _ => rfl, scalar_alu1 (exec_andi d a i12) fun _ => rfl,
      scalar_alu1 (exec_ori d a i12) fun _ => rfl, scalar_alu1 (exec_xori d a i12) fun _ => rfl,
      scalar_alu1 (exec_slti d a i12) fun x => by rw [flag_slt, BitVec.toInt_signExtend_of_le (by decide)],
      scalar_alu1 (exec_slli d a n) fun _ => rfl, scalar_alu1 (exec_srli d a n) fun _ => rfl,
      scalar_alu1 (exec_srai d a n) fun _ => rfl, scalar_pc (exec_ldhi d i19) fun _ => hi19_eq_append i19,
      scalar_pc (exec_addpc d i19) fun pc => congrArg (pc + ·) (hi19_eq_append i19)⟩
  case products =>
    exact ⟨scalar_alu (exec_mul d a b l) fun _ _ => rfl, scalar_alu (exec_mulh d a b l) mulhs_eq_high,
      scalar_alu (exec_mulhu d a b l) mulhu_eq_high, scalar_alu (exec_div d a b l) divS_eq_quotS,
      scalar_alu (exec_divu d a b l) divU_eq_udiv, scalar_alu (exec_rem d a b l) remS_eq_remaS,
      scalar_alu (exec_remu d a b l) remU_eq_umod⟩

end Sys2Proof.Claim
end

section
/-! PROOFS. The predicate instructions (R282, R283): masked writes of a predicate register in a control thread and in a block, and O5. -/
namespace Sys2Proof.Claim
open Sys2Proof.Machine

/-! ### Bits of a masked write -/

theorem testBit_merge (x mask v i : Nat) : (merge x mask v).testBit i = if mask.testBit i then v.testBit i else x.testBit i := by
  simp only [merge, Nat.testBit_xor, Nat.testBit_and]
  cases mask.testBit i <;> simp

theorem testBit_lowMask (n j : Nat) : (lowMask n).testBit j = decide (j < n) := by
  rw [lowMask, Nat.testBit_two_pow_sub_one]

theorem testBit_setBit_true (x n j : Nat) : (setBit x n true).testBit j = (decide (n = j) || x.testBit j) := by
  have hr : x % 2 ^ n < 2 ^ n := Nat.mod_lt _ (Nat.two_pow_pos n)
  have hlow : 2 ^ n * 1 + x % 2 ^ n < 2 ^ (n + 1) := by rw [Nat.pow_succ]; omega
  have he : setBit x n true = 2 ^ (n + 1) * (x >>> (n + 1)) + (2 ^ n * 1 + x % 2 ^ n) := by
    simp [setBit, setBits, Nat.shiftLeft_eq, Nat.mul_comm, Nat.add_assoc]
  rw [he, Nat.testBit_two_pow_mul_add _ hlow, Nat.testBit_two_pow_mul_add _ hr, Nat.testBit_shiftRight, Nat.testBit_mod_two_pow]
  rcases Nat.lt_trichotomy j n with h | rfl | h
  · simp [h, show j < n + 1 by omega, show n ≠ j by omega]
  · simp
  · simp [show ¬ j < n + 1 by omega, show n ≠ j by omega, show n + 1 + (j - (n + 1)) = j by omega]

/-- The bits set by a batch: those of its members that the instruction makes true. -/
theorem testBit_foldl_setBit (f : Nat → Bool) (l : List Nat) (x j : Nat) :
    (l.foldl (fun a i => if f i then setBit a i true else a) x).testBit j = (decide (j ∈ l) && f j || x.testBit j) := by
  induction l generalizing x with
  | nil => simp
  | cons i l ih =>
    rw [List.foldl_cons, ih]
    by_cases hij : i = j
    · subst hij
      cases f i <;> simp [testBit_setBit_true]
    · cases f i <;> simp [testBit_setBit_true, hij, Ne.symm hij]

theorem testBit_foldl_setBit_true (l : List Nat) (j : Nat) : (l.foldl (fun a i => setBit a i true) 0).testBit j = decide (j ∈ l) := by
  simpa using testBit_foldl_setBit (fun _ => true) l 0 j

theorem upFrom_eq_range' (a n : Nat) : upFrom a n = List.range' a n := by
  induction n generalizing a with
  | zero => rfl
  | succ n ih => rw [upFrom, ih, List.range'_succ]

/-! ### Writing a predicate register -/

section
variable (g : Group) (n mask v : Nat)

theorem putPred_pc : (putPred g n mask v).th.pc = g.th.pc := by
  unfold putPred; split <;> rfl

theorem putPred_txn : (putPred g n mask v).txn = g.txn := by
  unfold putPred; split <;> rfl

theorem tgetD_putPred (m : Nat) : tgetD (putPred g n mask v).p m 0 = if n ≠ 0 ∧ n = m then merge (tgetD g.p n 0) mask v else tgetD g.p m 0 := by
  unfold putPred
  split
  · simp [*]
  · simp [*, pokeGroup, tgetD_tputD]

/-- A group that wrote a predicate has changed in its predicates, its windows and those of its VPs alone. -/
theorem putPred_eq : putPred g n mask v =
    { g with p := (putPred g n mask v).p, block := (putPred g n mask v).block, th := { g.th with wins := (putPred g n mask v).th.wins } } := by
  unfold putPred; split <;> rfl

theorem vpOf_putPred_pc (i : Nat) : (vpOf (putPred g n mask v) i).map (·.pc) = (vpOf g i).map (·.pc) := by
  unfold putPred
  split
  · rfl
  · cases hb : g.block <;> simp [vpOf, pokeGroup, hb, tget_tmap, Function.comp_def]

theorem putPred_block_none (h : g.block = none) : (putPred g n mask v).block = none := by
  unfold putPred; split <;> simp [pokeGroup, h]

theorem putPred_x : (putPred g n mask v).th.x = g.th.x := by
  unfold putPred; split <;> rfl

theorem putPred_wins_of_nil (h : g.th.wins = []) : (putPred g n mask v).th.wins = [] := by
  unfold putPred; split <;> simp [pokeGroup, poke, h]

theorem xKept_putPred (pc : Word) (w : IWord) : XKept g.th (threadNext (putPred g n mask v).th pc w 0 []) 0 := by
  intro m _
  have hx : rawX (threadNext (putPred g n mask v).th pc w 0 []) m = rawX g.th m := by simp [rawX, putPred_x]
  refine ⟨hx, fun h => ?_⟩
  have hw : (threadNext (putPred g n mask v).th pc w 0 []).wins = [] := by
    simp [putPred_wins_of_nil g n mask v h, advanceWindows, tickWindows]
  rw [readX_wins_nil hw, readX_wins_nil h, hx]

/-- With no block in progress, a control thread that wrote a predicate and went on keeps the rest of its group. -/
theorem predRest_putPred (h : g.block = none) (pc : Word) (w : IWord) : PredRest g (groupNext (putPred g n mask v) pc false w 0 []) n := by
  refine ⟨⟨?_, ?_, ?_⟩, xKept_putPred g n mask v pc w, fun m hm => ?_⟩
  · have he := putPred_eq g n mask v
    rw [putPred_block_none g n mask v h, ← h] at he
    rw [he]; rfl
  · rw [groupNext_txn, putPred_txn]
  · unfold ThreadRest putPred; split <;> rfl
  · rw [groupNext_p, tgetD_putPred, if_neg (by rintro ⟨h0, rfl⟩; simp [h0] at hm)]

end

/-! ### In a control thread -/

/-- Every bit of the image that PCMP, PANY and PALL write is their one result. -/
theorem testBit_all {n j : Nat} (b : Bool) (hj : j < n) : (if b then lowMask n else 0).testBit j = b := by
  cases b <;> simp [testBit_lowMask, hj]

/-- A predicate instruction meets no wait of its own where no block is in progress (R116, R273). -/
theorem guardCtl_predRules {cx : Cx} (h : cx.g.block = none) (w : IWord) (f : Cx → Out) : guardCtl predRules w f cx = f cx := by
  simp [guardCtl, predRules, featureOk, h]

/-- A control thread that writes the bits below VLMAX of a predicate completes with them. -/
theorem CtlActs.done_putPred {s : State} {cx : Cx} (h : CtlActs s cx) (hb : cx.g.block = none) (w : IWord) (pd : BitVec 7) {v : Nat} {f : Nat → Bool}
    (hv : ∀ j < vlmax cx.kn cx.g, v.testBit j = f j) :
    CtlDone (.next (finishCtl w (ok { cx with g := putPred cx.g pd.toNat (lowMask (cxVlmax cx)) v }))) s cx.k cx.i (cx.g.th.pc + 4) fun g' =>
      PredRest cx.g g' pd.toNat ∧
        (pd ≠ 0 → ∀ j, bit (tgetD g'.p pd.toNat 0) j = if j < vlmax cx.kn cx.g then f j else bit (tgetD cx.g.p pd.toNat 0) j) := by
  refine h.done (la := 0) (hid := []) (putPred_pc ..) ⟨predRest_putPred _ _ _ _ hb _ _, fun hpd j => ?_⟩
  rw [groupNext_p, tgetD_putPred, if_pos ⟨mt (toNat_eq_zero pd).1 hpd, rfl⟩, bit_eq_testBit, bit_eq_testBit, testBit_merge, testBit_lowMask, cxVlmax]
  by_cases hj : j < vlmax cx.kn cx.g
  · simp [hj, hv j hj]
  · simp [hj]

theorem predImage_none {cx : Cx} (h : cx.vps = none) (n i : Nat) : predImage cx n i = readP cx.g n := by
  simp [predImage, readP, winsOf, h]

theorem predBit_none {cx : Cx} (h : cx.vps = none) (n : Nat) : predBit cx n = fun e => bit (readP cx.g n) e := by
  funext e; rw [predBit, predImage_none h]

/-- An instruction whose meaning in a control thread is the writing of the bits of one predicate below VLMAX. -/
theorem predCtl_of_putPred {i : Instr} {pd : BitVec 7} {fc : Cx → Out} {fb : Option (Cx → Out)} {v : Cx → Nat} {f : Cx → Nat → Bool}
    (he : ∀ s, exec i s = runInstr predRules i (some fc) fb none s)
    (hc : ∀ cx, cx.vps = none → fc cx = ok { cx with g := putPred cx.g pd.toNat (lowMask (cxVlmax cx)) (v cx) })
    (hv : ∀ cx, cx.vps = none → ∀ j < vlmax cx.kn cx.g, (v cx).testBit j = f cx j) : PredCtl i pd f := by
  intro s cx h hb
  rw [he, runInstr_ctl h.1 h.2]
  simp only [guardCtl_predRules hb, hc cx h.vps]
  exact h.done_putPred hb _ pd (hv cx h.vps)

/-! ### In a block -/

theorem BlkActs.group {s : State} {cx : Cx} {bs : List Nat} {pc : Word} (h : BlkActs s cx bs pc) :
    getGroup s cx.k cx.i = some cx.g ∧ cx.s = s ∧ cx.vps = some bs := by
  obtain ⟨⟨_, _, ho⟩, _⟩ := h
  obtain ⟨t, _, _, ht, _, hg, _, _, _, _, _, _, he⟩ := openBlk_some ho
  rw [he]
  exact ⟨by simp [getGroup, ht, hg], rfl, rfl⟩

/-- A batch's instruction that completes in every VP and leaves the group as `g`, with its transaction as it was. -/
theorem BlkActs.finish {s : State} {cx : Cx} {bs : List Nat} {pc : Word} (h : BlkActs s cx bs pc) {g : Group} (ht : g.txn = cx.g.txn) :
    finishBlk pc bs (ok { cx with g := g }) = putGroup s cx.k cx.i (modVps g bs fun _ v => vpNext (pc + 4) 0 [] v) := by
  obtain ⟨hg, hs, _⟩ := h.group
  have hsettle : settleTxn { cx with g := g } = { cx with g := g } := by
    simp only [settleTxn, hs, hg, ht]
    cases cx.g.txn <;> simp
  have hall : bs.filter (fun i => !([] : List Nat).contains i) = bs := List.filter_eq_self.2 fun _ _ => rfl
  simp only [finishBlk, ok, hsettle, hall, List.map_nil]
  rw [hs]

theorem modVps_p (g : Group) (l : List Nat) (f : Nat → Vp → Vp) : (modVps g l f).p = g.p := rfl

/-- The VPs that complete stand at the next instruction, the others where they stood. -/
theorem vpOf_modVps_pc (g : Group) (l : List Nat) (pc : Word) (i : Nat) :
    (vpOf (modVps g l fun _ v => vpNext pc 0 [] v) i).map (·.pc) = ((vpOf g i).map (·.pc)).map fun q => if i ∈ l then pc else q := by
  cases hb : g.block with
  | none => simp [vpOf, modVps, hb]
  | some b =>
    have hv : vpOf (modVps g l fun _ v => vpNext pc 0 [] v) i = (tget b.vps i).map fun v => if i ∈ l then vpNext pc 0 [] v else v := by
      simp [vpOf, modVps, hb, tget_tmap]
    rw [hv]
    by_cases hi : i ∈ l <;> simp [vpOf, hb, hi, vpNext, Function.comp_def]

/-- The predicate image that a batch writes: the result of each of its VPs, at the VP's own bit. -/
theorem okPred_eq {cx : Cx} {bs : List Nat} (hv : cx.vps = some bs) (pd : Nat) (f : Nat → Bool) : okPred cx pd 0 f =
    ok { cx with g := putPred cx.g pd (bs.foldl (fun a i => setBit a i true) 0) (bs.foldl (fun a i => if f i then setBit a i true else a) 0) } := by
  have hr : raise cx.g 0 = cx.g := by simp [raise]
  simp [okPred, active, hv, hr, ok]

/-- An instruction whose meaning in a block is the writing of each VP's own bit of one predicate. -/
theorem predBlk_of_okPred {i : Instr} {pd : BitVec 7} {fb : Cx → Out} {fc : Option (Cx → Out)} {f : (BitVec 7 → Bool) → Bool}
    (he : ∀ s, exec i s = runInstr predRules i fc (some fb) none s)
    (hb : ∀ cx bs, cx.vps = some bs → fb cx = okPred cx pd.toNat 0 fun v => f fun n => predBit cx n.toNat v) : PredBlk i pd f := by
  intro s cx bs pc h
  obtain ⟨hg, hs, hvps⟩ := h.group
  obtain ⟨⟨v, hc, ho⟩, hrun⟩ := h
  rw [he, runInstr_blk hc ho]
  simp only [predRules, featureOk, if_true, hb cx bs hvps, okPred_eq hvps]
  rw [BlkActs.finish ⟨⟨v, hc, ho⟩, hrun⟩ (putPred_txn ..)]
  refine ⟨_, _, rfl, butGroup_putGroup .., getGroup_putGroup_self hg, fun i hi => ?_, fun i hi => ?_, ?_, fun n hn => ?_, fun hpd j => ?_⟩
  · have hv : (vpOf cx.g i).map (·.pc) = some pc := by
      simpa [Function.comp_def] using congrArg (Option.map Prod.snd) (hrun i hi)
    simp [vpOf_modVps_pc, vpOf_putPred_pc, hv, hi]
  · simp [vpOf_modVps_pc, vpOf_putPred_pc, hi, Function.comp_def]
  · rw [putPred_eq]; rfl
  · rw [modVps_p, tgetD_putPred, if_neg fun ⟨h0, he⟩ => hn.elim (· he.symm) fun h => h0 ((toNat_eq_zero pd).2 h)]
  · rw [modVps_p, tgetD_putPred, if_pos ⟨mt (toNat_eq_zero pd).1 hpd, rfl⟩, bit_eq_testBit, bit_eq_testBit, testBit_merge, testBit_foldl_setBit, testBit_foldl_setBit_true]
    by_cases hj : j ∈ bs <;> simp [hj]

theorem condHolds_eq_cond (c : BitVec 3) (x y : Word) (hc : c.toNat ≤ 5) : condHolds 64 c.toNat x.toNat y.toNat = Claim.cond c x y := by
  simp only [condHolds, Claim.cond, Nat.mod_eq_of_lt x.isLt, Nat.mod_eq_of_lt y.isLt, signed_toNat, ge_iff_le]
  have hcode : c.toNat = 0 ∨ c.toNat = 1 ∨ c.toNat = 2 ∨ c.toNat = 3 ∨ c.toNat = 4 ∨ c.toNat = 5 := by omega
  rcases hcode with h | h | h | h | h | h <;> simp only [h, BitVec.toNat_inj, ne_eq]

theorem decode_of_major_0D {w : IWord} (h : fld w 26 6 = 13#6) : decode w = decode0D w := by
  simp only [decode, h]

/-- What is left of major 0x0D behind the seven instructions (R283). -/
theorem decode_0D_none {w : IWord} (hw : fld w 26 6 = 13#6) (hf : 7 ≤ (fld w 0 5).toNat ∨ 3 ≤ (fld w 0 5).toNat ∧ fld w 5 7 ≠ 0) :
    decode w = none := by
  rw [decode_of_major_0D hw]
  simp only [decode0D, ne_eq, ← BitVec.toNat_inj, BitVec.ofNat_eq_ofNat, BitVec.toNat_ofNat] at hf ⊢
  repeat rw [if_neg (by omega)]

/-! ### Compares, logic and the active elements -/

theorem vlmax_le (kn : Kernel) (g : Group) : vlmax kn g ≤ 8192 := Nat.min_le_left ..

theorem testBit_pOnes (j : Nat) : pOnes.testBit j = decide (j < 8192) := testBit_lowMask 8192 j

/-- A compare with one of the six conditions writes its result to every VP's bit. -/
theorem compares_of_runGroup {i : Instr} {p : BitVec 7} {c : BitVec 3} (hc : c.toNat ≤ 5) {a : BitVec 6} {y : Cx → Word} {z : Thread → Word}
    (he : ∀ s, exec i s = runGroup predRules i (fun cx => if c.toNat > 5 then illegal cx (encode i)
      else ok (putPredAll cx p.toNat (condHolds 64 c.toNat (readS cx a.toNat).toNat (y cx).toNat))) s)
    (hy : ∀ cx, cx.vps = none → y cx = z cx.g.th) : Compares i p fun th => cond c (readX th a.toNat) (z th) :=
  predCtl_of_putPred he (fun cx h => by simp only [if_neg (Nat.not_lt.2 hc), condHolds_eq_cond c _ _ hc, readS_none h, hy cx h, putPredAll]; rfl)
    fun _ _ _ hj => testBit_all _ hj

/-- Conditions 6 and 7 are illegal (R282). -/
theorem compare_traps {i : Instr} {c : BitVec 3} (hc : 6 ≤ c.toNat) {f : Cx → Out}
    (he : ∀ s, exec i s = runGroup predRules i (fun cx => if c.toNat > 5 then illegal cx (encode i) else f cx) s) {s : State} {cx : Cx}
    (hb : cx.g.block = none) (h : CtlActs s cx) (ht : cx.g.txn = none) (hh : Handled s cx.k) : CtlTraps (exec i s) s cx 1 ((encode i).setWidth 64) := by
  rw [he, runGroup, runInstr_ctl h.1 h.2]
  simp only [guardCtl_predRules hb, if_pos (show c.toNat > 5 from hc)]
  exact h.traps ht hh _ rfl rfl

/-- Predicate logic that works bit by bit on the images of R247 does so on every VP's bit. -/
theorem logic_of_runLogic {i : Instr} {d a b : BitVec 7} {f : Nat → Nat → Nat} {o : Bool → Bool → Bool} (he : ∀ s, exec i s = runLogic i d a b f s)
    (hf : ∀ x y j, j < 8192 → (f x y).testBit j = o (x.testBit j) (y.testBit j)) : Logic i d fun r => o (r a) (r b) := by
  simp only [runLogic, runVector] at he
  constructor
  · refine predCtl_of_putPred he (v := fun cx => f (predImage cx a.toNat 0) (predImage cx b.toNat 0) % 2 ^ cxVlmax cx)
      (fun cx h => by simp only [h]) fun cx h j hj => ?_
    rw [Nat.testBit_mod_two_pow, cxVlmax, decide_eq_true hj, Bool.true_and, hf _ _ _ (Nat.lt_of_lt_of_le hj (vlmax_le ..))]
    simp only [predImage_none h, bit_eq_testBit]
  · refine predBlk_of_okPred he fun cx bs h => ?_
    have himage : ∀ q : Bool, (if q then pOnes else 0).testBit 0 = q
      | true => by rw [if_pos rfl, testBit_pOnes]; rfl
      | false => rfl
    have hlow : ∀ n, bit (n % 2) 0 = n.testBit 0 := fun n => by simp [bit]
    simp only [h, hlow, hf _ _ 0 (by decide), himage]

theorem predBlk_runQuant {i : Instr} {d a : BitVec 7} {q : Cx → Bool} (he : ∀ s, exec i s = runQuant i d a q s) : PredBlk i d fun r => r a := by
  simp only [runQuant, runVector] at he
  exact predBlk_of_okPred he fun cx bs h => by simp only [h]

theorem predCtl_runQuant {i : Instr} {d a : BitVec 7} {q : Cx → Bool} {f : Cx → Nat → Bool} (he : ∀ s, exec i s = runQuant i d a q s)
    (hq : ∀ cx, cx.vps = none → ∀ j, q cx = f cx j) : PredCtl i d f := by
  simp only [runQuant, runVector] at he
  exact predCtl_of_putPred he (v := fun cx => if q cx then lowMask (cxVlmax cx) else 0) (fun cx h => by simp only [h, putPredAll])
    fun cx h j hj => (testBit_all _ hj).trans (hq cx h j)

/-- The active elements of a control thread: those below VLEN that VMASK admits (R302). -/
theorem active_none {cx : Cx} (h : cx.vps = none) : active cx = (List.range (readVlen cx)).filter fun e =>
    decide (cx.g.vmask.toNat % 128 = 0) || bit (readP cx.g (cx.g.vmask.toNat % 128)) e := by
  have hm : vmaskPred cx.g = cx.g.vmask.toNat % 128 := by simp [vmaskPred, bits]
  simp only [active, h, upFrom_eq_range', List.range_eq_range']
  congr 1
  funext e
  simp only [maskBit, predBit_none h, hm]

/-- Settles O5. Every instruction writes one predicate under a mask: in a control thread the bits below VLMAX, in a block those of the VPs that
issue; what is left for each is the image it writes. -/
theorem predicates : Obligations.Predicates := by
  unfold Obligations.Predicates
  refine ⟨fun p a b i c => ⟨fun hc => ⟨?pcmp, ?pcmpi⟩, ?illegal, ?immediate⟩,
    fun d a b => ⟨?pand, ?por, ?pxor, ?pnot, ?pmov, ?pany, ?pall, ?panyBlk, ?pallBlk⟩, ?undefined⟩
  case pcmp => exact compares_of_runGroup hc (exec_pcmp p a b c) fun cx h => readS_none h _
  case pcmpi => exact compares_of_runGroup hc (exec_pcmpi p a i c) fun cx h => rfl
  case illegal =>
    intro hc x hx s cx hb h ht hh
    simp only [List.mem_cons, List.not_mem_nil, or_false] at hx
    rcases hx with rfl | rfl
    · exact compare_traps hc (exec_pcmp p a b c) hb h ht hh
    · exact compare_traps hc (exec_pcmpi p a i c) hb h ht hh
  case immediate =>
    rw [BitVec.toInt_signExtend_of_le (by decide)]
    have hlo := i.le_toInt
    have hhi := i.toInt_lt
    omega
  case pand => exact logic_of_runLogic (exec_pand d a b) fun x y j _ => Nat.testBit_and ..
  case por => exact logic_of_runLogic (exec_por d a b) fun x y j _ => Nat.testBit_or ..
  case pxor => exact logic_of_runLogic (exec_pxor d a b) fun x y j _ => Nat.testBit_xor ..
  case pnot => exact logic_of_runLogic (o := fun q _ => !q) (exec_pnot d a) fun x _ j hj => by simp [testBit_pOnes, hj]
  case pmov => exact logic_of_runLogic (o := fun q _ => q) (exec_pmov d a) fun _ _ _ _ => rfl
  case pany => exact predCtl_runQuant (exec_pany d a) fun cx h _ => by rw [active_none h, predBit_none h]
  case pall => exact predCtl_runQuant (exec_pall d a) fun cx h _ => by rw [active_none h, predBit_none h]
  case panyBlk => exact predBlk_runQuant (exec_pany d a)
  case pallBlk => exact predBlk_runQuant (exec_pall d a)
  case undefined => exact fun w hw hf => ⟨decode_0D_none hw hf, illegal_of_not_stridedOffset (by simp [stridedOffset, hw])⟩

end Sys2Proof.Claim
end
